-- ==== Sys2Proof/Word.lean ====
section
/-! DEFINITION. The word types of the Limzoath architecture and their plainest arithmetic. -/

namespace Sys2Proof

/-- A scalar or sequencer register (R78). -/
abbrev Word := BitVec 64

/-- One lane's word of a lane register, a mask or an instruction word (R31, R38). -/
abbrev Half := BitVec 32

/-- The smallest addressable unit (R37). -/
abbrev Byte := BitVec 8

/-- A six-bit scalar or sequencer register field (R43). -/
abbrev Reg := BitVec 6

/-- Bits `[hi:lo]` of `x` as a number (R6). -/
def bits (x hi lo : Nat) : Nat := x / 2 ^ lo % 2 ^ (hi + 1 - lo)

/-- Bit `i` of `x`. -/
def bitOf (x i : Nat) : Bool := x / 2 ^ i % 2 == 1

/-- `sext(x, n)` of R65: the integer whose n-bit two's-complement form is `x[n-1:0]`. -/
def sext (x n : Nat) : Int :=
  let y := x % 2 ^ n
  if 2 * y < 2 ^ n then (y : Int) else (y : Int) - 2 ^ n

/-- `zext(x, n)` of R65. -/
def zext (x n : Nat) : Nat := x % 2 ^ n

/-- The n-bit two's-complement form of an exact integer. -/
def wrap (x : Int) (n : Nat) : Nat := (x % (2 ^ n : Int)).toNat

/-- The low 64 bits of an exact integer (`s_d := res mod 2^64`, R85 context). -/
def toWord (x : Int) : Word := BitVec.ofInt 64 x

/-- Bytes, least significant first, of the low `n` bytes of `x` (R37). -/
def bytesLE : Nat → Nat → List Byte
  | 0, _ => []
  | n + 1, x => BitVec.ofNat 8 x :: bytesLE n (x / 256)

/-- The unsigned little-endian value of bytes (R37). -/
def natLE : List Byte → Nat
  | [] => 0
  | b :: bs => b.toNat + 256 * natLE bs

/-- The lanes 0 to 31 in ascending order (R18). -/
def lanes : List Nat := List.range 32

end Sys2Proof
end

