-- ==== Sys2Proof/Config.lean ====
section
/-! DEFINITION. What one implementation fixes, and the free values: results the manual leaves open. -/

namespace Sys2Proof.Config

/-- FREE VALUE (R3, log entry 2): the `n`-th unpredictable value drawn; each use truncates it to its destination's format. -/
opaque freeBits : Nat → Nat

/-- FREE CHOICE (R4, R33, log entry 3): the `n`-th choice of an unspecified order; each use reduces it to its options. -/
opaque freeChoice : Nat → Nat

/-- FREE VALUE (R180, log entries 2 and 36): what the walk of a line transaction reads at an address, where a program has written an entry
through a mapping that is no alias, or where the entry's line is poisoned. -/
opaque freeEntry : Nat → Nat → BitVec 64

/-- FREE CHOICE (R176, R188, R191, log entry 3): which of several entries, lines or mappings a line transaction uses; the first argument
numbers the transaction, the second the point at which it chooses. -/
opaque freeUse : Nat → Nat → Nat

/-- The hash that gives a line's home slice, by ASID and VA[51:7] (R175): not architectural. -/
opaque sliceHash : Nat → Nat → Nat

/-- The set that holds a line, by cache kind (0 L1, 1 die cache, 2 memory-side buffer), ASID and line (R175, log entry 12). -/
opaque setIndex : Nat → Nat → Nat → Nat

/-- AES-GCM-256 ciphertext and tag, and AES-GMAC-256 tag, of a flit (R339, log entry 13): by partition, peer package, packet and flit number, and
the plain bytes. -/
opaque gcmText : Nat → Nat → Nat → Nat → List (BitVec 8) → Nat
opaque gcmTag : Nat → Nat → Nat → Nat → List (BitVec 8) → Nat
opaque gmacTag : Nat → Nat → Nat → Nat → List (BitVec 8) → Nat

/-- Whether the two signatures of a firmware image verify (R457, log entry 13): cryptography the manual names and does not restate. -/
opaque imageSigned : List (BitVec 8) → Bool

/-- The kind of a firmware image: 0 Monel, 1 Bronze, 2 Tin (R457, log entry 13). -/
opaque imageKind : List (BitVec 8) → Nat

/-- The security version an image carries (R457, log entry 13). -/
opaque imageVersion : List (BitVec 8) → Nat

/-- The body of an SPDM response to a request (R458, log entry 13). -/
opaque spdmBody : List (BitVec 8) → List (BitVec 8)

/-- The partition to which virtual function `v` of physical function `fn` is bound (R444, log entry 33). -/
opaque vfPartition : Nat → Nat → Nat

/-- Compute dies of a package (R12). -/
def dies : Nat := 4
/-- Cores of a die (R17). -/
def cores : Nat := 64
/-- Fragment entries of a core (R156). -/
def fragEntries : Nat := 32
/-- Divergence-stack entries of a warp (R138). -/
def stackEntries : Nat := 64
/-- Lane-queue entries of a warp (R91). -/
def laneQueue : Nat := 4
/-- Copy-engine queue entries and active copies (R238). -/
def copyQueue : Nat := 64
def copyActive : Nat := 16
/-- Entries of a suspended team's log (R433). -/
def logEntries : Nat := 2048
/-- Stream slots of a die (R232). -/
def streamSlots : Nat := 256
/-- Hardware queue slots of a die (R379). -/
def hwSlots : Nat := 128
/-- Core store of a core in KiB (R23). -/
def storeKiB : Nat := 1536
/-- Bytes of a die's physical address space: 192 GiB (R187). -/
def physBytes : Nat := 192 * 2 ^ 30
/-- Filter entries of a core (R181). -/
def filterEntries : Nat := 512
/-- Translations that a base die's cache holds (R25, R187). -/
def transEntries : Nat := 65536
/-- Ways and sets by cache kind: L1, die-cache home slice, memory-side buffer (R175). -/
def cacheWays (kind : Nat) : Nat := if kind = 0 then 8 else 16
def cacheSets (kind : Nat) : Nat := if kind = 0 then 256 else if kind = 1 then 2048 else 4096
/-- Home slices of a die (R17, R175). -/
def homeSlices : Nat := 16
/-- Lines of a core's scalar and lane instruction caches: 64 KiB and 96 KiB (R19). -/
def icacheLines (lane : Bool) : Nat := if lane then 768 else 512
/-- Phaser entries of a die node and of the package node (R286). -/
def dieEntries : Nat := 4096
def pkgEntries : Nat := 16384
/-- Combining slots of a Gauze node (R286). -/
def combSlots : Nat := 1024
/-- Records of the Monel event log (R456). -/
def eventLog : Nat := 65536

/-- Core cycles in `ns` nanoseconds at 1.75 GHz, rounded up (R8). -/
def nsCycles (ns : Nat) : Nat := (ns * 7 + 3) / 4
/-- Core cycles in `us` microseconds (R8). -/
def usCycles (us : Nat) : Nat := us * 1750

end Sys2Proof.Config
end

