-- ==== Sys2Proof/Machine/Map.lean ====
section
/-! DEFINITION. Sparse data by number: lists of key and value pairs in strictly rising key order, and sets of numbers. -/

namespace Sys2Proof.Machine

/-- Sparse data by number; `Map.Sorted` is the canonical form. -/
abbrev Map (α : Type) := List (Nat × α)

namespace Map

variable {α : Type}

/-- The value at key `k`. -/
def find (m : Map α) (k : Nat) : Option α :=
  match m with
  | [] => none
  | (j, v) :: r => if j = k then some v else find r k

/-- The value at key `k`, or `d`. -/
def get (m : Map α) (k : Nat) (d : α) : α := (m.find k).getD d

/-- Set the value at key `k`, keeping the order. -/
def ins (m : Map α) (k : Nat) (v : α) : Map α :=
  match m with
  | [] => [(k, v)]
  | (j, u) :: r => if k < j then (k, v) :: (j, u) :: r else if j = k then (k, v) :: r else (j, u) :: ins r k v

/-- Remove key `k`. -/
def del (m : Map α) (k : Nat) : Map α :=
  match m with
  | [] => []
  | (j, u) :: r => if j = k then del r k else (j, u) :: del r k

/-- Change the value at key `k` where there is one. -/
def mod (m : Map α) (k : Nat) (f : α → α) : Map α :=
  match m with
  | [] => []
  | (j, u) :: r => if j = k then (j, f u) :: r else (j, u) :: mod r k f

/-- Change every value. -/
def each (m : Map α) (f : Nat → α → α) : Map α := m.map fun (j, u) => (j, f j u)

/-- The keys. -/
def keys (m : Map α) : List Nat := m.map Prod.fst

/-- Keys strictly rise. -/
def Sorted : Map α → Bool
  | [] => true
  | [_] => true
  | (j, _) :: (k, v) :: r => decide (j < k) && Sorted ((k, v) :: r)

/-- Set with zero left out: writing the value that an unlisted key reads as removes the entry. -/
def put [DecidableEq α] (m : Map α) (z : α) (k : Nat) (v : α) : Map α := if v = z then m.del k else m.ins k v

/-- The least key not below `n` that is free, looking at most `fuel` places. -/
def fresh (m : Map α) (n : Nat) : Nat → Nat
  | 0 => n
  | fuel + 1 => if (m.find n).isSome then fresh m (n + 1) fuel else n

end Map

/-- Add to a set kept as a rising list. -/
def setIns (k : Nat) : List Nat → List Nat
  | [] => [k]
  | j :: r => if k < j then k :: j :: r else if j = k then j :: r else j :: setIns k r

/-- Insert behind what does not come after. -/
def insBy {α : Type} (le : α → α → Bool) (x : α) : List α → List α
  | [] => [x]
  | y :: r => if le y x then y :: insBy le x r else x :: y :: r

/-- Sort, keeping the order of equals. -/
def sortBy {α : Type} (le : α → α → Bool) (l : List α) : List α := l.foldl (fun a x => insBy le x a) []

/-- A mask of lanes as a list, lowest first. -/
def lanesOf (m : Half) : List Nat := lanes.filter fun l => m.getLsbD l

/-- The mask of a list of lanes. -/
def maskOf (ls : List Nat) : Half := ls.foldl (fun m l => m ||| BitVec.ofNat 32 (2 ^ l)) 0

/-- How many lanes a mask holds. -/
def count (m : Half) : Nat := (lanesOf m).length

/-- The lowest lane of a mask. -/
def lowest (m : Half) : Option Nat := (lanesOf m).head?

end Sys2Proof.Machine
end

