-- ==== Sys2Proof/Syntax.lean ====
section
/-! DEFINITION. The syntax of the Limzoath instruction set and of the part's events: one constructor of `Instr` per row of the
operation table. The 222 instructions come first, in the table's order, then the events of the package's other agents. -/

namespace Sys2Proof

/-- Branch conditions of the C form (R47). -/
inductive Cond where
  | eq | ne | lt | ge | ltu | geu
  deriving DecidableEq, Repr, Inhabited

/-- Scope codes (R53). -/
inductive Scope where
  | w | t | d | p | s
  deriving DecidableEq, Repr, Inhabited

/-- Orders of FENCE and VFENCE (R54, R55). -/
inductive FOrder where
  | acq | rel | ar | sc
  deriving DecidableEq, Repr, Inhabited

/-- The fields of a 96-bit lane word below OP8 (R56). -/
structure LaneWord where
  vd : BitVec 8
  va : BitVec 8
  vb : BitVec 8
  vc : BitVec 8
  pm : BitVec 3
  pn : Bool
  ty : BitVec 4
  md : BitVec 4
  sat : Bool
  na : Bool
  nb : Bool
  abs : Bool
  bu : Bool
  cu : Bool
  sub : BitVec 6
  imm : BitVec 32
  deriving DecidableEq, Repr, Inhabited

/-- Packet types of the Twill fabric (R337). -/
inductive TwillType where
  | read | write | atomic | data | ack | nak | reserved
  deriving DecidableEq, Repr, Inhabited

/-- A Twill packet: the header fields of R337 and its data bytes. -/
structure TwillPacket where
  dpkg : Nat := 0
  dsock : Nat := 0
  vc : Nat := 0
  path : Nat := 0
  ord : Bool := false
  crypt : Nat := 0
  type : TwillType := .read
  spkg : Nat := 0
  ssock : Nat := 0
  part : Nat := 0
  exp : Nat := 0
  egen : Nat := 0
  offset : Nat := 0
  len : Nat := 0
  tag : Nat := 0
  seq : Nat := 0
  ordseq : Nat := 0
  atom : Nat := 0
  ncause : Nat := 0
  data : List Byte := []
  /-- MIN and MAX compare unsigned (R227); the header's ATOM field has no bit for it (log entry 14). -/
  uns : Bool := false
  /-- Whether the tag of R339 verifies at the receiving gateway. -/
  authentic : Bool := true
  /-- An atomic for the base die's unit: its scope, after the widening of R224, is S. -/
  sys : Bool := true
  /-- The third die of a detoured packet, which travels on VC7 (R336, R342). -/
  via : Option Nat := none
  deriving DecidableEq, Repr, Inhabited

/-- A Gauze message (R291); `port` is the child port it arrives on (R288), `reserved` a TYPE outside the table. -/
structure GauzeMsg where
  port : Nat := 0
  cls : Nat := 0
  kind : Nat := 0
  home : Nat := 0
  entry : Nat := 0
  scope : Nat := 0
  serial : Nat := 0
  phase : BitVec 32 := 0
  value : BitVec 32 := 0
  ident : BitVec 32 := 0
  count : Nat := 0
  late : Bool := false
  nan : Bool := false
  /-- The cycle in which it was sent, inside the package (R288). -/
  sent : Nat := 0
  deriving DecidableEq, Repr, Inhabited

/-- A Calico packet as it arrives at a port group: the header of R350, the payload, and whether checksum and version hold. -/
structure CalicoPacket where
  sound : Bool := true
  ncause : Nat := 0
  part : Nat := 0
  key : Nat := 0
  kgen : Nat := 0
  opid : Nat := 0
  src : Nat := 0
  mlen : Nat := 0
  poff : Nat := 0
  roff : Nat := 0
  atom : Nat := 0
  dsock : Nat := 0
  /-- The sender's IP address, as its datagram carries it, and its family. -/
  ip6 : Bool := false
  addr : Nat := 0
  payload : List Byte := []
  deriving DecidableEq, Repr, Inhabited

/-- An Ethernet frame arriving at a port (R364, R366). -/
structure EthFrame where
  iod : Nat := 0
  port : Nat := 0
  fcsOk : Bool := true
  /-- The IEEE 1588 time of its first bit, in nanoseconds, for a frame that waits; the port reads it from the clock when the frame comes (R366). -/
  time : Nat := 0
  bytes : List Byte := []
  deriving DecidableEq, Repr, Inhabited

/-- One constructor per row of the operation table. -/
inductive Instr where
  /-- ADD: R85, OP6 0x00. -/
  | add (d : Reg) (a : Reg) (b : Reg)
  /-- SUB: R85, OP6 0x00. -/
  | sub (d : Reg) (a : Reg) (b : Reg)
  /-- AND: R85, OP6 0x00. -/
  | and (d : Reg) (a : Reg) (b : Reg)
  /-- OR: R85, OP6 0x00. -/
  | or (d : Reg) (a : Reg) (b : Reg)
  /-- XOR: R85, OP6 0x00. -/
  | xor (d : Reg) (a : Reg) (b : Reg)
  /-- ANDN: R85, OP6 0x00. -/
  | andn (d : Reg) (a : Reg) (b : Reg)
  /-- SHL: R85, OP6 0x00. -/
  | shl (d : Reg) (a : Reg) (b : Reg)
  /-- SHR: R85, OP6 0x00. -/
  | shr (d : Reg) (a : Reg) (b : Reg)
  /-- SAR: R85, OP6 0x00. -/
  | sar (d : Reg) (a : Reg) (b : Reg)
  /-- MUL: R85, OP6 0x00. -/
  | mul (d : Reg) (a : Reg) (b : Reg)
  /-- MULHU: R85, OP6 0x00. -/
  | mulhu (d : Reg) (a : Reg) (b : Reg)
  /-- MULHS: R85, OP6 0x00. -/
  | mulhs (d : Reg) (a : Reg) (b : Reg)
  /-- DIVU: R85, OP6 0x00. -/
  | divu (d : Reg) (a : Reg) (b : Reg)
  /-- REMU: R85, OP6 0x00. -/
  | remu (d : Reg) (a : Reg) (b : Reg)
  /-- DIVS: R85, OP6 0x00. -/
  | divs (d : Reg) (a : Reg) (b : Reg)
  /-- REMS: R85, OP6 0x00. -/
  | rems (d : Reg) (a : Reg) (b : Reg)
  /-- MIN: R85, OP6 0x00. -/
  | min (d : Reg) (a : Reg) (b : Reg)
  /-- MAX: R85, OP6 0x00. -/
  | max (d : Reg) (a : Reg) (b : Reg)
  /-- MINU: R85, OP6 0x00. -/
  | minu (d : Reg) (a : Reg) (b : Reg)
  /-- MAXU: R85, OP6 0x00. -/
  | maxu (d : Reg) (a : Reg) (b : Reg)
  /-- CLZ: R85, OP6 0x00, b zero. -/
  | clz (d : Reg) (a : Reg)
  /-- CTZ: R85, OP6 0x00, b zero. -/
  | ctz (d : Reg) (a : Reg)
  /-- POPC: R85, OP6 0x00, b zero. -/
  | popc (d : Reg) (a : Reg)
  /-- SEQ: R85, OP6 0x00. -/
  | seq (d : Reg) (a : Reg) (b : Reg)
  /-- SNE: R85, OP6 0x00. -/
  | sne (d : Reg) (a : Reg) (b : Reg)
  /-- SLT: R85, OP6 0x00. -/
  | slt (d : Reg) (a : Reg) (b : Reg)
  /-- SLTU: R85, OP6 0x00. -/
  | sltu (d : Reg) (a : Reg) (b : Reg)
  /-- SLE: R85, OP6 0x00. -/
  | sle (d : Reg) (a : Reg) (b : Reg)
  /-- SLEU: R85, OP6 0x00. -/
  | sleu (d : Reg) (a : Reg) (b : Reg)
  /-- CMOV: R85, OP6 0x00. -/
  | cmov (d : Reg) (a : Reg) (b : Reg)
  /-- BFX: R86, OP6 0x00. -/
  | bfx (d : Reg) (a : Reg) (b : Reg)
  /-- BFI: R86, OP6 0x00. -/
  | bfi (d : Reg) (a : Reg) (b : Reg)
  /-- ADDI: R87. -/
  | addi (d : Reg) (a : Reg) (imm : BitVec 14)
  /-- ANDI: R87. -/
  | andi (d : Reg) (a : Reg) (imm : BitVec 14)
  /-- ORI: R87. -/
  | ori (d : Reg) (a : Reg) (imm : BitVec 14)
  /-- XORI: R87. -/
  | xori (d : Reg) (a : Reg) (imm : BitVec 14)
  /-- SHLI: R87; imm14[13:6] is zero in the word. -/
  | shli (d : Reg) (a : Reg) (n : BitVec 6)
  /-- SHRI: R87; imm14[13:6] is zero in the word. -/
  | shri (d : Reg) (a : Reg) (n : BitVec 6)
  /-- SARI: R87; imm14[13:6] is zero in the word. -/
  | sari (d : Reg) (a : Reg) (n : BitVec 6)
  /-- SLTI: R87. -/
  | slti (d : Reg) (a : Reg) (imm : BitVec 14)
  /-- SLTUI: R87. -/
  | sltui (d : Reg) (a : Reg) (imm : BitVec 14)
  /-- SEQI: R87. -/
  | seqi (d : Reg) (a : Reg) (imm : BitVec 14)
  /-- SLD: R198. -/
  | sld (d : Reg) (a : Reg) (sz : BitVec 2) (imm : BitVec 12)
  /-- SLDZ: R198. -/
  | sldz (d : Reg) (a : Reg) (sz : BitVec 2) (imm : BitVec 12)
  /-- SST: R198. -/
  | sst (d : Reg) (a : Reg) (sz : BitVec 2) (imm : BitVec 12)
  /-- SLDP: R198. -/
  | sldp (d : Reg) (a : Reg) (sz : BitVec 2) (imm : BitVec 12)
  /-- SSTP: R198. -/
  | sstp (d : Reg) (a : Reg) (sz : BitVec 2) (imm : BitVec 12)
  /-- SATOM_ADD: R226; wide is fn[0]. -/
  | satomAdd (d : Reg) (a : Reg) (b : Reg) (scope : Scope) (wide : Bool)
  /-- SATOM_AND: R226; wide is fn[0]. -/
  | satomAnd (d : Reg) (a : Reg) (b : Reg) (scope : Scope) (wide : Bool)
  /-- SATOM_OR: R226; wide is fn[0]. -/
  | satomOr (d : Reg) (a : Reg) (b : Reg) (scope : Scope) (wide : Bool)
  /-- SATOM_XOR: R226; wide is fn[0]. -/
  | satomXor (d : Reg) (a : Reg) (b : Reg) (scope : Scope) (wide : Bool)
  /-- SATOM_MIN: R226; wide is fn[0]. -/
  | satomMin (d : Reg) (a : Reg) (b : Reg) (scope : Scope) (wide : Bool)
  /-- SATOM_MAX: R226; wide is fn[0]. -/
  | satomMax (d : Reg) (a : Reg) (b : Reg) (scope : Scope) (wide : Bool)
  /-- SATOM_MINU: R226; wide is fn[0]. -/
  | satomMinu (d : Reg) (a : Reg) (b : Reg) (scope : Scope) (wide : Bool)
  /-- SATOM_MAXU: R226; wide is fn[0]. -/
  | satomMaxu (d : Reg) (a : Reg) (b : Reg) (scope : Scope) (wide : Bool)
  /-- SATOM_XCHG: R226; wide is fn[0]. -/
  | satomXchg (d : Reg) (a : Reg) (b : Reg) (scope : Scope) (wide : Bool)
  /-- SATOM_CAS: R226; wide is fn[0]. -/
  | satomCas (d : Reg) (a : Reg) (b : Reg) (scope : Scope) (wide : Bool)
  /-- BR: R89. -/
  | br (cc : Cond) (a : Reg) (b : Reg) (off : BitVec 11)
  /-- J: R89. -/
  | j (off : BitVec 26)
  /-- JAL: R89. -/
  | jal (off : BitVec 26)
  /-- JR: R89. -/
  | jr (d : Reg) (a : Reg) (imm : BitVec 14)
  /-- LGO: R92. -/
  | lgo (a : Reg) (imm : BitVec 14)
  /-- LWAIT: R96; n above 3 is reserved. -/
  | lwait (n : BitVec 2)
  /-- FENCE: R220, R55. -/
  | fence (order : FOrder) (scope : Scope) (ack : Bool) (opr : Bool)
  /-- SYS_NOP: R98. -/
  | sysNop
  /-- SYS_EXIT: R99. -/
  | sysExit
  /-- SYS_YIELD: R100. -/
  | sysYield
  /-- SYS_SLEEP: R101. -/
  | sysSleep (a : Reg)
  /-- SYS_TRAP: R98. -/
  | sysTrap (a : Reg)
  /-- SYS_BRK: R98. -/
  | sysBrk
  /-- SYS_CLOCK: R102. -/
  | sysClock (d : Reg)
  /-- SYS_PTPREAD: R103; a is a second destination. -/
  | sysPtpread (d : Reg) (a : Reg)
  /-- SGET: R83. -/
  | sget (d : Reg) (idx : BitVec 14)
  /-- SPUT: R83. -/
  | sput (a : Reg) (idx : BitVec 14)
  /-- AWINIT: R253. -/
  | awinit (a : Reg) (b : Reg)
  /-- AWEXPECT: R253. -/
  | awexpect (d : Reg) (a : Reg) (b : Reg)
  /-- AWARRIVE: R253. -/
  | awarrive (d : Reg) (a : Reg) (b : Reg)
  /-- AWWAIT: R253. -/
  | awwait (d : Reg) (a : Reg) (b : Reg)
  /-- AWTEST: R253. -/
  | awtest (d : Reg) (a : Reg) (b : Reg)
  /-- PHNEW: R301. -/
  | phnew (d : Reg) (a : Reg) (b : Reg)
  /-- PHFREE: R301. -/
  | phfree (d : Reg) (a : Reg)
  /-- PHJOIN: R301. -/
  | phjoin (d : Reg) (a : Reg) (b : Reg)
  /-- PHLEAVE: R301. -/
  | phleave (d : Reg) (a : Reg)
  /-- PHSIG: R301. -/
  | phsig (d : Reg) (a : Reg) (b : Reg)
  /-- PHSIGB: R301. -/
  | phsigb (d : Reg) (a : Reg) (b : Reg)
  /-- PHWAIT: R301. -/
  | phwait (d : Reg) (a : Reg) (b : Reg)
  /-- PHTEST: R301. -/
  | phtest (d : Reg) (a : Reg) (b : Reg)
  /-- PHANY: R301. -/
  | phany (d : Reg) (a : Reg) (b : Reg)
  /-- PHVAL: R301. -/
  | phval (d : Reg) (a : Reg) (b : Reg)
  /-- PHREAD: R301. -/
  | phread (d : Reg) (a : Reg)
  /-- CPY: R241; a is the descriptor base. -/
  | cpy (d : Reg) (a : Reg) (b : Reg) (phs : Bool) (sto : Bool)
  /-- CPY2: R241; a is the descriptor base. -/
  | cpy2 (d : Reg) (a : Reg) (b : Reg) (phs : Bool) (sto : Bool)
  /-- CPYW: R241; a is the descriptor base. -/
  | cpyw (d : Reg) (a : Reg) (b : Reg) (phs : Bool) (sto : Bool)
  /-- CPYX: R241; a is the descriptor base. -/
  | cpyx (d : Reg) (a : Reg) (b : Reg) (phs : Bool) (sto : Bool)
  /-- CPYFILL: R241; a is the descriptor base. -/
  | cpyfill (d : Reg) (a : Reg) (b : Reg) (phs : Bool) (sto : Bool)
  /-- CPYR: R241, R244. -/
  | cpyr (d : Reg) (a : Reg) (b : Reg) (phs : Bool) (ord : Bool) (sto : Bool)
  /-- CPYST: R248, R249. -/
  | cpyst (d : Reg) (b : Reg)
  /-- CPYCAN: R248, R249. -/
  | cpycan (d : Reg) (b : Reg)
  /-- NPUT: R358; a is the descriptor base. -/
  | nput (d : Reg) (a : Reg) (b : Reg)
  /-- NGET: R358; a is the descriptor base. -/
  | nget (d : Reg) (a : Reg) (b : Reg)
  /-- NATOM: R358; a is the descriptor base. -/
  | natom (d : Reg) (a : Reg) (b : Reg)
  /-- NSEND: R358; a is the descriptor base. -/
  | nsend (d : Reg) (a : Reg) (b : Reg)
  /-- NKEY: R361. -/
  | nkey (d : Reg) (a : Reg)
  /-- NCHAIN: R363. -/
  | nchain (d : Reg) (a : Reg) (b : Reg)
  /-- NPOLL: R360. -/
  | npoll (d : Reg) (a : Reg)
  /-- NRXPOP: R367. -/
  | nrxpop (d : Reg) (a : Reg) (b : Reg)
  /-- ENQ: R397. -/
  | enq (d : Reg) (a : Reg) (b : Reg)
  /-- ENQST: R398. -/
  | enqst (d : Reg) (a : Reg)
  /-- QWAIT: R399. -/
  | qwait (d : Reg) (a : Reg) (b : Reg)
  /-- MIGHINT: R400. -/
  | mighint (d : Reg) (a : Reg)
  /-- TRET: R426. -/
  | tret
  /-- FRAGRD: R437. -/
  | fragrd (d : Reg) (a : Reg) (b : Reg)
  /-- PINV: R438. -/
  | pinv (a : Reg) (b : Reg)
  /-- CWB: R438. -/
  | cwb (a : Reg) (b : Reg)
  /-- CINV: R438. -/
  | cinv (a : Reg) (b : Reg)
  /-- DIRTYGET: R439. -/
  | dirtyget (d : Reg) (a : Reg) (b : Reg)
  /-- TEAMHALT: R440. -/
  | teamhalt (d : Reg) (a : Reg)
  /-- LI: R88. -/
  | li (d : Reg) (imm : Half)
  /-- LIH: R88. -/
  | lih (d : Reg) (imm : Half)
  /-- ADDX: R88. -/
  | addx (d : Reg) (a : Reg) (imm : Half)
  /-- MZERO: R269. -/
  | mzero (t : BitVec 5)
  /-- MACC: R270; kinds above 1 are reserved. -/
  | macc (g : Bool) (a : Reg) (b : Reg) (save : Bool) (t : BitVec 5)
  /-- MDRAIN: R274. -/
  | mdrain (g : Bool) (z : Bool) (rnd : BitVec 2) (lc : BitVec 2) (a : Reg) (b : Reg) (fmt : BitVec 3) (t : BitVec 5)
  /-- MCHK: R272. -/
  | mchk (d : Reg) (t : BitVec 5)
  /-- MLOC: R272. -/
  | mloc (d : Reg) (t : BitVec 5)
  /-- MFIX: R273. -/
  | mfix (a : Reg) (t : BitVec 5)
  /-- MWAIT: R276. -/
  | mwait
  /-- MMA: R265. -/
  | mma (t : BitVec 5) (a : Reg) (b : Reg) (slot : BitVec 5) (bi4 : Bool) (lc : BitVec 2) (k : BitVec 8) (ap : BitVec 12) (sp : BitVec 8)
  /-- MMAS: R266. -/
  | mmas (t : BitVec 5) (a : Reg) (b : Reg) (slot : BitVec 5) (bi4 : Bool) (lc : BitVec 2) (k : BitVec 8) (ap : BitVec 12) (sp : BitVec 8)
  /-- VADD: OP8 0x01 (R63). -/
  | vadd (f : LaneWord)
  /-- VSUB: OP8 0x02 (R63). -/
  | vsub (f : LaneWord)
  /-- VMUL: OP8 0x03 (R63). -/
  | vmul (f : LaneWord)
  /-- VMULH: OP8 0x04 (R63). -/
  | vmulh (f : LaneWord)
  /-- VMAD: OP8 0x05 (R63). -/
  | vmad (f : LaneWord)
  /-- VADDC: OP8 0x06 (R63). -/
  | vaddc (f : LaneWord)
  /-- VAND: OP8 0x07 (R63). -/
  | vand (f : LaneWord)
  /-- VOR: OP8 0x08 (R63). -/
  | vor (f : LaneWord)
  /-- VXOR: OP8 0x09 (R63). -/
  | vxor (f : LaneWord)
  /-- VSHL: OP8 0x0A (R63). -/
  | vshl (f : LaneWord)
  /-- VSHR: OP8 0x0B (R63). -/
  | vshr (f : LaneWord)
  /-- VSAR: OP8 0x0C (R63). -/
  | vsar (f : LaneWord)
  /-- VMIN: OP8 0x0D (R63). -/
  | vmin (f : LaneWord)
  /-- VMAX: OP8 0x0E (R63). -/
  | vmax (f : LaneWord)
  /-- VABS: OP8 0x0F (R63). -/
  | vabs (f : LaneWord)
  /-- VCLZ: OP8 0x10 (R63). -/
  | vclz (f : LaneWord)
  /-- VPOPC: OP8 0x11 (R63). -/
  | vpopc (f : LaneWord)
  /-- VBFX: OP8 0x12 (R63). -/
  | vbfx (f : LaneWord)
  /-- VBFI: OP8 0x13 (R63). -/
  | vbfi (f : LaneWord)
  /-- VICMP: OP8 0x14 (R63). -/
  | vicmp (f : LaneWord)
  /-- VSEL: OP8 0x15 (R63). -/
  | vsel (f : LaneWord)
  /-- VMOV: OP8 0x16 (R63). -/
  | vmov (f : LaneWord)
  /-- VDIV: OP8 0x17 (R63). -/
  | vdiv (f : LaneWord)
  /-- VREM: OP8 0x18 (R63). -/
  | vrem (f : LaneWord)
  /-- VSAD: OP8 0x19 (R63). -/
  | vsad (f : LaneWord)
  /-- VDOT4: OP8 0x1A (R63). -/
  | vdot4 (f : LaneWord)
  /-- VSREG: OP8 0x1B (R63). -/
  | vsreg (f : LaneWord)
  /-- VFADD: OP8 0x20 (R63). -/
  | vfadd (f : LaneWord)
  /-- VFSUB: OP8 0x21 (R63). -/
  | vfsub (f : LaneWord)
  /-- VFMUL: OP8 0x22 (R63). -/
  | vfmul (f : LaneWord)
  /-- VFMA: OP8 0x23 (R63). -/
  | vfma (f : LaneWord)
  /-- VFMIN: OP8 0x24 (R63). -/
  | vfmin (f : LaneWord)
  /-- VFMAX: OP8 0x25 (R63). -/
  | vfmax (f : LaneWord)
  /-- VFCMP: OP8 0x26 (R63). -/
  | vfcmp (f : LaneWord)
  /-- VFCLASS: OP8 0x27 (R63). -/
  | vfclass (f : LaneWord)
  /-- VFRCP: OP8 0x28 (R63). -/
  | vfrcp (f : LaneWord)
  /-- VFRSQ: OP8 0x29 (R63). -/
  | vfrsq (f : LaneWord)
  /-- VFSQRT: OP8 0x2A (R63). -/
  | vfsqrt (f : LaneWord)
  /-- VFDIV: OP8 0x2B (R63). -/
  | vfdiv (f : LaneWord)
  /-- VFEXP2: OP8 0x2C (R63). -/
  | vfexp2 (f : LaneWord)
  /-- VFLOG2: OP8 0x2D (R63). -/
  | vflog2 (f : LaneWord)
  /-- VFSIN: OP8 0x2E (R63). -/
  | vfsin (f : LaneWord)
  /-- VFCOS: OP8 0x2F (R63). -/
  | vfcos (f : LaneWord)
  /-- VFRND: OP8 0x30 (R63). -/
  | vfrnd (f : LaneWord)
  /-- VFLDEXP: OP8 0x31 (R63). -/
  | vfldexp (f : LaneWord)
  /-- VFGETEXP: OP8 0x32 (R63). -/
  | vfgetexp (f : LaneWord)
  /-- VCVT: OP8 0x38 (R63). -/
  | vcvt (f : LaneWord)
  /-- VQNT: OP8 0x39 (R63). -/
  | vqnt (f : LaneWord)
  /-- VDQNT: OP8 0x3A (R63). -/
  | vdqnt (f : LaneWord)
  /-- VSHFL: OP8 0x40 (R63). -/
  | vshfl (f : LaneWord)
  /-- VBCAST: OP8 0x41 (R63). -/
  | vbcast (f : LaneWord)
  /-- VVOTE: OP8 0x42 (R63). -/
  | vvote (f : LaneWord)
  /-- VREDUCE: OP8 0x43 (R63). -/
  | vreduce (f : LaneWord)
  /-- VSCAN: OP8 0x44 (R63). -/
  | vscan (f : LaneWord)
  /-- VMATCH: OP8 0x45 (R63). -/
  | vmatch (f : LaneWord)
  /-- MLOG: OP8 0x48 (R63). -/
  | mlog (f : LaneWord)
  /-- MPOPC: OP8 0x49 (R63). -/
  | mpopc (f : LaneWord)
  /-- MFIRST: OP8 0x4A (R63). -/
  | mfirst (f : LaneWord)
  /-- MSET: OP8 0x4B (R63). -/
  | mset (f : LaneWord)
  /-- MGET: OP8 0x4C (R63). -/
  | mget (f : LaneWord)
  /-- MPUT: OP8 0x4D (R63). -/
  | mput (f : LaneWord)
  /-- LBR: OP8 0x50 (R63). -/
  | lbr (f : LaneWord)
  /-- LJMP: OP8 0x51 (R63). -/
  | ljmp (f : LaneWord)
  /-- LJMPI: OP8 0x52 (R63). -/
  | ljmpi (f : LaneWord)
  /-- LPAD: OP8 0x53 (R63). -/
  | lpad (f : LaneWord)
  /-- LCALL: OP8 0x54 (R63). -/
  | lcall (f : LaneWord)
  /-- LCALLI: OP8 0x55 (R63). -/
  | lcalli (f : LaneWord)
  /-- LRET: OP8 0x56 (R63). -/
  | lret (f : LaneWord)
  /-- LJOIN: OP8 0x57 (R63). -/
  | ljoin (f : LaneWord)
  /-- LEND: OP8 0x58 (R63). -/
  | lend (f : LaneWord)
  /-- LEXIT: OP8 0x59 (R63). -/
  | lexit (f : LaneWord)
  /-- LBAR: OP8 0x5A (R63). -/
  | lbar (f : LaneWord)
  /-- LFRAG: OP8 0x5B (R63). -/
  | lfrag (f : LaneWord)
  /-- LNOP: OP8 0x5C (R63). -/
  | lnop (f : LaneWord)
  /-- VLD: OP8 0x60 (R63). -/
  | vld (f : LaneWord)
  /-- VST: OP8 0x61 (R63). -/
  | vst (f : LaneWord)
  /-- VLDP: OP8 0x62 (R63). -/
  | vldp (f : LaneWord)
  /-- VSTP: OP8 0x63 (R63). -/
  | vstp (f : LaneWord)
  /-- VLDF: OP8 0x64 (R63). -/
  | vldf (f : LaneWord)
  /-- VATOM: OP8 0x65 (R63). -/
  | vatom (f : LaneWord)
  /-- VRED: OP8 0x66 (R63). -/
  | vred (f : LaneWord)
  /-- VCAS: OP8 0x67 (R63). -/
  | vcas (f : LaneWord)
  /-- VPREF: OP8 0x68 (R63). -/
  | vpref (f : LaneWord)
  /-- VLDR: OP8 0x69 (R63). -/
  | vldr (f : LaneWord)
  /-- VSTR: OP8 0x6A (R63). -/
  | vstr (f : LaneWord)
  /-- VATOMR: OP8 0x6B (R63). -/
  | vatomr (f : LaneWord)
  /-- VFENCE: OP8 0x6C (R63). -/
  | vfence (f : LaneWord)
  /-- LTRAP: OP8 0x70 (R63). -/
  | ltrap (f : LaneWord)
  /-- LKILL: OP8 0x71 (R63). -/
  | lkill (f : LaneWord)
  /-- LRESUME: OP8 0x72 (R63). -/
  | lresume (f : LaneWord)
  /-- LORIGIN: OP8 0x73 (R63). -/
  | lorigin (f : LaneWord)
  /-- VOGET: OP8 0x74 (R63). -/
  | voget (f : LaneWord)
  /-- VOPUT: OP8 0x75 (R63). -/
  | voput (f : LaneWord)
  /-- HOST_MEMORY_WRITE: R445. -/
  | hostMemoryWrite (fn : BitVec 2) (off : Nat) (data : List Byte)
  /-- HOST_MEMORY_READ: R445. -/
  | hostMemoryRead (fn : BitVec 2) (off : Nat) (n : Nat)
  /-- HOST_REGISTER_WRITE: R446, R447. -/
  | hostRegisterWrite (fn : BitVec 2) (off : Nat) (data : List Byte)
  /-- FRAMEFMT: R448. -/
  | framefmt (fn : BitVec 2)
  /-- PARTSET: R448, R450. -/
  | partset (fn : BitVec 2)
  /-- PARTSTOP: R441. -/
  | partstop (fn : BitVec 2)
  /-- PARTGO: R448. -/
  | partgo (fn : BitVec 2)
  /-- PSTATE: R452. -/
  | pstate (fn : BitVec 2)
  /-- CSTEP: R453. -/
  | cstep (fn : BitVec 2)
  /-- POWERCAP: R454. -/
  | powercap (fn : BitVec 2)
  /-- FWLOAD: R457. -/
  | fwload (fn : BitVec 2)
  /-- DIERESET: R460. -/
  | diereset (fn : BitVec 2)
  /-- COMMAND_COMPLETION: R447. -/
  | commandCompletion (fn : BitVec 2)
  /-- GET_VERSION: R458. -/
  | getVersion (msg : List Byte)
  /-- GET_CAPABILITIES: R458. -/
  | getCapabilities (msg : List Byte)
  /-- NEGOTIATE_ALGORITHMS: R458. -/
  | negotiateAlgorithms (msg : List Byte)
  /-- GET_DIGESTS: R458. -/
  | getDigests (msg : List Byte)
  /-- GET_CERTIFICATE: R458. -/
  | getCertificate (msg : List Byte)
  /-- CHALLENGE: R458. -/
  | challenge (msg : List Byte)
  /-- GET_MEASUREMENTS: R459. -/
  | getMeasurements (index : Nat)
  /-- COLD_RESET: R460. -/
  | coldReset
  /-- POWER_LOSS: R457. -/
  | powerLoss
  /-- POWER_MEASUREMENT: R454; the mean over 100 us. -/
  | powerMeasurement (watts : Nat)
  /-- CLOCK_STEP_CHANGE_DONE: R453. -/
  | clockStepChangeDone (die : Nat)
  /-- THERMAL_TRIP: R455. -/
  | thermalTrip (die : Nat)
  /-- THERMAL_TRIP_END: R455. -/
  | thermalTripEnd (die : Nat)
  /-- THERMAL_SHUTDOWN: R455. -/
  | thermalShutdown (die : Nat)
  /-- WATCHDOG_KICK: R402; core 0 is the Bronze core, 1 + k Tin leaf k. -/
  | watchdogKick (die : Nat) (core : Nat)
  /-- WATCHDOG_EXPIRY: R402. -/
  | watchdogExpiry (die : Nat) (core : Nat)
  /-- FIRMWARE_TABLES_REBUILT: R403. -/
  | firmwareTablesRebuilt (die : Nat) (core : Nat)
  /-- COMMAND_LINK_MESSAGE: R403. -/
  | commandLinkMessage (die : Nat) (leaf : Nat) (toLeaf : Bool) (msg : Nat)
  /-- MAPPING_TICK: R380. -/
  | mappingTick (die : Nat)
  /-- BUNDLE_START: R382. -/
  | bundleStart (die : Nat) (qsb : Nat)
  /-- TEAM_PLACE: R383. -/
  | teamPlace (t : Nat) (core : Nat)
  /-- PREEMPT_WAIT_EXPIRY: R385. -/
  | preemptWaitExpiry (t : Nat)
  /-- TEAM_RESTORE: R432. -/
  | teamRestore (t : Nat) (core : Nat)
  /-- TEAM_COMPLETE: R389. -/
  | teamComplete (t : Nat)
  /-- BUNDLE_RETIRE: R391. -/
  | bundleRetire (b : Nat)
  /-- SHARE_WINDOW_END: R395. -/
  | shareWindowEnd (die : Nat)
  /-- SLOT_ADVERTISE: R393. -/
  | slotAdvertise (die : Nat)
  /-- MIGRATION_SEND: R393. -/
  | migrationSend (t : Nat) (die : Nat)
  /-- SLEEP_EXPIRY: R101. -/
  | sleepExpiry (t : Nat) (w : Nat)
  /-- QWAIT_TIMEOUT: R399. -/
  | qwaitTimeout (t : Nat) (w : Nat)
  /-- LANE_BLOCK_START: R93. -/
  | laneBlockStart (t : Nat) (w : Nat)
  /-- SLOT_TAKES_WORK: R139. -/
  | slotTakesWork (t : Nat) (w : Nat) (slotB : Bool)
  /-- JOIN_EXPIRY: R149. -/
  | joinExpiry (t : Nat) (w : Nat) (id : Nat)
  /-- DEMAND_PAGE_RESOLVED: R159. -/
  | demandPageResolved (die : Nat) (asid : Nat) (page : Nat)
  /-- HANDLER_GATHER_TIMEOUT: R418. -/
  | handlerGatherTimeout (die : Nat) (cluster : Nat)
  /-- TRANSLATION_REPLY: R182. -/
  | translationReply (die : Nat) (core : Nat) (asid : Nat) (va : Nat) (store : Bool)
  /-- REGCACHE_FILL_DONE: R107. -/
  | regcacheFillDone (t : Nat) (w : Nat) (v : Nat)
  /-- LOAD_DATA_RETURN: R201. -/
  | loadDataReturn (t : Nat) (w : Nat) (slotB : Bool)
  /-- WAY_DISABLE: R207; struct numbers an L1, a die-cache slice or a memory-side buffer. -/
  | wayDisable (struct : Nat) (set : Nat) (way : Nat)
  /-- GROUP_RETIRE: R195. -/
  | groupRetire (die : Nat) (frame : Nat) (group : Nat)
  /-- STREAM_SLOT_ACCEPT: R232. -/
  | streamSlotAccept (die : Nat)
  /-- COPY_CHUNK: R238. -/
  | copyChunk (engine : Nat) (serial : Nat)
  /-- COPY_COMPLETE: R233. -/
  | copyComplete (engine : Nat) (serial : Nat)
  /-- MATRIX_OP_START: R263. -/
  | matrixOpStart (t : Nat)
  /-- MMA_ATTEMPT_DONE: R268. -/
  | mmaAttemptDone (t : Nat)
  /-- MATRIX_OP_COMPLETE: R257. -/
  | matrixOpComplete (t : Nat)
  /-- GAUZE_SIGNAL: R296. -/
  | gauzeSignal (node : Nat) (m : GauzeMsg)
  /-- GAUZE_COMPLETE: R299. -/
  | gauzeComplete (node : Nat) (m : GauzeMsg)
  /-- GAUZE_JOIN: R298. -/
  | gauzeJoin (node : Nat) (m : GauzeMsg)
  /-- GAUZE_LEAVE: R298. -/
  | gauzeLeave (node : Nat) (m : GauzeMsg)
  /-- GAUZE_CREATE: R295. -/
  | gauzeCreate (node : Nat) (m : GauzeMsg)
  /-- GAUZE_CREATE_REPLY: R303. -/
  | gauzeCreateReply (node : Nat) (m : GauzeMsg)
  /-- GAUZE_FREE: R304. -/
  | gauzeFree (node : Nat) (m : GauzeMsg)
  /-- GAUZE_LATE: R311. -/
  | gauzeLate (node : Nat) (m : GauzeMsg)
  /-- GAUZE_BROKEN: R317. -/
  | gauzeBroken (node : Nat) (m : GauzeMsg)
  /-- GAUZE_CREDIT: R290. -/
  | gauzeCredit (node : Nat) (m : GauzeMsg)
  /-- GAUZE_JOIN_REPLY: R305. -/
  | gauzeJoinReply (node : Nat) (m : GauzeMsg)
  /-- GAUZE_RESERVED_FLIT: R291. -/
  | gauzeReservedFlit (node : Nat) (m : GauzeMsg)
  /-- GAUZE_PORT_LOST: R290. -/
  | gauzePortLost (port : Nat)
  /-- VALUE_PHASE_TIMEOUT: R313. -/
  | valuePhaseTimeout (node : Nat) (entry : Nat)
  /-- TWILL_READ: R325. -/
  | twillRead (p : TwillPacket)
  /-- TWILL_WRITE: R325. -/
  | twillWrite (p : TwillPacket)
  /-- TWILL_ATOMIC: R325. -/
  | twillAtomic (p : TwillPacket)
  /-- TWILL_DATA: R329. -/
  | twillData (p : TwillPacket)
  /-- TWILL_ACK: R329. -/
  | twillAck (p : TwillPacket)
  /-- TWILL_NAK: R340. -/
  | twillNak (p : TwillPacket)
  /-- TWILL_RESERVED_PACKET: R337. -/
  | twillReservedPacket (p : TwillPacket)
  /-- UCIE_LINK_FAILURE: R341. -/
  | ucieLinkFailure (a : Nat) (b : Nat)
  /-- TWILL_PORT_FAILURE: R341; ports 0-15 of IO0, 16-31 of IO1. -/
  | twillPortFailure (port : Nat)
  /-- ROUTE_LOST_TIMEOUT: R343. -/
  | routeLostTimeout (req : Nat)
  /-- KEY_INSTALLATION: R339. -/
  | keyInstallation (part : Nat) (peer : Nat) (vcIntegrity : BitVec 8)
  /-- CALICO_WRITE: R353. -/
  | calicoWrite (grp : Nat) (p : CalicoPacket)
  /-- CALICO_READ: R352. -/
  | calicoRead (grp : Nat) (p : CalicoPacket)
  /-- CALICO_DATA: R351. -/
  | calicoData (grp : Nat) (p : CalicoPacket)
  /-- CALICO_ATOMIC: R356. -/
  | calicoAtomic (grp : Nat) (p : CalicoPacket)
  /-- CALICO_ATOMRESP: R356. -/
  | calicoAtomresp (grp : Nat) (p : CalicoPacket)
  /-- CALICO_ACK: R351. -/
  | calicoAck (grp : Nat) (p : CalicoPacket)
  /-- CALICO_NAK: R355. -/
  | calicoNak (grp : Nat) (p : CalicoPacket)
  /-- CALICO_BAD_PACKET: R350. -/
  | calicoBadPacket (grp : Nat) (p : CalicoPacket)
  /-- CALICO_RETRANSMIT_TIMEOUT: R351. -/
  | calicoRetransmitTimeout (grp : Nat) (opid : Nat) (n : Nat)
  /-- MESSAGE_RECORD_RELEASE: R354. -/
  | messageRecordRelease (grp : Nat) (src : Nat) (opid : Nat)
  /-- MESSAGE_RECORD_AGE_OUT: R354. -/
  | messageRecordAgeOut (grp : Nat) (src : Nat) (opid : Nat)
  /-- FRAME_RECEIVE: R364. -/
  | frameReceive (f : EthFrame)
  /-- FRAME_SENT: R358. -/
  | frameSent (grp : Nat) (opid : Nat)
  /-- ILLEGAL_INSTRUCTION: R11, R46, R62. -/
  | illegalInstruction
  /-- FETCH_FAULT: R41. -/
  | fetchFault (cause : BitVec 8) (detail : BitVec 8) (addr : Nat) (straddle : Bool)
  /-- LINK_LEVEL_RETRY: R290, R341. -/
  | linkLevelRetry (link : Nat)
  /-- LINK_REPAIR: R342. -/
  | linkRepair (a : Nat) (b : Nat)
  /-- GAUZE_NODE_FAILURE: R317. -/
  | gauzeNodeFailure (node : Nat)
  deriving DecidableEq, Repr, Inhabited

end Sys2Proof
end

