-- ==== Sys2Proof/Machine/State.lean ====
section
/-! DEFINITION. The state of the package as plain data: everything the manual gives the machine (INVENTORY.md, State). Entities
that come and go (teams, fragments, copies, requests) stand in maps under numbers that the model gives them. -/

namespace Sys2Proof.Machine

/-- Why the model stops. -/
inductive Fault where
  /-- Raised by an instruction run while no stream issues one that could hold it (`State.cur` names none, or one that is gone).
  Never raised from `step`, which always names the issuing stream. Safe: the machine has no such instant. -/
  | noIssuer
  deriving DecidableEq, Repr

/-- Why the model has no meaning. -/
inductive Refusal where
  /-- Raised by an arm of `exec` that has no meaning yet. Safe. -/
  | notModelled (mnemonic : String)
  deriving DecidableEq, Repr

/-- An instruction stream (R31): a warp's scalar stream, a path of a warp by slot, or a team's sequencer. -/
inductive Stream where
  | none
  | warp (t w : Nat)
  | path (t w : Nat) (b : Bool)
  | seq (t : Nat)
  deriving DecidableEq, Repr, Inhabited

/-- A page asked of the base dies by an issuing stream, and the answer when it has come (R182). -/
structure Ask where
  /-- Die times 4096 plus ASID. -/
  space : Nat := 0
  /-- Virtual page number of 4 KiB, or the import index plus 2^40 for a window address. -/
  page : Nat := 0
  store : Bool := false
  /-- The stack whose base die is asked: that of the line of the access (R187). -/
  stack : Nat := 0
  /-- none while outstanding; 0 when the checks passed; else cause times 256 plus detail. -/
  answer : Option Nat := none
  deriving DecidableEq, Repr, Inhabited

/-- What a waiting scalar stream or sequencer waits for (R101, R182, R199, R303, R399). -/
inductive Wait where
  | none
  /-- SYS.SLEEP: until this instant (R101). -/
  | sleep (till : Nat)
  /-- Suspended until the system resolves the page (R199, R409). -/
  | absent (space page : Nat)
  /-- A round trip to a phaser's tree is under way (R303 to R306). -/
  | tree
  /-- The reply of a round trip, to be written when the instruction issues again. -/
  | reply (v : Word)
  /-- A remote request of a scalar load, store or atomic is outstanding (R329). -/
  | remote (req : Nat)
  /-- PHWAIT waits for a phase of this phaser, or PHSIG for the condition of R300. -/
  | phase (h : Word)
  deriving DecidableEq, Repr, Inhabited

/-- One outstanding load of a path (R80, R137, R201): register words to be written for one lane. -/
structure Load where
  lane : Nat := 0
  /-- The request that brings the data from another die, and where the lane's data lies in what it brings; none when the data is at hand. -/
  req : Option Nat := none
  off : Nat := 0
  /-- Register and word to write. -/
  regs : List (Nat × Half) := []
  /-- The line that its data came from by way of the L1: address space, virtual and physical address, and NA (R200, R206). -/
  line : Option (Nat × Nat × Nat × Bool) := none
  deriving DecidableEq, Repr, Inhabited

/-- A scale byte that VLDF fetches from a peer window for a lane (R197, R202): its address, the request while it is out, and what came; none for
poison (R340). -/
structure Scale where
  lane : Nat := 0
  addr : Nat := 0
  req : Option Nat := none
  val : Option Nat := none
  deriving DecidableEq, Repr, Inhabited

/-- A path of a warp's lane stream (R134). -/
structure Path where
  pc : Nat := 0
  m0 : Half := 0
  mem : Half := 0
  /-- JOIN: the number of a JOIN entry, or none. -/
  join : Option Nat := none
  /-- The scoreboard. -/
  board : List Load := []
  /-- Pages asked and answered for the instruction at PC (R182). -/
  asks : List Ask := []
  /-- Scale bytes fetched for the VLDF at PC. -/
  scales : List Scale := []
  /-- The barrier whose LBAR.SYNC the path has arrived at (R164). -/
  bar : Option Nat := none
  /-- The cycle of the last issue (R386). -/
  issued : Nat := 0
  deriving DecidableEq, Repr, Inhabited

/-- An entry of the divergence stack, topmost first (R138). -/
inductive Entry where
  /-- JOIN: its number, join index J, expected and arrived lanes, outer join, deadline in core cycles
  (while the team is away, the cycles that remain, R150), flag mask k of its LJOIN. -/
  | join (id j : Nat) (e ar : Half) (outer : Option Nat) (deadline : Option Nat) (k : Nat)
  | part (p : Path)
  | ret (idx : Nat) (ls : Half)
  deriving DecidableEq, Repr, Inhabited

/-- An entry of the lane queue (R91). -/
structure Block where
  start : Nat := 0
  /-- Snapshot of s32 to s63, by register number. -/
  snap : Map Word := []
  written : Half := 0
  stream : Nat := 0
  /-- Remote writes of the scalar stream that precede the LGO and were not acknowledged at it (R97, R213). -/
  before : List Nat := []
  deriving DecidableEq, Repr, Inhabited

/-- A membership record (R297). -/
structure Member where
  handle : Word := 0
  sig : Nat := 0
  wait : Bool := false
  lp : Half := 0
  given : Nat := 0
  doneph : Half := 0
  /-- The result of DONEPH: none before the first COMPLETE (R467); else value, finder identity, missing, LATE, NAN. -/
  result : Option (Half × Half × Nat × Bool × Bool) := none
  latecnt : Nat := 0
  lastph : Option Half := none
  /-- The phaser has gone BROKEN, as far as this record has been told (R317). -/
  broken : Bool := false
  deriving DecidableEq, Repr, Inhabited

/-- A fault report (R412), its fields in place of its bits. -/
structure Report where
  teamref : Nat := 0
  teamid : Nat := 0
  asid : Nat := 0
  socket : Nat := 0
  core : Nat := 0
  warp : Nat := 0
  seq : Bool := false
  lane : Bool := false
  straddle : Bool := false
  detail : Nat := 0
  cause : Nat := 0
  code : Nat := 0
  disc : Nat := 0
  nxt : Nat := 0
  pc : Nat := 0
  addr : Nat := 0
  time : Nat := 0
  /-- The model's own: the die whose fault log takes it, the team, and the warp, none for the sequencer. -/
  host : Nat := 0
  team : Nat := 0
  windex : Option Nat := none
  deriving DecidableEq, Repr, Inhabited

/-- A handler lane's origin (R418, R422): the fragment, the lane, and the origin tag of R416; the origin's team and warp, the fragment's address, and the
words INFO and TEAM, which it keeps when the fragment is gone. -/
structure Origin where
  frag : Nat := 0
  lane : Nat := 0
  tag : Nat := 0
  team : Nat := 0
  warp : Nat := 0
  addr : Nat := 0
  info : Nat := 0
  ref : Nat := 0
  /-- Decided or dead (R424). -/
  settled : Bool := false
  deriving DecidableEq, Repr, Inhabited

/-- How a warp or a sequencer stands (R99, R280, R410). -/
inductive Life where
  | running | ended | halted
  deriving DecidableEq, Repr, Inhabited

/-- A warp (R31). -/
structure Warp where
  /-- Warp slot of the core (R20). -/
  slot : Nat := 0
  life : Life := .running
  spc : Word := 0
  /-- s0 to s63; an unlisted register holds zero. -/
  s : Map Word := []
  /-- v0 to v255: lane l's word of register v at key 32 v + l; an unlisted word holds zero. -/
  v : Map Half := []
  /-- m1 to m7. -/
  m : Map Half := []
  /-- Scalar registers and lane words that hold an uncorrectable error (R108, R414). -/
  badS : List Nat := []
  badV : List Nat := []
  /-- Register lines not present in the register cache (R107). -/
  cold : List Nat := []
  /-- STREAM (R81). -/
  stream : Nat := 0
  dead : Half := 0
  /-- Death causes by lane (R413). -/
  deaths : Map Nat := []
  detached : Half := 0
  queue : List Block := []
  /-- The block at the head of the queue has started (R93). -/
  started : Bool := false
  a : Option Path := none
  b : Option Path := none
  /-- Lanes arrived at the block's LEND (R152). -/
  arrived : Half := 0
  stack : List Entry := []
  /-- Number of the next JOIN entry. -/
  joins : Nat := 0
  members : List Member := []
  wait : Wait := .none
  asks : List Ask := []
  /-- Remote data that has come for the scalar instruction at SPC, by address; none for poison (R340). -/
  got : List (Nat × Option Nat) := []
  /-- The QWAIT at SPC has waited: since when, counter address and target (R399). -/
  qwait : Option (Nat × Word × Word) := none
  /-- Remote writes of scalar instructions and of lane blocks that have completed, not acknowledged (R221). -/
  writes : List Nat := []
  /-- Those of the lane block that runs. -/
  blockWrites : List Nat := []
  report : Option Report := none
  /-- Origin lanes of a handler warp, by handler lane (R418). -/
  origins : List Origin := []
  /-- Signals of copies that wait for the condition of R300, oldest first: handle, SERIAL and cluster. -/
  owed : List (Word × Nat × Nat) := []
  deriving DecidableEq, Repr, Inhabited

/-- An instruction that a leader has issued and its trailer has not executed (R427 to R430): its stream, the bytes of a scalar instruction, its lanes
with effect, the model's next free value before it, and the leader before and after it. -/
structure Issued where
  stream : Stream := .none
  instr : Instr := .mwait
  ilen : Nat := 4
  eff : Half := 0
  ctr : Nat := 0
  before : Warp := {}
  after : Warp := {}
  /-- Its result goes through the load queue (R428): the lane registers, and whether it has come. -/
  loads : Bool := false
  dest : List Nat := []
  come : Bool := true
  /-- Its effect waits in the comparison buffer (R429); the trailer has produced its own, which differs in these lanes, or as a scalar effect. -/
  waits : Bool := false
  made : Bool := false
  lanes : Half := 0
  scalar : Bool := false
  deriving DecidableEq, Repr, Inhabited

/-- A trailing warp (R427): its own registers, as Warp names them, with its own snapshots of the scalar registers for the blocks of the lane queue; what
its leader has issued and it has not executed, oldest first; lanes, and whether the scalar stream, that have gone another way than the leader's. -/
structure Trailer where
  spc : Word := 0
  s : Map Word := []
  v : Map Half := []
  m : Map Half := []
  queue : List Block := []
  issued : List Issued := []
  lanes : Half := 0
  scalar : Bool := false
  deriving DecidableEq, Repr, Inhabited

/-- The matrix sequencer (R78, R255). -/
structure Seq where
  life : Life := .running
  /-- MENTRY was 0: the sequencer issues nothing (R375). -/
  idle : Bool := false
  pc : Word := 0
  t : Map Word := []
  badT : List Nat := []
  stream : Nat := 0
  wait : Wait := .none
  asks : List Ask := []
  report : Option Report := none
  /-- The restart of R411 (t29, t30, t31) waits for the descriptor's page. -/
  restart : Option (Word × Word × Word) := none
  deriving DecidableEq, Repr, Inhabited

/-- An accumulator tile (R256); unlisted elements hold +0. -/
structure Tile where
  c : Map Half := []
  rsum : Map Half := []
  csum : Map Half := []
  nseg : Nat := 0
  f8 : Bool := false
  f4 : Bool := false
  /-- Some word holds an uncorrectable error (R263). -/
  bad : Bool := false
  deriving DecidableEq, Repr, Inhabited

/-- One element of operand B as CPYW recorded it (R245): significand, its block's E8, whether a block begins at it. -/
structure Cell where
  sig : Int := 0
  e8 : Nat := 0
  start : Bool := false
  deriving DecidableEq, Repr, Inhabited

/-- State of a weight slot (R255). -/
inductive SlotState where
  | invalid | filling | valid
  deriving DecidableEq, Repr, Inhabited

/-- A weight slot (R245, R246, R255): element (k, j) at key 64 k + j. -/
structure WSlot where
  state : SlotState := .invalid
  bi4 : Bool := false
  lcode : Nat := 0
  k : Nat := 0
  ncode : Nat := 0
  cells : Map Cell := []
  /-- Descriptor D0 to D3 of the last completed CPYW. -/
  desc : Option (List Word) := none
  /-- Some word holds an uncorrectable error (R263). -/
  bad : Bool := false
  deriving DecidableEq, Repr, Inhabited

/-- Bytes that a matrix operation reads, or writes when `wr` (R275): of the scratchpad, of a die's physical memory, or of a peer under
an import entry (`peer`, then `start` is the offset). A global range keeps its virtual address and its page's A and W bits. -/
structure Range where
  sp : Bool := false
  die : Nat := 0
  start : Nat := 0
  len : Nat := 0
  wr : Bool := false
  va : Nat := 0
  alias_ : Bool := false
  wpage : Bool := false
  peer : Option Nat := none
  /-- Where a peer's bytes lie when the peer is a die of this package: die and physical address. -/
  far : Option (Nat × Nat) := none
  deriving DecidableEq, Repr, Inhabited

/-- A matrix operation issued and not complete, with the values captured at issue (R257, R259). -/
structure MOp where
  /-- The model's own number. -/
  id : Nat := 0
  op : Instr := .mwait
  addr : Word := 0
  ta : Word := 0
  tb : Word := 0
  /-- The captured MINJ when the operation holds the injection. -/
  inj : Option Word := none
  /-- A SPUT to MINJ has been made since, so the register is no longer updated (R259). -/
  detachedInj : Bool := false
  /-- The operation has started in the engine (R263). -/
  started : Bool := false
  /-- Its window (R275), and the bytes of it that another party has touched (R277): scratchpad or not, and address. -/
  win : List Range := []
  /-- Bytes as range of the window and offset in it. -/
  raced : List (Nat × Nat) := []
  /-- A CPYW has begun to fill its slot since it was issued (R278). -/
  stale : Bool := false
  /-- The product has been added and the completion is due (R268). -/
  finished : Bool := false
  /-- Source data that has come from another die, by range; none for poison. -/
  got : List (Nat × Option Nat) := []
  deriving DecidableEq, Repr, Inhabited

/-- An entry of a suspended team's log (R316, R433). -/
inductive LogEntry where
  | arrive (off : Nat) (n : Nat)
  | phaser (w type : Nat) (m : GauzeMsg)
  deriving DecidableEq, Repr, Inhabited

/-- How a team stands (R383, R385, R389, R431). -/
inductive Phase where
  /-- Not placed yet. -/
  | waiting
  | resident
  /-- Suspended: yielded or pre-empted, its state in its context image. -/
  | away
  deriving DecidableEq, Repr, Inhabited

/-- A team (R31, R375). -/
structure Team where
  /-- TEAMREF (R416), given at the first placement. -/
  ref : Option Nat := none
  phase : Phase := .waiting
  /-- Origin die, and the die that hosts it (R32, R394). -/
  origin : Nat := 0
  die : Nat := 0
  core : Nat := 0
  /-- Sequencer slot of the core (R255). -/
  sslot : Nat := 0
  asid : Nat := 0
  prio : Nat := 0
  stag : Nat := 0
  part : Nat := 0
  teamid : Nat := 0
  xyz : Nat := 0
  grid : Nat := 0
  subidx : Nat := 0
  nwarps : Nat := 1
  sentry : Nat := 0
  mentry : Nat := 0
  lanebase : Nat := 0
  args : Word := 0
  pmgr : Bool := false
  shadow : Bool := false
  migrate : Bool := false
  child : Bool := false
  /-- The partition, the bundle (a number of State.bundles), and the address of its queue's state block. -/
  partition : Nat := 0
  bundle : Nat := 0
  qsb : Nat := 0
  /-- A handler warp's team (R419). -/
  handler : Bool := false
  warps : Map Warp := []
  /-- The trailing warps of a SHADOW team, by leader (R427). -/
  trailers : Map Trailer := []
  seq : Seq := {}
  /-- Scratchpad bytes; an unlisted byte holds zero (R461). -/
  sp : List Host.Cell := []
  /-- Scratchpad words (4 bytes) that hold an uncorrectable error. -/
  spBad : List Nat := []
  /-- Older contents of scratchpad bytes that parties other than the sequencer have changed since its last FENCE with OPR: an operand read of the
  matrix engine may still find them (R222, R463). -/
  spOld : Map (List Byte) := []
  tiles : Map Tile := []
  slots : Map WSlot := []
  /-- Lane barriers: lanes arrived (R163). -/
  barriers : Map Nat := []
  mretry : Nat := 2
  mtol8 : Nat := 4
  mtol4 : Nat := 4
  minj : Word := 0
  /-- MSTAT's stored fields (R258). -/
  retry : Nat := 0
  fcause : Nat := 0
  ftile : Nat := 0
  badrows : Nat := 0
  badcols : Nat := 0
  frozen : Bool := false
  mq : List MOp := []
  replay : List MOp := []
  log : List LogEntry := []
  /-- Scale bytes that have come from a peer window for the refill of its weight slots, by address; none for poison (R197, R284). -/
  scales : List (Nat × Option Nat) := []
  /-- Fragments of the team saved in its context image, in saved order (R431). -/
  saved : List Nat := []
  /-- The team must leave its core as soon as its copies allow (R252, R431). -/
  leaving : Bool := false
  /-- Handed to TEAMHALT (R440). -/
  halt : Bool := false
  faulted : Bool := false
  /-- Remote writes NAKed (R340). -/
  lost : Nat := 0
  hint : Option Nat := none
  /-- QWAIT holds the team: counter address and target (R399). -/
  held : Option (Word × Word) := none
  /-- The instant from which the team has been dispatchable, that of the last pre-emption for it since (R385), and that of its last
  placement. -/
  ready : Option Nat := none
  preempted : Option Nat := none
  placed : Nat := 0
  /-- The cluster on which it last ran, as 8 times the die plus the cluster (R418). -/
  ran : Nat := 0
  /-- Its context image (R434): the die whose memory holds it, and its address. -/
  image : Option (Nat × Nat) := none
  /-- Words of the origin die's memory that stores have changed since the sub-launch started, by address over 4, with the contents that
  they have had (R42). -/
  old : Map (List Half) := []
  deriving DecidableEq, Repr, Inhabited

/-- State of a fragment (R156). -/
inductive FragState where
  | parked | handling | ready
  deriving DecidableEq, Repr, Inhabited

/-- A fragment (R156): in a core's table when `entry` names one, else in its team's context image. -/
structure Frag where
  team : Nat := 0
  warp : Nat := 0
  state : FragState := .parked
  entry : Option Nat := none
  pc : Nat := 0
  resume : Nat := 0
  mask : Half := 0
  idle : Half := 0
  cause : Nat := 0
  detail : Nat := 0
  straddle : Bool := false
  addr : Nat := 0
  join : Option Nat := none
  /-- The instant it parked (R418). -/
  at_ : Nat := 0
  /-- Lanes decided by the handler: the point, or none for a kill (R424). -/
  decided : List (Nat × Option Nat) := []
  deriving DecidableEq, Repr, Inhabited

/-- State of a copy (R248). -/
inductive CopyState where
  | queued | active | done | cancelled | failed
  deriving DecidableEq, Repr, Inhabited

/-- A copy (R238 to R249); `team` is none for an entry of a copy sub-launch (R376). -/
structure Copy where
  state : CopyState := .queued
  kind : Nat := 0
  d0 : Word := 0
  d1 : Word := 0
  d2 : Word := 0
  d3 : Word := 0
  ord : Bool := false
  /-- The phaser to signal, with the warp whose record signals (R300). -/
  phs : Option (Word × Nat) := none
  team : Option Nat := none
  /-- The issuing warp, or 32 for the sequencer. -/
  issuer : Nat := 0
  die : Nat := 0
  asid : Nat := 0
  /-- Bundle, sub-launch and entry of a copy sub-launch. -/
  entry : Option (Nat × Nat × Nat) := none
  /-- The stream binding: tag and place in acceptance order (R230, R231). -/
  tag : Nat := 0
  engine : Nat := 0
  serial : Nat := 0
  /-- Chunks not performed, as ranges (first, past the last). -/
  left : List (Nat × Nat) := []
  bytes : Nat := 0
  cause : Nat := 0
  /-- Requests not answered. -/
  reqs : List Nat := []
  /-- ORDSEQ of a CPYR with ORD: the last SEQ sent before its first packet (R338). -/
  ordSeq : Option Nat := none
  /-- The page the copy waits for (R239). -/
  absent : Option Nat := none
  /-- Earlier operations that must complete before it accesses anything (R231, R276). -/
  after : List Nat := []
  /-- Finishing order at its engine (R248). -/
  finished : Nat := 0
  /-- The fault address of a copy that FAILED (R248). -/
  fault : Nat := 0
  /-- Scale bytes that have come from a peer window, by address; none for poison (R197, R244). -/
  scales : List (Nat × Option Nat) := []
  /-- What a CPYW has staged: elements, and the format of its pages (R245). -/
  cells : Map Cell := []
  fmt : Option Nat := none
  lcode : Nat := 0
  /-- Removed from its engine by a partition stop (R441). -/
  exported : Bool := false
  /-- Bytes written of poisoned lines: physical address and length (R177). -/
  wrote : List (Nat × Nat) := []
  deriving DecidableEq, Repr, Inhabited

/-- What the part itself reaches through a peer window for (R388, R391, R399, R417, R477): bit `i` of sub-launch `k`'s bitmap, a bundle's completion
record, the counter of a held team, the handler descriptor for a gathering of a cluster, in an address space, or for a team's sequencer, a record
that a queue starts, and the completion record of a network queue. -/
inductive Job where
  | bit (b k i : Nat)
  | record (b : Nat)
  | held (t : Nat)
  | gather (d c space : Nat)
  | restart (t : Nat)
  | start (d q : Nat)
  | counts
  deriving DecidableEq, Repr, Inhabited

/-- The owner of a remote request. -/
inductive Owner where
  | scalar (t w : Nat)
  | lane (t w l : Nat)
  | copy (c n : Nat)
  /-- The scale byte at an address for a lane's VLDF or a copy (R197). -/
  | scale (t w l x : Nat)
  | copyScale (c x : Nat)
  /-- MDRAIN operation o. -/
  | mdrain (t o : Nat)
  /-- Range n of MACC operation o (R270). -/
  | macc (t o n : Nat)
  /-- The part's own access at an address. -/
  | part (j : Job) (x : Nat)
  deriving DecidableEq, Repr, Inhabited

/-- A remote request not answered (R329, R333). -/
structure Req where
  src : Nat := 0
  owner : Owner := .scalar 0 0
  /-- Further lanes of the instruction that the request serves: one transaction for a line (R176). -/
  lanes : Half := 0
  packet : TwillPacket := {}
  /-- Sent on the detour (R342), and the socket that its first link leads to. -/
  detour : Bool := false
  link : Nat := 0
  /-- The stream binding of VSTR and VATOMR (R230). -/
  tag : Nat := 0
  asid : Nat := 0
  /-- The address of a scalar access. -/
  addr : Nat := 0
  /-- Register words that its data fills: destination register and size code (R60, R201). -/
  vd : Nat := 0
  size : Nat := 0
  /-- The instant from which it has had no route (R343). -/
  noRoute : Option Nat := none
  /-- It waits at the source for earlier operations of its stream, or under the limit of R338. -/
  held : Bool := false
  after : List Nat := []
  /-- Its packet has left its source die. -/
  sent : Bool := false
  /-- Its SEQ and ORDSEQ have been given; a packet turned back keeps them (R341). -/
  numbered : Bool := false
  /-- Place in the order of sending (R341). -/
  stamp : Nat := 0
  deriving DecidableEq, Repr, Inhabited

/-- A line of a cache (R175, R178): ASID and VA[51:7], the physical line from which it was filled, dirty bit, and where it stands: the
structure as in State.ways, its set and its way. In an L1 or an instruction cache `asid` is the address space with its die; a memory-side buffer's line goes by its physical line alone. -/
structure CLine where
  asid : Nat := 0
  va : Nat := 0
  pa : Nat := 0
  dirty : Bool := false
  struct : Nat := 0
  set : Nat := 0
  way : Nat := 0
  /-- A line of an L1 whose parity has failed (R206). -/
  bad : Bool := false
  deriving DecidableEq, Repr, Inhabited

/-- A mapping through which a physical line has been accessed (R179): address space, VA[51:7], and the page's A and W bits. -/
structure MapUse where
  space : Nat := 0
  va : Nat := 0
  a : Bool := false
  w : Bool := false
  deriving DecidableEq, Repr, Inhabited

/-- The attributes of a page (R181, R186): virtual base and size in bytes, and the leaf's fields. The address space is named by
die times 4096 plus ASID. -/
structure Page where
  space : Nat := 0
  base : Nat := 0
  size : Nat := 4096
  r : Bool := false
  w : Bool := false
  x : Bool := false
  c : Bool := false
  a : Bool := false
  d : Bool := false
  fmt : Nat := 0
  swi : Nat := 0
  pcls : Nat := 0
  deriving DecidableEq, Repr, Inhabited

/-- A translation held by the base dies (R187): the page, its frame, and the address of its leaf entry. -/
structure Trans where
  page : Page := {}
  frame : Nat := 0
  leaf : Nat := 0
  deriving DecidableEq, Repr, Inhabited

/-- A hardware command register block (R447). -/
structure Func where
  op : Nat := 0
  busy : Bool := false
  result : Nat := 0
  arg : Map Word := []
  /-- The command code and the arguments as they stood when GO was written, and the result of the command once it has executed. -/
  running : Nat := 0
  taken : List Word := []
  code : Option Nat := none
  /-- MSI-X table entries and pending bits, by vector (R446). -/
  msix : Map Nat := []
  pending : List Nat := []
  /-- Table bases and counts by window offset (R446). -/
  base : Map Nat := []
  deriving DecidableEq, Repr, Inhabited

/-- An entry of a die's key table (R348). -/
structure Key where
  v : Bool := false
  r : Bool := false
  w : Bool := false
  atom : Bool := false
  asid : Nat := 0
  base : Nat := 0
  len : Nat := 0
  nq : Nat := 0
  gen : Nat := 0
  deriving DecidableEq, Repr, Inhabited

/-- What the Bronze core knows of a queue (R379, R380, R395), by the address of its state block. -/
structure Queue where
  mapped : Bool := false
  /-- The instant it was mapped, or from which it has been unmapped with work. -/
  since : Option Nat := none
  /-- Remote bytes of the open window, and whether the queue is over share. -/
  bytes : Nat := 0
  overshare : Bool := false
  deriving DecidableEq, Repr, Inhabited

/-- A firmware core: the Bronze core or a Tin leaf (R402, R403). -/
structure FwCore where
  /-- Instant of the last kick, start or restart. -/
  kick : Nat := 0
  restarting : Bool := false
  /-- Messages on the link between the Bronze core and this leaf that wait in the leaf's buffer, and in the Bronze core's buffer, oldest
  first; the sender's permits are 64 less the length. -/
  inbox : List Nat := []
  outbox : List Nat := []
  deriving DecidableEq, Repr, Inhabited

/-- A compute die (R17). -/
structure Die where
  /-- Powered and out of reset. -/
  up : Bool := true
  /-- Core cycles since its last reset, in units of 1/35 cycle (R102, R453). -/
  clk : Nat := 0
  /-- Device memory (R187): bytes by physical address; an unlisted byte reads zero. -/
  mem : List Host.Cell := []
  /-- Poisoned lines, by physical line number (R177). -/
  poison : List Nat := []
  /-- Frame classes (R194): frames not listed are of class S. -/
  cls : Map Nat := []
  /-- Retired groups: frame number times 2048 plus stack times 512 plus group (R194, R195). -/
  retired : List Nat := []
  /-- Dirty map: 64 KiB regions (R189). -/
  dirty : List Nat := []
  /-- Groups in which a codec has newly detected an uncorrectable error, not retired yet (R195). -/
  detected : List Nat := []
  /-- Translations held by the base die of each stack, newest first (R187). -/
  tcache : Map (List Trans) := []
  /-- Lines of the die cache (R178), of the L1s by core (R175), of the instruction caches by 2 times the core (scalar) and 2 times the
  core plus 1 (lane), newest first (R19), and of the memory-side buffers by stack (R175). -/
  lines : List CLine := []
  l1 : Map (List CLine) := []
  icache : Map (List CLine) := []
  msb : Map (List CLine) := []
  /-- Mappings in use of each physical line accessed by programs (R179), and the 8-byte words that programs have written last through a
  mapping that is no alias (R180). -/
  uses : Map (List MapUse) := []
  plain : List Nat := []
  /-- Import entries held by the filters: key 65536 ASID + index (R323). -/
  imports : Map Nat := []
  /-- Page-attribute filters, by core (R181). -/
  filters : Map (List Page) := []
  /-- TRAPVEC and scale windows by ASID: key 64 asid + n, where n is 0 for TRAPVEC and 4 k + 1 to 4 k + 3 for SWINk (R81). -/
  space : Map Word := []
  func : Func := {}
  /-- Twill route table entries by index (R334). -/
  routes : Map Nat := []
  keys : Map Key := []
  queues : Map Queue := []
  /-- Write tracking FIFO and its overflow flag (R378). -/
  fifo : List Nat := []
  overflow : Bool := false
  /-- Bronze core 0 and Tin leaves 1 to 8. -/
  fw : Map FwCore := []
  /-- Stream slots: ASID times 65536 plus tag (R232). -/
  slots : List Nat := []
  /-- Streams that wait for a slot, in order; slots granted and not used yet, with the team they wait in; slots that enabled receive
  queues hold, with each queue's ASID times 1024 plus its index (R232). -/
  slotQ : List Nat := []
  granted : Map Nat := []
  rxSlots : Map (List Nat) := []
  /-- Free team slots that each other die last advertised (R393). -/
  free : Map Nat := []
  /-- Clock steps (R453 to R455). -/
  step : Nat := 0
  capStep : Nat := 0
  trip : Bool := false
  /-- The step in force, and the instant at which a change of step began (R453). -/
  eff : Nat := 0
  change : Option Nat := none
  /-- Sequence number of the next write to each target die, by package times 32 plus socket (R338). -/
  seq : Map Nat := []
  /-- Reports written to the fault log (R412). -/
  reports : Nat := 0
  /-- Next request tag. -/
  nextTag : Nat := 0
  /-- Mapping ticks, 10 us traffic windows and slot advertisements made so far (R380, R393, R395). -/
  ticks : Nat := 0
  windows : Nat := 0
  adverts : Nat := 0
  /-- Requests that have arrived and wait, oldest first: for the writes before them (R338), for an absent page (R325), or behind an earlier one
  to their line (R330). -/
  waiting : List TwillPacket := []
  /-- Sequence numbers performed, by source die: key package times 32 plus socket (R338). -/
  performed : Map (List Nat) := []
  deriving DecidableEq, Repr, Inhabited

/-- A copy engine (R238, R247). -/
structure Engine where
  serial : Nat := 0
  finished : Nat := 0
  deriving DecidableEq, Repr, Inhabited

/-- Contributions of one phase at the root (R296, R312): how many, the value or payload, the finder identity, NAN, and when the first
came. -/
structure Tally where
  count : Nat := 0
  value : Half := 0
  ident : Half := 0
  nan : Bool := false
  first : Nat := 0
  deriving DecidableEq, Repr, Inhabited

/-- A phaser entry of a Gauze node (R286, R296). -/
structure Phaser where
  handle : Word := 0
  cls : Nat := 0
  comb : Nat := 0
  timeout : Nat := 0
  /-- The dies of this package in the span; whether the tree leaves the package, and by which port. -/
  span : Nat := 0
  pod : Bool := false
  port : Nat := 0
  root : Bool := false
  /-- The handle's entry is this node's (R287). -/
  home : Bool := false
  /-- The team of the warp that created it, 0 for none of this package (R289, R305). -/
  team : Nat := 0
  /-- At the root: open phase, its tally, its expected count and the change from the next phase on (R298), what has come for the next
  phase, LATECNT, and the instant the open phase opened. -/
  phase : Half := 0
  open_ : Tally := {}
  expected : Nat := 0
  delta : Int := 0
  next : Tally := {}
  latecnt : Nat := 0
  opened : Nat := 0
  /-- Below the root: the last phase this node has seen a signal of, and a COMPLETE of (R311). -/
  seen : Option Half := none
  completed : Option Half := none
  /-- Below the root: what it has received since its last forward, by phase (R312). -/
  acc : List (Half × Tally) := []
  /-- A combining slot is held (R295). -/
  slot : Bool := false
  broken : Bool := false
  deriving DecidableEq, Repr, Inhabited

/-- A Gauze node (R286): 0 to 3 the die nodes, 4 the package node. -/
structure Node where
  up : Bool := true
  entries : Map Phaser := []
  /-- Serials by entry (R292). -/
  serials : Map Nat := []
  /-- PHSIGB signals held at the port until remote writes are acknowledged (R307): the signal and the requests. -/
  held : List (GauzeMsg × List Nat) := []
  deriving DecidableEq, Repr, Inhabited

/-- A warp's round trip to a tree (R303 to R306): who waits, the message's TYPE, the handle, the finder identity that the reply
names; for PHNEW the parameter word and the span: this package's dies, and the others with their dies; for PHJOIN the registration. -/
structure Trip where
  team : Nat := 0
  warp : Nat := 0
  type : Nat := 0
  handle : Word := 0
  ident : Half := 0
  param : Word := 0
  span : Nat := 0
  pkgs : List (Nat × Nat) := []
  /-- A creation in other packages (R295, R303): replies outstanding, and the first failure in the order of R295 so far, 0 for none. -/
  left : Nat := 0
  code : Nat := 0
  deriving DecidableEq, Repr, Inhabited

/-- State of a network operation at its sender (R351, R360). -/
structure NetOp where
  /-- 0 NPUT, 1 NGET, 2 NATOM, 3 NSEND, 5 a marker of NCHAIN. -/
  kind : Nat := 0
  die : Nat := 0
  asid : Nat := 0
  queue : Nat := 0
  /-- Place in the queue's issue order, from 1. -/
  seq : Nat := 0
  team : Option Nat := none
  tag : Nat := 0
  d0 : Word := 0
  d1 : Word := 0
  d2 : Word := 0
  d3 : Word := 0
  grp : Nat := 0
  opid : Nat := 0
  started : Bool := false
  done : Bool := false
  /-- 0 unless failed (R359). -/
  cause : Nat := 0
  /-- Packets acknowledged, copies sent of each packet, and the instant each is due again. -/
  acked : List Nat := []
  sent : Map Nat := []
  due : Map Nat := []
  /-- Retransmissions without an acknowledgement that count towards RETRY. -/
  tries : Map Nat := []
  /-- NCHAIN: watched queue and count. -/
  watch : Nat := 0
  target : Nat := 0
  after : List Nat := []
  /-- Its packets as first sent, and the peer's table entry then (R351). -/
  pkts : Map CalicoPacket := []
  peer : Nat := 0
  deriving DecidableEq, Repr, Inhabited

/-- A network queue's counters and ring (R358, R366, R367), by die, ASID and index. -/
structure NetQ where
  /-- DONE, FAILED and CAUSE of its completion record (R349). -/
  counted : Nat := 0
  failed : Nat := 0
  cause : Nat := 0
  /-- Receive ring: records delivered, popped and released so far. -/
  delivered : Nat := 0
  popped : Nat := 0
  released : Nat := 0
  deriving DecidableEq, Repr, Inhabited

/-- A target message record (R353, R354). -/
structure MsgRec where
  src : Nat := 0
  opid : Nat := 0
  die : Nat := 0
  key : Nat := 0
  got : List Nat := []
  count : Nat := 0
  mlen : Nat := 0
  complete : Bool := false
  /-- The message had completed before, and this record began with a late duplicate: it never completes (R354). -/
  late : Bool := false
  /-- Instant of completion or of the last packet. -/
  at_ : Nat := 0
  deriving DecidableEq, Repr, Inhabited

/-- An entry of the atomic result cache (R356). -/
structure AtomRes where
  src : Nat := 0
  opid : Nat := 0
  value : Nat := 0
  at_ : Nat := 0
  deriving DecidableEq, Repr, Inhabited

/-- A port group with its Calico engine (R26, R27, R353, R356, R365). -/
structure Group where
  opid : Nat := 0
  msgs : List MsgRec := []
  atoms : List AtomRes := []
  /-- Receive filters: entries as 256-bit numbers. -/
  filters : Map Nat := []
  /-- Frames and packets dropped and counted. -/
  drops : Nat := 0
  /-- Packets, with their OP, that wait for a page (R352), and frames that wait for a page or their stream, in the order of their stamps. -/
  held : List (Nat × CalicoPacket) := []
  /-- A frame stands with the index and the entry of the filter that took it (R365). -/
  frames : List (EthFrame × Nat × Nat) := []
  /-- Messages that have completed: SRC, OPID, and key times 65536 plus its generation (R354). -/
  past : List (Nat × Nat × Nat) := []
  deriving DecidableEq, Repr, Inhabited

/-- A sub-launch of a running bundle (R375, R376). -/
structure Sub where
  copy : Bool := false
  dep : Nat := 0
  bitmap : Nat := 0
  grid : Nat := 0
  maps : List Nat := []
  /-- Word 0 to 13 of the descriptor. -/
  words : List Nat := []
  /-- A copy sub-launch (R376): its entries (flags and D0 to D3), those not handed to an engine yet, and those that failed. -/
  dl : List (List Nat) := []
  left : List Nat := []
  failed : List Nat := []
  /-- Bits that the part has set in a bitmap that lies in another package (R388). -/
  set : List Nat := []
  deriving DecidableEq, Repr, Inhabited

/-- A bundle started and not retired (R382, R391). -/
structure Bundle where
  die : Nat := 0
  qsb : Nat := 0
  asid : Nat := 0
  index : Nat := 0
  /-- The queue's partition (R373). -/
  part : Nat := 0
  user : Nat := 0
  compl : Nat := 0
  overlap : Bool := false
  /-- The record is bad (R377). -/
  bad : Bool := false
  subs : List Sub := []
  /-- Counts of R391. -/
  notrun : Nat := 0
  halted : Nat := 0
  lostwr : Nat := 0
  lostlanes : Nat := 0
  copyfail : Bool := false
  /-- Retired, and waiting to be counted in record order (R392). -/
  status : Option Nat := none
  deriving DecidableEq, Repr, Inhabited

/-- A partition (R435, R450). -/
structure Partition where
  clusters : Nat := 0
  partid : Nat := 0
  first : Nat := 0
  cnt : Nat := 0
  /-- PARTSTOP has stopped it (R441). -/
  stopped : Bool := false
  deriving DecidableEq, Repr, Inhabited

/-- A firmware kind's banks (R457). -/
structure Bank where
  active : List Byte := []
  inactive : List Byte := []
  version : Nat := 0
  /-- A Monel image that has passed and waits for the next cold reset (R457). -/
  staged : Bool := false
  deriving DecidableEq, Repr, Inhabited

/-- An event-log record (R456). -/
structure Event where
  time : Nat := 0
  code : Nat := 0
  socket : Nat := 0
  data : Nat := 0
  deriving DecidableEq, Repr, Inhabited

/-- What leaves the package (R290, R337, R350, R444, R458). -/
inductive Sent where
  /-- A packet at a Twill port, and its flits (R337). -/
  | twill (port : Nat) (flits : List Nat) (p : TwillPacket)
  /-- A Gauze message at a port, and its flit (R291). -/
  | gauze (port type : Nat) (flit : Nat) (m : GauzeMsg)
  /-- A packet of an engine: port, OP, source UDP port, the peer's table entry (0: to the sender of what it answers), the sending port's MAC address,
  header and payload with the group's own address, and the UDP datagram that carries them (R350, R449). -/
  | calico (grp port op sport peer mac : Nat) (p : CalicoPacket) (dgram : List Byte)
  | frame (grp port : Nat) (bytes : List Byte)
  | msix (fn : Nat) (vec : Nat)
  | spdm (msg : List Byte)
  | read (data : List Byte)
  deriving DecidableEq, Repr, Inhabited

/-- An upset of the hardware: data that a check finds in error (R108, R175, R177, R195, R205, R206, R263). -/
inductive Upset where
  /-- A corrected error of a structure's set and way (R205). -/
  | corrected (struct set way : Nat)
  /-- The parity of a line of a core's L1 fails (R206): its address space, named with its die, and its virtual address. -/
  | parity (die core space va : Nat)
  /-- A line is found uncorrectable in a cache, a buffer or a transfer (R177). -/
  | line (die pa : Nat)
  /-- A codec newly detects an uncorrectable error as it reads a line from HBM4E (R195). -/
  | dram (die pa : Nat)
  | scalarReg (t w r : Nat)
  | laneReg (t w r lane : Nat)
  | seqReg (t r : Nat)
  | scratch (t word : Nat)
  | tile (t i : Nat)
  | slot (t i : Nat)
  /-- A word of a trailer's registers takes another value, without a check that finds it (R429). -/
  | trailer (t w r lane : Nat)
  | trailerScalar (t w r : Nat)
  deriving DecidableEq, Repr, Inhabited

/-- A turn: which agent moves next. -/
inductive Turn where
  | upset (u : Upset)
  | stream (x : Stream)
  | event (i : Instr)
  /-- Nothing happens for this many cycles. -/
  | elapse (n : Nat)
  /-- The host reads bytes of the register window of a function (R446). -/
  | registerRead (fn off n : Nat)
  /-- Accesses to the register window of virtual function `v` of a physical one (R444, R445). -/
  | vfRead (fn v off n : Nat)
  | vfWrite (fn v off : Nat) (data : List Byte)
  /-- A firmware core writes bytes at a physical address of its die (R405). -/
  | firmwareWrite (die core addr : Nat) (data : List Byte)
  /-- An SPDM request that has no instruction of its own (R458). -/
  | spdm (msg : List Byte)
  deriving DecidableEq, Repr, Inhabited

/-- The package. -/
structure State where
  /-- Cycles of the 1.75 GHz clock since the model's start. -/
  now : Nat := 0
  /-- The model's own: number of the next free value (R3) and free choice (R4). -/
  ctr : Nat := 0
  /-- The model's own: turns taken so far, which number the line transactions of a turn (R176). -/
  turns : Nat := 0
  /-- The issuing stream of the instruction that runs. -/
  cur : Stream := .none
  /-- Bytes of the scalar or matrix instruction that runs. -/
  ilen : Nat := 4
  /-- Inputs: turns that the outside fixes, next first. -/
  inputs : List Turn := []
  /-- The model's own: number of the next team, fragment, copy, request and bundle. -/
  uid : Nat := 0
  /-- IEEE 1588 time in nanoseconds at cycle 0 (R28). -/
  ptp : Nat := 0
  dies : Map Die := [(0, {}), (1, {}), (2, {}), (3, {})]
  teams : Map Team := []
  frags : Map Frag := []
  copies : Map Copy := []
  /-- Copy engines: key 8 die + cluster. -/
  engines : Map Engine := []
  reqs : Map Req := []
  /-- Answers to the part's own remote accesses, by what they are for and address; none for a failure. -/
  jobs : List (Job × Nat × Option Nat) := []
  /-- Packets between dies of the package, in order. -/
  wires : List TwillPacket := []
  /-- Packets of this package on their way from a die to an I/O die, with the Twill port that they leave by, in order (R333). -/
  outward : List (Nat × TwillPacket) := []
  nodes : Map Node := [(0, {}), (1, {}), (2, {}), (3, {}), (4, {})]
  /-- Packets queued for Twill ports (R335, R341), in order; under key 32 those for which no route is up. -/
  egress : Map (List TwillPacket) := []
  /-- Link-level retries in a row (R290, R341): Twill ports 0 to 31, Gauze ports from 32, the link of sockets a < b at 64 + 8 a + b. -/
  retries : Map Nat := []
  /-- Remote writes that parties had in flight at their SC fences (R219). -/
  scWrites : List Nat := []
  /-- Round-robin pointers: the warp slot that last issued a scalar instruction, by 4 times the core and the quarter (R76); the sequencer slot
  that last issued (R77) and that last started an operation (R21), by core; cores are numbered 64 times the die and the core. -/
  lastScalar : Map Nat := []
  lastSeq : Map Nat := []
  lastStart : Map Nat := []
  /-- The queue whose team was placed last, by die (R383). -/
  lastQueue : Map Nat := []
  /-- Gauze messages between nodes, in order: destination node, TYPE of R291, and message. -/
  flits : List (Nat × Nat × GauzeMsg) := []
  /-- Credits of the Gauze ports, as CREDIT flits have given them (R290): key 4 port + class. Messages queued for each port, and the instant since
  which a port has had messages and accepted none. -/
  credits : Map Nat := []
  gqueue : Map (List (Nat × GauzeMsg)) := []
  gstall : Map Nat := []
  trips : List Trip := []
  groups : Map Group := [(0, {}), (1, {})]
  netops : Map NetOp := []
  /-- Key: die times 2^22 plus ASID times 2^10 plus queue. -/
  netqs : Map NetQ := []
  bundles : Map Bundle := []
  /-- Identity block by offset (R449). -/
  ident : Map Byte := []
  partitions : Map Partition := []
  /-- Keys installed by the Monel controller: partition and peer package (R339). -/
  keys : List (Nat × Nat) := []
  /-- Twill virtual channels that are integrity-only (R339). -/
  integrity : List Nat := []
  /-- UCIe links declared failed (R341), repaired links still draining detours (R342). -/
  failed : List (Nat × Nat) := []
  draining : List (Nat × Nat) := []
  /-- Twill ports and Gauze ports declared failed. -/
  ports : List Nat := []
  gports : List Nat := []
  /-- Target packages that end with LOST until a route is reinstalled (R343): die times 2^17 plus package times 32 plus socket. -/
  lost : List Nat := []
  /-- The PCIe link is up: step 6 of the cold reset (R460). -/
  link : Bool := true
  /-- The registers of the virtual functions (R444, R445): key 8 times the physical function plus the number. -/
  vfs : Map Func := []
  /-- The function whose command has begun and not executed yet (R447). -/
  cmd : Option Nat := none
  /-- How far an SPDM connection has come (R458): 1 its version, 2 its capabilities, 3 its algorithms are agreed. -/
  spdm : Nat := 0
  pstate : Nat := 0
  /-- The package state that a command waits to enter while the partitions drain (R452). -/
  goal : Option Nat := none
  cap : Nat := 2600
  /-- Instant from which the mean power has been below 95 % of the cap (R454). -/
  below : Option Nat := none
  thermal : Bool := false
  /-- Dies whose sensors have not been below 95 degrees for 1 s (R455). -/
  hot : List Nat := []
  events : List Event := []
  logHead : Nat := 0
  banks : Map Bank := [(0, {}), (1, {}), (2, {})]
  /-- A firmware core update under way: die and next core (R404). -/
  updating : List (Nat × Nat) := []
  /-- Disabled ways: structure, set and way (R207). A structure is its kind times 65536 (0 L1, 1 die cache, 2 memory-side buffer) plus its
  number; a home slice's number is 16 times its die plus the slice. -/
  ways : List (Nat × Nat × Nat) := []
  /-- Home slices retired, by number (R207). -/
  slices : List Nat := []
  /-- Corrected errors counted by structure (R205), and those of the last 24 hours: structure, set, way and instant (R206, R207). Beside
  the structures of `ways` there are the scratchpad, weight buffer and register cache of a core (kinds 3 to 5) and a die's memory (kind
  6, where the set is the group, R195). -/
  corrected : Map Nat := []
  recent : List (Nat × Nat × Nat × Nat) := []
  /-- Fault reports, oldest first (R412), and how many of them have been written to memory. -/
  faults : List Report := []
  reported : Nat := 0
  /-- Teams that have completed, as they stood then: what a core still holds of them (R462, R465). -/
  ended : Map Team := []
  /-- Everything sent out of the package, oldest first. -/
  out : List Sent := []
  deriving DecidableEq, Repr, Inhabited

/-- The machine right after a cold reset (R460): BUSY = 0, every table base zero, no queue mapped, no team (DESIGN CHOICE, log entry 1). -/
def State.reset : State := {}

end Sys2Proof.Machine
end

