-- ==== Sys2Proof/Machine/Access.lean ====
section
/-! DEFINITION. Access to the state: entities, free values, device memory, scratchpads, page tables, filters and the die cache. -/

namespace Sys2Proof.Machine

/-- What an instruction answers. -/
abbrev Out := Host.Outcome State Fault Refusal

/-! ### Entities -/

def State.die (s : State) (d : Nat) : Die := s.dies.get d {}
def State.modDie (s : State) (d : Nat) (f : Die → Die) : State := { s with dies := s.dies.mod d f }
def State.team (s : State) (t : Nat) : Team := s.teams.get t {}
def State.modTeam (s : State) (t : Nat) (f : Team → Team) : State := { s with teams := s.teams.mod t f }
def Team.warp (T : Team) (w : Nat) : Warp := T.warps.get w {}
def State.warp (s : State) (t w : Nat) : Warp := (s.team t).warp w
def Team.modWarp (T : Team) (w : Nat) (f : Warp → Warp) : Team := { T with warps := T.warps.mod w f }
def State.modWarp (s : State) (t w : Nat) (f : Warp → Warp) : State := s.modTeam t fun T => T.modWarp w f
def State.modSeq (s : State) (t : Nat) (f : Seq → Seq) : State := s.modTeam t fun T => { T with seq := f T.seq }
def State.frag (s : State) (f : Nat) : Frag := s.frags.get f {}
def State.modFrag (s : State) (f : Nat) (g : Frag → Frag) : State := { s with frags := s.frags.mod f g }
def State.copy (s : State) (c : Nat) : Copy := s.copies.get c {}
def State.modCopy (s : State) (c : Nat) (f : Copy → Copy) : State := { s with copies := s.copies.mod c f }
def State.node (s : State) (n : Nat) : Node := s.nodes.get n {}
def State.modNode (s : State) (n : Nat) (f : Node → Node) : State := { s with nodes := s.nodes.mod n f }
def State.group (s : State) (g : Nat) : Group := s.groups.get g {}
def State.modGroup (s : State) (g : Nat) (f : Group → Group) : State := { s with groups := s.groups.mod g f }
def State.bundle (s : State) (b : Nat) : Bundle := s.bundles.get b {}
def State.modBundle (s : State) (b : Nat) (f : Bundle → Bundle) : State := { s with bundles := s.bundles.mod b f }

/-- The path in a slot of a warp (R134); slot B when `b`. -/
def Warp.path (W : Warp) (b : Bool) : Option Path := if b then W.b else W.a
def Warp.setPath (W : Warp) (b : Bool) (p : Option Path) : Warp := if b then { W with b := p } else { W with a := p }
def State.path (s : State) (t w : Nat) (b : Bool) : Path := ((s.warp t w).path b).getD {}
def State.modPath (s : State) (t w : Nat) (b : Bool) (f : Path → Path) : State :=
  s.modWarp t w fun W => W.setPath b ((W.path b).map f)

/-- A fresh number for a new entity. -/
def State.fresh (s : State) : Nat × State := (s.uid + 1, { s with uid := s.uid + 1 })

/-- The socket of a die is its number (R12); an address space is named by die times 4096 plus ASID. -/
def Team.space (T : Team) : Nat := T.origin * 4096 + T.asid % 4096

/-! ### Values and choices the manual leaves open (R3, R4) -/

/-- A free value: any value of `n` bits (R3) (DESIGN CHOICE, log entry 2). -/
def State.draw (s : State) (n : Nat) : Nat × State := (Config.freeBits s.ctr % 2 ^ n, { s with ctr := s.ctr + 1 })

/-- A free choice among `n` options; no choice is made where there is one option (R4) (DESIGN CHOICE, log entry 3). -/
def State.choose (s : State) (n : Nat) : Nat × State :=
  if n ≤ 1 then (0, s) else (Config.freeChoice s.ctr % n, { s with ctr := s.ctr + 1 })

/-- `n` free bytes (R3) (DESIGN CHOICE, log entry 2). -/
def State.drawBytes (s : State) : Nat → List Byte × State
  | 0 => ([], s)
  | n + 1 =>
    let (b, s) := s.draw 8
    let (r, s) := s.drawBytes n
    (BitVec.ofNat 8 b :: r, s)

/-! ### Time (R8, R28, R102) -/

/-- Nanoseconds of the IEEE 1588 clock (DESIGN CHOICE, log entry 5). -/
def State.ptpNs (s : State) : Nat := s.ptp + s.now * 4 / 7

/-- The time in the format of SYS.PTPREAD's s_d (R103) (DESIGN CHOICE, log entry 5). -/
def State.time (s : State) : Nat := s.ptpNs / 10 ^ 9 % 2 ^ 32 * 2 ^ 32 + s.ptpNs % 10 ^ 9

/-- Cycles of a die's core clock since its reset (R102). -/
def Die.cycles (D : Die) : Nat := D.clk / 35

/-- 50 MHz units of a clock step (R453): 35 for CS0 down to 7 for CS7. -/
def stepRate (k : Nat) : Nat := 35 - 4 * k

/-! ### Bytes -/

/-- `n` bytes at `a`; an unlisted byte reads zero (DESIGN CHOICE, log entry 6). -/
def rdBytes (m : List Host.Cell) (a : Nat) : Nat → List Byte
  | 0 => []
  | n + 1 => Map.get m a 0 :: rdBytes m (a + 1) n

/-- Write bytes at `a`, keeping the canonical form. -/
def wrBytes (m : List Host.Cell) (a : Nat) : List Byte → List Host.Cell
  | [] => m
  | b :: bs => wrBytes (Map.put m 0 a b) (a + 1) bs

/-- The canonical form of memory: addresses strictly rising, no entry equal to what an unlisted address reads as. -/
def Memory.wf (m : List Host.Cell) : Bool := Map.Sorted m && m.all fun c => c.2 != 0

/-! ### Device memory of a die (R177, R187 to R195) -/

/-- Data lines of a frame by class (R192). -/
def dataLines (c : Nat) : Nat := if c = 0 then 16128 else if c = 1 then 14560 else 13104

/-- The class of the frame at a physical address; a frame never formatted is of class S (R194). -/
def Die.frameClass (D : Die) (pa : Nat) : Nat := D.cls.get (pa / 2 ^ 21) 1

/-- The group number of a physical address: frame, stack and group of 8 stack-local lines (R194, R195). -/
def groupOf (pa : Nat) : Nat := pa / 2 ^ 21 * 2048 + pa / 128 % 4 * 512 + pa % 2 ^ 21 / 128 / 32

/-- The stack of a die that holds an address (R13, R187): line bits [8:7]. -/
def stackOf (a : Nat) : Nat := a / 128 % 4

/-- The socket of a die's stack (R12, R13). -/
def stackSocket (d k : Nat) : Nat := 6 + 4 * d + k

/-- A read of this address consumes uncorrectable data (R177, R195). A read of any byte of a poisoned line is consumption, so every lane that
reads the line dies, whichever of its bytes it reads (DEDUCED, log entry 36). -/
def Die.poisoned (D : Die) (pa : Nat) : Bool := D.poison.contains (pa / 128) || D.retired.contains (groupOf pa)

/-- The `n` bytes at `pa` as an unsigned number. -/
def Die.rd (D : Die) (pa n : Nat) : Nat := natLE (rdBytes D.mem pa n)

/-- Poison after a write of `n` bytes at `pa` (R177): a write of a whole line clears it. -/
def clearPoison (p : List Nat) (pa n : Nat) : List Nat :=
  p.filter fun l => !(decide (pa ≤ l * 128) && decide (l * 128 + 128 ≤ pa + n))

/-- Bytes at an address, cut where lines end (R175). -/
def linePieces (pa : Nat) (bs : List Byte) : Nat → List (Nat × List Byte)
  | 0 => []
  | n + 1 =>
    if bs.isEmpty then []
    else
      let k := 128 - pa % 128
      (pa, bs.take k) :: linePieces (pa + (bs.take k).length) (bs.drop k) n

/-- A write within one line at a base die; a retired group discards it (R195), and the dirty map records it (R189). -/
def Die.wrLine (D : Die) (pa : Nat) (bs : List Byte) : Die :=
  if D.retired.contains (groupOf pa) then D
  else { D with mem := wrBytes D.mem pa bs, poison := clearPoison D.poison pa bs.length, dirty := setIns (pa / 2 ^ 16) D.dirty,
                plain := D.plain.filter fun e => !(decide (e * 8 < pa + bs.length) && decide (pa < e * 8 + 8)) }

/-- A write at the base dies, line by line. -/
def Die.wr (D : Die) (pa : Nat) (bs : List Byte) : Die :=
  (linePieces pa bs bs.length).foldl (fun D x => D.wrLine x.1 x.2) D

/-- Old contents kept for fetches of a running sub-launch (R42): the words of `n` bytes at `pa`, as they stand before a write (DESIGN CHOICE,
log entry 34). -/
def keepOld (old : Map (List Half)) (mem : List Host.Cell) (pa n : Nat) : Map (List Half) :=
  ((List.range (pa % 4 + n)).filter fun i => i % 4 == 0).foldl (fun old i =>
    let k := pa / 4 + i / 4
    let w : Half := BitVec.ofNat 32 (natLE (rdBytes mem (4 * k) 4))
    let was := old.get k []
    if was.contains w then old else old.ins k (w :: was)) old

/-- A range of an operation's window holds a byte that an access of another party races with (R277): of the scratchpad, or of a die's
memory, that of a die behind the peer window included. -/
def Range.meets (r : Range) (sp : Bool) (d a : Nat) (write : Bool) : Option Nat :=
  let (die, start) := r.far.getD (r.die, r.start)
  if r.sp == sp && (r.peer.isNone || r.far.isSome) && (sp || die == d) && decide (start ≤ a) && decide (a < start + r.len) && (write || r.wr) then
    some (a - start)
  else none

/-- The bytes of the operation's window, by range and offset, that are the byte `a`. -/
def MOp.meets (o : MOp) (sp : Bool) (d a : Nat) (write : Bool) : List (Nat × Nat) :=
  ((List.range o.win.length).zip o.win).filterMap fun (i, r) => (r.meets sp d a write).map fun x => (i, x)

/-- Matrix operations issued and not complete, those in the replay list included (R275, R283). -/
def Team.mOps (T : Team) : List MOp := T.mq ++ T.replay

/-- Offsets, below `n`, of bytes that race with matrix operations of a team (DEDUCED, log entry 21). -/
def Team.races (T : Team) (sp : Bool) (d a n : Nat) (write : Bool) : List Nat :=
  if T.mOps.isEmpty then [] else (List.range n).filter fun i => T.mOps.any fun o => !(o.meets sp d (a + i) write).isEmpty

/-- The operations remember the bytes. -/
def Team.mark (T : Team) (sp : Bool) (d a n : Nat) (write : Bool) : Team :=
  let note (o : MOp) : MOp := { o with raced := o.raced ++ (List.range n).flatMap fun i => o.meets sp d (a + i) write }
  { T with mq := T.mq.map note, replay := T.replay.map note }

/-- Bytes at racing offsets are replaced by free ones (R277). -/
def State.blur (s : State) (bs : List Byte) (offs : List Nat) : List Byte × State :=
  offs.foldl (fun (bs, s) i => let (x, s) := s.draw 8; (bs.set i (BitVec.ofNat 8 x), s)) (bs, s)

/-- Races of an access of device memory with the operations of sequencers other than `me`: the offsets, and the state that remembers them
(R277) (DEDUCED, log entry 21). -/
def State.raceMem (s : State) (d pa n : Nat) (write : Bool) (me : Option Nat := none) : List Nat × State :=
  let others := s.teams.filter fun (t, T) => me != some t && !T.mOps.isEmpty
  let offs := others.foldl (fun l (_, T) => l ++ T.races false d pa n write) []
  if offs.isEmpty then ([], s) else (offs, { s with teams := s.teams.each fun t T => if me = some t then T else T.mark false d pa n write })

/-- A write to device memory: running sub-launches may go on fetching what stood there before (R42). -/
def State.wrRaw (s : State) (d pa : Nat) (bs : List Byte) : State :=
  let m := (s.die d).mem
  { s.modDie d (·.wr pa bs) with
      teams := s.teams.each fun _ T => if T.origin = d then { T with old := keepOld T.old m pa bs.length } else T }

/-- A write of a party, `me` where it is the sequencer of a team; bytes in the window of another's matrix operation take free values (R277). -/
def State.wrFree (s : State) (d pa : Nat) (bs : List Byte) (me : Option Nat := none) : State :=
  let (offs, s) := s.raceMem d pa bs.length true me
  let (bs, s) := s.blur bs offs
  s.wrRaw d pa bs

/-- The 64 bytes of a queue state block take free values (R372) (DEDUCED, log entry 31). -/
def State.smearQsb (s : State) (d q : Nat) : State :=
  let (x, s) := s.drawBytes 64
  s.wrRaw d q x

/-- A write that touches the QSB registration table, which only the host writes (R373): the entries concerned take free values (R5). -/
def State.smearTable (s : State) (d pa n : Nat) : State :=
  let b := (s.die d).func.base.get 0x11000 0
  if b = 0 ∨ pa + n ≤ b ∨ b + 65536 ≤ pa then s
  else
    let first := max b (pa / 8 * 8)
    let (x, s) := s.drawBytes (min (b + 65536) ((pa + n + 7) / 8 * 8) - first)
    s.wrRaw d first x

/-- A write of software or of a unit that acts for it: one that touches the state block of a queue leaves unpredictable values in all its
fields (R372), one that touches the registration table in its entries (R5, R373) (DEDUCED, log entry 31). -/
def State.wrMem (s : State) (d pa : Nat) (bs : List Byte) (me : Option Nat := none) : State :=
  let s := (s.wrFree d pa bs me).smearTable d pa bs.length
  ((s.die d).queues.filter fun (q, _) => decide (q < pa + bs.length) && decide (pa < q + 64)).foldl (fun s (q, _) => s.smearQsb d q) s

/-- A read of a party, `me` where it is the sequencer of a team: none when it is uncorrectable (R177). -/
def State.rdMem (s : State) (d pa n : Nat) (me : Option Nat := none) : Option Nat × State :=
  let (offs, s) := s.raceMem d pa n false me
  let D := s.die d
  if D.poisoned pa then (none, s)
  else
    let (bs, s) := s.blur (rdBytes D.mem pa n) offs
    (some (natLE bs), s)

/-! ### Page tables (R184 to R190) -/

/-- Codes of R408: cause times 256 plus detail. -/
def cABSENT : Nat := 0x101
def cNONCANON : Nat := 0x102
def cBADENT : Nat := 0x103
def cBADPFN : Nat := 0x104
def cCLASS : Nat := 0x105
def cNOHANDLE : Nat := 0x106
def cREAD : Nat := 0x201
def cWRITE : Nat := 0x202
def cSPAD : Nat := 0x203
def cATOM : Nat := 0x204
def cPEERRANGE : Nat := 0x205
def cNOKEY : Nat := 0x206
def cPARTITION : Nat := 0x207
def cNOFMT : Nat := 0x301
def cSIZE : Nat := 0x302
def cSCALE : Nat := 0x303
def cTAIL : Nat := 0x400
def cALIGN : Nat := 0x500
def cLPAD : Nat := 0x600
def cILLEGAL : Nat := 0x700
def cSWTRAP : Nat := 0x800
def cSHADOWLANE : Nat := 0x901
def cSHADOWSCALAR : Nat := 0x902
def cBREAK : Nat := 0xA00
def cFETCHABSENT : Nat := 0xB01
def cNOTEXEC : Nat := 0xB02
def cDSTACK : Nat := 0xC00

/-- The number of a line transaction (R176): the accesses that one turn makes to one line. -/
def State.txn (s : State) (space va : Nat) : Nat := (s.turns * 2 ^ 16 + space) * 2 ^ 45 + va / 128 % 2 ^ 45

/-- A table entry as the walk of transaction `n` reads it: free where a program has written it last through a mapping that is no alias (R180),
and where its line is uncorrectable, for which the spec states no outcome of a walk (DESIGN CHOICE, log entry 36). -/
def Die.entry (D : Die) (n pa : Nat) : Nat :=
  if D.plain.contains (pa / 8) || D.poisoned pa then (Config.freeEntry n pa).toNat else D.rd pa 8

/-- Leaf checks of R190. -/
def leafBad (e : Nat) (pcls : Bool) : Bool :=
  decide (bits e 16 14 ≥ 5) || (bitOf e 8 && !bitOf e 7) || (bitOf e 9 && bitOf e 11) || (pcls && bits e 49 48 == 3)

/-- The fields of an entry of a contiguous group that software must make equal: all but PFN and D (R188, R189). -/
def groupFields (e : Nat) : Nat := e / 2 ^ 48 * 2 ^ 20 + e % 2 ^ 20 - bits e 12 12 * 2 ^ 12

/-- Some entry of the group of 16 at `first`, which is one line, may be a contiguous leaf. -/
def Die.mayGroup (D : Die) (first : Nat) : Bool :=
  D.poisoned first || (D.plain.any fun e => e / 16 == first / 128) ||
  D.mem.any fun (a, b) => decide (first ≤ a) && decide (a < first + 128) && decide (a % 8 = 1) && b.getLsbD 5

/-- The entry that transaction `n` uses at index `idx` of a table of entries that map `size` bytes, and its index (R188): the one addressed; in a
group of 16 with a contiguous leaf whose entries are not equal as software must make them, some entry of the group, chosen by the part, whose
checks and fields are then those of the translation (DEDUCED, log entry 36). -/
def Die.leafEntry (D : Die) (n t idx size : Nat) : Nat × Nat :=
  let i := idx % 16
  let first := t + 8 * (idx - i)
  let e := D.entry n (t + 8 * idx)
  if !D.mayGroup first then (e, idx)
  else
    let es := (List.range 16).map fun j => (j, D.entry n (first + 8 * j))
    let agree := es.all fun (j, f) => groupFields f == groupFields e && bits f 47 20 * 4096 / size + i == bits e 47 20 * 4096 / size + j
    if agree || !es.any fun (_, f) => bitOf f 0 && bitOf f 1 && bitOf f 13 then (e, idx)
    else
      let k := Config.freeUse n 3 % 16
      (D.entry n (first + 8 * k), idx - i + k)

/-- The translation that a leaf entry gives (R186, R188): `size` is the entry's, `idx` its index, `ea` the address of the entry addressed, `cls` the
class in force, and `own` says that a leaf of this level carries its own class. A contiguous leaf maps 16 entries. -/
def leafTrans (space va ea e size idx cls : Nat) (own : Bool) : Except Nat Trans :=
  let ct := bitOf e 13
  let psize := if ct then 16 * size else size
  let cls := if own then bits e 49 48 else cls
  let base := bits e 47 20 * 4096 / size * size
  let frame := if ct then (base + 2 ^ 40 - idx % 16 * size) % 2 ^ 40 else base
  let page : Page := { space := space, base := va / psize * psize, size := psize, r := bitOf e 7, w := bitOf e 8, x := bitOf e 9, c := bitOf e 10, a := bitOf e 11, d := bitOf e 12, fmt := bits e 16 14, swi := bits e 19 17, pcls := cls }
  if !bitOf e 0 then .error cABSENT
  else if !bitOf e 1 || leafBad e own then .error cBADENT
  else if frame + va % psize ≥ Config.physBytes then .error cBADPFN
  else .ok { page := page, frame := frame, leaf := ea }

/-- A table entry's next table (R186), refused where it lies outside the die's memory (R190). -/
def nextTable (e : Nat) : Except Nat Nat :=
  if bits e 47 20 * 4096 ≥ Config.physBytes then .error cBADPFN else .ok (bits e 47 20 * 4096)

/-- The 2M and 4K levels (R184). -/
def walk2M (D : Die) (space va t n : Nat) : Except Nat Trans :=
  let ea := t + 8 * bits va 29 21
  let (e, i) := D.leafEntry n t (bits va 29 21) (2 ^ 21)
  if !bitOf e 0 then .error cABSENT
  else if bitOf e 1 then leafTrans space va ea e (2 ^ 21) i (bits e 49 48) true
  else if bits e 49 48 = 3 then .error cBADENT
  else match nextTable e with
    | .error c => .error c
    | .ok t =>
      let fa := t + 8 * bits va 20 12
      let (f, j) := D.leafEntry n t (bits va 20 12) 4096
      leafTrans space va fa f 4096 j (bits e 49 48) false

/-- The walk of R184 to R190 from the address-space table. -/
def walk (D : Die) (space va n : Nat) : Except Nat Trans :=
  let as := if space % 4096 ≥ D.func.base.get 0x10008 0 then 0 else D.entry n (D.func.base.get 0x10000 0 + 8 * (space % 4096))
  if !bitOf as 0 || bits as 63 40 ≠ 0 || bits as 6 1 ≠ 0 then .error cBADENT
  else if bits as 39 7 * 128 ≥ Config.physBytes then .error cBADPFN
  else
    let e := D.entry n (bits as 39 7 * 128 + 8 * bits va 51 48)
    if !bitOf e 0 then .error cABSENT
    else if bitOf e 1 then .error cBADENT
    else match nextTable e with
    | .error c => .error c
    | .ok t =>
      let e := D.entry n (t + 8 * bits va 47 39)
      if !bitOf e 0 then .error cABSENT
      else if bitOf e 1 then .error cBADENT
      else match nextTable e with
      | .error c => .error c
      | .ok t =>
        let ea := t + 8 * bits va 38 30
        let (e, i) := D.leafEntry n t (bits va 38 30) (2 ^ 30)
        if !bitOf e 0 then .error cABSENT
        else if bitOf e 1 then leafTrans space va ea e (2 ^ 30) i (bits e 49 48) true
        else match nextTable e with
          | .error c => .error c
          | .ok t => walk2M D space va t n

/-- The page holds the address. -/
def Page.has (p : Page) (space va : Nat) : Bool := p.space == space && decide (p.base ≤ va) && decide (va < p.base + p.size)

/-- The physical address under a translation. -/
def Trans.pa (t : Trans) (va : Nat) : Nat := t.frame + (va - t.page.base)

/-- Two translations agree but for D and the entry of a group. -/
def Trans.same (t u : Trans) : Bool :=
  let p := t.page
  let q := u.page
  t.frame == u.frame && p.space == q.space && p.base == q.base && p.size == q.size && p.r == q.r && p.w == q.w && p.x == q.x && p.c == q.c && p.a == q.a &&
    p.fmt == q.fmt && p.swi == q.swi && p.pcls == q.pcls

/-- A choice that a line transaction makes, the same at each of its accesses (R176, R191) (DESIGN CHOICE, log entry 3). -/
def State.use (s : State) (space va point n : Nat) : Nat := Config.freeUse (s.txn space va) point % n

/-- Translation by the base die of the line's stack (R187): the walk, or a translation held since the entry was changed and not covered by PINV; any
of them is used, the same by a whole line transaction (R176, R191). The class in force must be the frame's (R190, R193). Where the base die's
cache is full the oldest translation leaves it (DESIGN CHOICE, log entry 37). -/
def State.translate (s : State) (space va : Nat) : Except Nat Trans × State :=
  let d := space / 4096
  let D := s.die d
  let w := walk D space va (s.txn space va)
  let l := D.tcache.get (stackOf va) []
  let other := l.filter fun h => h.page.has space va && match w with | .ok t => !t.same h | .error _ => true
  let r : Except Nat Trans :=
    if other.isEmpty then w
    else match other[s.use space va 0 (other.length + 1)]? with
      | some h => .ok h
      | none => w
  match r with
  | .error c => (.error c, s)
  | .ok t =>
    if t.page.pcls ≠ D.frameClass (t.pa va) then (.error cCLASS, s)
    else
      (.ok t, if l.any t.same then s
        else s.modDie d fun D => { D with tcache := D.tcache.ins (stackOf va) ((t :: l).take Config.transEntries) })

/-- The line of the address is a data line of its frame (R193). -/
def tailOk (t : Trans) (va : Nat) : Bool := decide (t.pa va % 2 ^ 21 / 128 < dataLines t.page.pcls)

/-- The leaf entry that maps an address (R188, R189): within a contiguous group, the entry of its sixteenth. -/
def Trans.entryOf (t : Trans) (va : Nat) : Nat :=
  if t.page.size = 2 ^ 16 ∨ t.page.size = 2 ^ 25 ∨ t.page.size = 2 ^ 34 then
    t.leaf - 8 * (t.leaf / 8 % 16) + 8 * ((va - t.page.base) / (t.page.size / 16))
  else t.leaf

/-- D is set in the leaf, and in the filters and held translations of the page, before the first write is visible (R189). An entry in a retired
group takes no write (R195). The update is the base die's own: the dirty map does not record it (DEDUCED, log entry 36). -/
def State.setDirtyBit (s : State) (space : Nat) (t : Trans) (va : Nat) : State :=
  let mark (p : Page) : Page := if p.space = space ∧ p.base = t.page.base ∧ p.size = t.page.size then { p with d := true } else p
  let ea := t.entryOf va
  let D := s.die (space / 4096)
  let e := D.entry (s.txn space va) ea
  if bitOf e 12 || !bitOf e 0 || !bitOf e 1 then s
  else s.modDie (space / 4096) fun D =>
    { D with
        mem := if D.retired.contains (groupOf ea) then D.mem else wrBytes D.mem ea (bytesLE 8 (e + 2 ^ 12))
        tcache := D.tcache.each fun _ us => us.map fun u => { u with page := mark u.page }
        filters := D.filters.each fun _ ps => ps.map mark }

/-! ### The peer window (R322 to R324) -/

/-- A window address (R323). -/
def isWindow (va : Nat) : Bool := va / 2 ^ 48 == 15

/-- An 8-byte word of a table in device memory, as the part reads it (R446, R451): in an uncorrectable line it has no stated value (R177, R195)
(DESIGN CHOICE, log entry 36). -/
def Die.tableWord (D : Die) (pa : Nat) : Nat := if D.poisoned pa then (Config.freeEntry 0 pa).toNat else D.rd pa 8

/-- `n` such words as one number. -/
def Die.tableNum (D : Die) (pa n : Nat) : Nat := (List.range n).foldl (fun x i => x + D.tableWord (pa + 8 * i) * 2 ^ (64 * i)) 0

/-- The descriptor word of an ASID (R451); zero beyond the table's entry count (R446). -/
def Die.asidWord (D : Die) (asid off : Nat) : Nat :=
  if asid ≥ D.func.base.get 0x13008 0 then 0 else D.tableWord (D.func.base.get 0x13000 0 + 64 * asid + off)

/-- A network queue entry of an address space (R347): its 32 bytes as a number; none beyond the table. -/
def Die.netqEntry (D : Die) (asid q : Nat) : Option Nat :=
  let w := D.asidWord asid 8
  if !bitOf w 63 || q > bits w 49 40 then none else some (D.tableNum (bits w 39 12 * 4096 + 32 * q) 4)

/-- The import entry of an index as it stands in its table (R322, R451): none beyond the table. -/
def Die.importEntry (D : Die) (asid h : Nat) : Option Nat :=
  let w := D.asidWord asid 0
  if !bitOf w 63 || h > bits w 55 40 then none else some (D.tableNum (bits w 39 12 * 4096 + 16 * h) 2)

/-- The import entry that an access uses: the filters may still hold an older one until PINV (R191, R323). -/
def State.importOf (s : State) (space h : Nat) : Option Nat × State :=
  let d := space / 4096
  let D := s.die d
  let k := space % 4096 * 65536 + h
  let now := D.importEntry (space % 4096) h
  match D.imports.find k with
  | none => (now, match now with | some e => s.modDie d fun D => { D with imports := D.imports.ins k e } | none => s)
  | some e =>
    if now = some e then (now, s)
    else
      if s.use space (15 * 2 ^ 48 + h * 2 ^ 32) 2 2 = 0 then (some e, s)
      else (now, s.modDie d fun D => { D with imports := match now with | some e => D.imports.ins k e | none => D.imports.del k })

/-- Kinds of access. -/
inductive Acc where
  | read | write | atomic
  deriving DecidableEq, Repr

/-- This package's number (R449). -/
def State.pkg (s : State) : Nat := natLE (rdBytes s.ident 0 8) % 4096
/-- PKGID is VALID (R449). -/
def State.pkgValid (s : State) : Bool := bitOf (natLE (rdBytes s.ident 0 8)) 12

/-- The partition that owns an address space on a die (R450). -/
def State.partitionOf (s : State) (d asid : Nat) : Option (Nat × Partition) :=
  s.partitions.find? fun (_, p) => decide (p.first ≤ asid) && decide (asid ≤ p.first + p.cnt) && bits p.clusters (8 * d + 7) (8 * d) != 0

/-- Checks 3 to 6 of R324 for an access of `n` bytes at a window address: none when they pass. -/
def State.importCheck (s : State) (space va n : Nat) (k : Acc) : Option Nat × Nat × State :=
  let (e, s) := s.importOf space (bits va 47 32)
  match e with
  | none => (some cNOHANDLE, 0, s)
  | some e =>
    let o := va % 2 ^ 32
    let ext := bits e 63 52 != s.pkg
    let part := bits e 127 112
    let plain := !bitOf e 4 && !s.integrity.contains (bits e 9 8) && !s.integrity.contains (bits e 9 8 + 3)
    let keyed := !ext || plain || s.keys.contains (part, bits e 63 52)
    let mine := match s.partitionOf (space / 4096) (space % 4096) with | some (_, p) => p.partid == part | none => true
    if !bitOf e 0 || bits e 111 96 ≠ 0 || bits e 17 10 ≠ 0 || bits e 7 5 ≠ 0 || bits e 9 8 = 3 then (some cNOHANDLE, e, s)
    else if k = .read ∧ !bitOf e 1 then (some cREAD, e, s)
    else if k = .write ∧ !bitOf e 2 then (some cWRITE, e, s)
    else if k = .atomic ∧ !bitOf e 3 then (some cATOM, e, s)
    else if o + n - 1 > bits e 95 64 then (some cPEERRANGE, e, s)
    else if !keyed || !mine then (some cNOKEY, e, s)
    else (none, e, s)

/-! ### Checks at issue (R182, R183) -/

/-- Where an issuing stream stands: host die and core (its filter), address space, and the asks of its instruction. -/
structure View where
  die : Nat := 0
  core : Nat := 0
  space : Nat := 0
  asks : List Ask := []
  deriving DecidableEq, Repr, Inhabited

/-- Outcome of the checks of one access. -/
inductive Chk where
  /-- Local memory at a physical address of the origin die. -/
  | local (page : Page) (pa : Nat)
  /-- A remote access under this import entry. -/
  | remote (e : Nat)
  | fail (code addr : Nat)
  /-- The filter does not answer: the base die is asked (R182). -/
  | ask (a : Ask)
  deriving DecidableEq, Repr, Inhabited

/-- Steps 3, 4 and 6 of R183 once the base die or the filter has answered for the page. -/
def State.checkPage (s : State) (v : View) (va : Nat) (k : Acc) : Chk × State :=
  match s.translate v.space va with
  | (.error c, s) => (.fail c va, s)
  | (.ok t, s) =>
    if k ≠ .write ∧ !t.page.r then (.fail cREAD va, s)
    else if k ≠ .read ∧ !t.page.w then (.fail cWRITE va, s)
    else if !tailOk t va then (.fail cTAIL va, s)
    else (.local t.page (t.pa va), if k = .read then s else s.setDirtyBit v.space t va)

/-- The checks of R183 and R324 for a global access of `n` bytes. -/
def State.check (s : State) (v : View) (va n : Nat) (k : Acc) : Chk × State :=
  if va % n ≠ 0 then (.fail cALIGN va, s)
  else if va ≥ 2 ^ 52 then (.fail cNONCANON va, s)
  else if isWindow va then
    match s.importCheck v.space va n k with
    | (some c, _, s) => (.fail c va, s)
    | (none, e, s) => (.remote e, s)
  else
    let st := decide (k ≠ .read)
    let hit := ((s.die v.die).filters.get v.core []).find? fun p => p.has v.space va
    let ask : Ask := { space := v.space, page := va / 4096, store := st, stack := stackOf va }
    let answered := v.asks.find? fun a => a.space = v.space ∧ a.page = va / 4096 ∧ a.store = st ∧ a.answer.isSome
    match answered with
    | some a => match a.answer with
      | some 0 => s.checkPage v va k
      | some c => (.fail c va, s)
      | none => (.ask ask, s)
    | none => match hit with
      | some p =>
        if (k ≠ .write ∧ !p.r) ∨ (st ∧ !p.w) then
          -- the class of the line's frame comes first (R183 step 3), and only the base die knows it
          match s.translate v.space va with
          | (.error 0x105, s) => (.fail cCLASS va, s)
          | (_, s) => (.fail (if k ≠ .write ∧ !p.r then cREAD else cWRITE) va, s)
        else if st ∧ !p.d then (.ask ask, s)
        else s.checkPage v va k
      | none => (.ask ask, s)

/-- The checks that a copy, the part's own accesses and deliveries make when the access is performed (R239): the filter has no part. -/
def State.checkNow (s : State) (space va n : Nat) (k : Acc) : Chk × State :=
  if va % n ≠ 0 then (.fail cALIGN va, s)
  else if va ≥ 2 ^ 52 then (.fail cNONCANON va, s)
  else if isWindow va then
    match s.importCheck space va n k with
    | (some c, _, s) => (.fail c va, s)
    | (none, e, s) => (.remote e, s)
  else s.checkPage { space := space } va k

/-! ### Caches (R175, R178, R179, R205 to R207) -/

/-- Structures by kind and number, as in State.ways: the L1 of a core, a home slice of a die, the memory-side buffer of a stack, and the
others whose corrected errors are counted (R205, R207) (PRESUMED, log entry 12). -/
def structOf (kind n : Nat) : Nat := kind * 65536 + n

/-- Ways of a set of a structure of a kind that are not disabled (R207). -/
def State.usable (s : State) (kind n set : Nat) : List Nat :=
  (List.range (Config.cacheWays kind)).filter fun w => !s.ways.contains (structOf kind n, set, w)

/-- The way that a new line of a set takes: a usable one that is free, else the line in one of them leaves, chosen by the part. None where
fewer than two ways are usable: the set is bypassed (R207). -/
def State.wayFor (s : State) (ls : List CLine) (kind n set : Nat) : Option Nat × State :=
  let ws := s.usable kind n set
  if ws.length < 2 then (none, s)
  else match ws.find? fun w => !ls.any fun l => l.struct == structOf kind n && l.set == set && l.way == w with
    | some w => (some w, s)
    | none => let (k, s) := s.choose ws.length; (ws[k]?, s)

/-- The line that stands in a way. -/
def CLine.at_ (l : CLine) (struct set way : Nat) : Bool := l.struct == struct && l.set == set && l.way == way

/-- An access that reaches a base die is served through its memory-side buffer (R175, R179), which holds the line unless its set is bypassed. -/
def State.buffer (s : State) (d pa : Nat) (dirty : Bool) : State :=
  let k := stackOf pa
  let n := 4 * d + k
  let struct := structOf 2 n
  let set := Config.setIndex 2 0 (pa / 128) % Config.cacheSets 2
  let ls := (s.die d).msb.get k []
  match ls.find? fun l => l.pa == pa / 128 with
  | some l => s.modDie d fun D => { D with msb := D.msb.ins k (ls.map fun x => if x = l then { x with dirty := x.dirty || dirty } else x) }
  | none =>
    let (w, s) := s.wayFor ls 2 n set
    match w with
    | none => s
    | some w => s.modDie d fun D =>
        { D with msb := D.msb.ins k ({ pa := pa / 128, dirty := dirty, struct := struct, set := set, way := w } :: ls.filter fun l => !l.at_ struct set w) }

/-- The home slice of a line (R175): the hash spreads the lines over the slices that are not retired (R207). -/
def State.homeSlice (s : State) (d asid va : Nat) : Option Nat :=
  let live := (List.range Config.homeSlices).filter fun k => !s.slices.contains (16 * d + k)
  if live.isEmpty then none else some (live.getD (Config.sliceHash asid (va / 128) % live.length) 0)

/-- Dirty lines of the die cache are written back to their recorded addresses (R178): the memory-side buffers take them (R175), and the dirty map
records them (R189). -/
def State.writeBack (s : State) (d : Nat) (ls : List CLine) : State :=
  ls.foldl (fun s l => if l.dirty then (s.modDie d fun D => { D with dirty := setIns (l.pa * 128 / 2 ^ 16) D.dirty }).buffer d (l.pa * 128) true else s) s

/-- The lines of the die cache that `out` names leave it, written back first. -/
def State.evict (s : State) (d : Nat) (out : CLine → Bool) : State :=
  (s.writeBack d ((s.die d).lines.filter out)).modDie d fun D => { D with lines := D.lines.filter fun l => !out l }

/-- A line filled from `pa` into the die cache, in the place of one that leaves (R175); nothing is kept where its set is bypassed (R207). -/
def State.fillLine (s : State) (d asid va pa : Nat) (dirty : Bool) : State :=
  match s.homeSlice d asid va with
  | none => s
  | some k =>
    let struct := structOf 1 (16 * d + k)
    let set := Config.setIndex 1 asid (va / 128) % Config.cacheSets 1
    let (w, s) := s.wayFor (s.die d).lines 1 (16 * d + k) set
    match w with
    | none => s
    | some w => (s.evict d fun l => l.at_ struct set w).modDie d fun D =>
        { D with lines := { asid := asid, va := va / 128, pa := pa, dirty := dirty, struct := struct, set := set, way := w } :: D.lines }

/-- A line of this virtual address. -/
def CLine.holds (l : CLine) (asid va : Nat) : Bool := l.asid == asid && l.va == va / 128

/-- A mapping is in use for a physical line, until PINV covers it (R179) (DEDUCED, log entry 36). -/
def State.mapped (s : State) (d space va : Nat) (page : Page) (p : Nat) : State :=
  let u : MapUse := { space := space, va := va / 128, a := page.a, w := page.w }
  if ((s.die d).uses.get (p / 128) []).any fun v => v.space == u.space && v.va == u.va && v.a == u.a && v.w == u.w then s
  else s.modDie d fun D => { D with uses := D.uses.ins (p / 128) (u :: D.uses.get (p / 128) []) }

/-- The mapping of an address to a physical line is in use: no PINV has covered it yet (R179, R191). -/
def Die.inUse (D : Die) (space va line : Nat) : Bool := (D.uses.get line []).any fun u => u.space == space && u.va == va / 128

/-- The place a line is served from: alias pages, and accesses made at the base die (`base`), go there; other lines to the die cache. A line that the
die cache, an L1 or an instruction cache of the die still holds after the PINV of its mapping may serve the range until CINV, the whole of a line
transaction or not (R176, R178, R191); before that PINV the translation used says which mapping serves. A held line of another physical line
leaves, written back to where it was filled from. -/
def State.place (s : State) (space va : Nat) (page : Page) (pa : Nat) (dirty : Bool) (base : Bool := false) : Nat × State :=
  let d := space / 4096
  let asid := space % 4096
  if page.a || base then (pa, (s.buffer d pa dirty).mapped d space va page pa)
  else
    let D := s.die d
    let here := D.lines.find? fun l => l.holds asid va
    let old := ((D.lines.filter (·.holds asid va)) ++ (s.dies.flatMap fun (_, E) => E.l1.flatMap (·.2) ++ E.icache.flatMap (·.2)).filter (·.holds space va)).find? fun l =>
      l.pa != pa / 128 && !D.inUse space va l.pa
    let p := match old with
      | none => pa
      | some l => if s.use space va 1 2 = 0 then l.pa * 128 + pa % 128 else pa
    let s := if p = pa then s.mapped d space va page p else s
    match here with
    | some l =>
      if l.pa = p / 128 then
        (p, if l.dirty || !dirty then s
          else s.modDie d fun D => { D with lines := { l with dirty := true } :: D.lines.filter fun l => !l.holds asid va })
      else (p, ((s.evict d (·.holds asid va)).buffer d p false).fillLine d asid va (p / 128) dirty)
    | none => (p, (s.buffer d p false).fillLine d asid va (p / 128) dirty)

/-- The words of a table of `n` entries at `t` that are not zero, by index. -/
def Die.tableWords (D : Die) (t n : Nat) : List (Nat × Nat) :=
  (D.mem.foldl (fun l (a, _) => if t ≤ a ∧ a < t + 8 * n then setIns ((a - t) / 8) l else l) []).map fun i => (i, D.rd (t + 8 * i) 8)

/-- The leaves of the die's page tables (R184): address space, the virtual address and the size of what each maps, and its entry. -/
def Die.leaves (D : Die) (die : Nat) : List (Nat × Nat × Nat × Nat) :=
  let next (e : Nat) : Nat := bits e 47 20 * 4096
  (D.tableWords (D.func.base.get 0x10000 0) (min 4096 (D.func.base.get 0x10008 0))).flatMap fun (asid, as) => if !bitOf as 0 then [] else
    let sp := die * 4096 + asid
    (D.tableWords (bits as 39 7 * 128) 15).flatMap fun (i, e) => if !bitOf e 0 || bitOf e 1 then [] else
      (D.tableWords (next e) 512).flatMap fun (j, e) => if !bitOf e 0 || bitOf e 1 then [] else
        (D.tableWords (next e) 512).flatMap fun (k, e) =>
          let va := i * 2 ^ 48 + j * 2 ^ 39 + k * 2 ^ 30
          if !bitOf e 0 then [] else if bitOf e 1 then [(sp, va, 2 ^ 30, e)] else
          (D.tableWords (next e) 512).flatMap fun (m, e) =>
            let va := va + m * 2 ^ 21
            if !bitOf e 0 then [] else if bitOf e 1 then [(sp, va, 2 ^ 21, e)] else
            (D.tableWords (next e) 512).flatMap fun (n, e) => if !bitOf e 0 || !bitOf e 1 then [] else [(sp, va + n * 4096, 4096, e)]

/-- The physical address at which a leaf's page begins. -/
def leafBase (size e : Nat) : Nat := bits e 47 20 * 4096 / size * size

/-- Every mapping of a physical address in the die's page tables (R179, R184). -/
def Die.mapsOf (D : Die) (die pa : Nat) : List MapUse :=
  (D.leaves die).filterMap fun (sp, va, size, e) =>
    let base := leafBase size e
    if base ≤ pa ∧ pa < base + size then some { space := sp, va := (va + (pa - base)) / 128, a := bitOf e 11, w := bitOf e 8 } else none

/-- The address spaces that map some byte of a 2 MiB frame. -/
def Die.spacesOf (D : Die) (die frame : Nat) : List Nat :=
  (D.leaves die).filterMap fun (sp, _, size, e) => if leafBase size e < (frame + 1) * 2 ^ 21 ∧ frame * 2 ^ 21 < leafBase size e + size then some sp else none

/-- Words of memory that could be leaves of an address: V and L set, and the address within what the entry maps at some level. Without two of them
no two mappings exist. -/
def Die.leavesOf (D : Die) (pa : Nat) : List Nat :=
  (D.mem.filter fun (a, b) => a % 8 == 0 && b.getLsbD 0 && b.getLsbD 1 &&
    [4096, 2 ^ 21, 2 ^ 30].any fun size => bits (D.rd a 8) 47 20 * 4096 / size == pa / size).map (·.1)

/-- The line is mapped at two virtual addresses, in the page tables or by mappings still in use, not all of them alias pages, one of them writable:
a read through any of them is unpredictable (R179). -/
def Die.aliased (D : Die) (space va : Nat) (page : Page) (p : Nat) : Bool :=
  let l := D.uses.get (p / 128) [] ++ if (D.leavesOf p).length < 2 then [] else D.mapsOf (space / 4096) p
  (l.any fun u => u.space != space || u.va != va / 128) && (!page.a || l.any fun u => !u.a) && (page.w || l.any fun u => u.w)

/-- Read `n` bytes where a line is served from: none when they are uncorrectable (R177). -/
def State.readAt (s : State) (space va n : Nat) (page : Page) (p : Nat) (me : Option Nat := none) : Option Nat × State :=
  if (s.die (space / 4096)).aliased space va page p then let (x, s) := s.draw (8 * n); (some x, s)
  else s.rdMem (space / 4096) p n me

/-- The address lies in a slot of a receive ring that has been released and not filled again, which no program may read (R367). -/
def State.releasedSlot (s : State) (space va : Nat) : Bool :=
  s.netqs.any fun (k, Q) => k / 1024 == space && Q.released != 0 && match (s.die (space / 4096)).netqEntry (space % 4096) (k % 1024) with
    | some e =>
      let base := bits e 203 164 * 4096
      let n := bits e 163 148 + 1
      let i := (va - base) / (2048 * 2 ^ bits e 107 106)
      bits e 101 100 == 2 && decide (base ≤ va) && decide (i < n) && decide (i < Q.released) &&
        !((List.range (Q.delivered - Q.released)).any fun j => (Q.released + j) % n == i)
    | none => false

/-- Read `n` bytes at a checked local address (DESIGN CHOICE, log entry 4); those of a released slot are free values (R5, R367). -/
def State.load (s : State) (space va n : Nat) (page : Page) (pa : Nat) (me : Option Nat := none) : Option Nat × State :=
  let (p, s) := s.place space va page pa false
  if s.releasedSlot space va then let (x, s) := s.draw (8 * n); (some x, s) else s.readAt space va n page p me

/-- The die cache holds the line. -/
def Die.cached (D : Die) (asid va : Nat) : Bool := D.lines.any fun l => l.holds asid va

/-- What a store leaves behind at the base dies: a write through the die cache reaches them, and the dirty map, with the line's write-back
(R189), at once where the line is not held; through a mapping that is no alias it spoils what walkers read there (R180). -/
def State.stored (s : State) (space va : Nat) (page : Page) (p n : Nat) (seen : List Nat) : State :=
  if page.a then s
  else s.modDie (space / 4096) fun D =>
    { D with
        dirty := if D.cached (space % 4096) va then seen else D.dirty
        plain := (List.range (n / 8 + 2)).foldl (fun l i => if (p / 8 + i) * 8 < p + n then setIns (p / 8 + i) l else l) D.plain }

/-- Write bytes at a place a line is served from. -/
def State.putTo (s : State) (space va : Nat) (page : Page) (p : Nat) (bs : List Byte) (me : Option Nat := none) : State :=
  let seen := (s.die (space / 4096)).dirty
  (s.wrMem (space / 4096) p bs me).stored space va page p bs.length seen

/-- Write bytes at a checked local address (DESIGN CHOICE, log entry 4). -/
def State.putAt (s : State) (space va : Nat) (page : Page) (pa : Nat) (bs : List Byte) (me : Option Nat := none) : State :=
  let (p, s) := s.place space va page pa true
  s.putTo space va page p bs me

/-- A line served from `p` is to be written: it is dirty where it is held (R175). -/
def State.toWrite (s : State) (space va : Nat) (page : Page) (p : Nat) : State :=
  if page.a then s.buffer (space / 4096) p true
  else s.modDie (space / 4096) fun D =>
    { D with lines := D.lines.map fun l => if l.holds (space % 4096) va then { l with dirty := true } else l }

/-- The completion record of a network queue that the bytes touch: its address (R349). -/
def State.recordAt (s : State) (space va n : Nat) : Option Nat :=
  (s.netqs.filterMap fun (k, _) =>
    if k / 1024 ≠ space then none
    else match (s.die (space / 4096)).netqEntry (space % 4096) (k % 1024) with
      | some e => let r := bits e 255 204 / 16 * 16; if r < va + n ∧ va < r + 16 then some r else none
      | none => none).head?

/-- A completion record that a store has touched, which programs must not write, holds free values (R5, R349). -/
def State.smearRecord (s : State) (space va : Nat) (page : Page) (p : Nat) (me : Option Nat) : Option Nat → State
  | none => s
  | some r =>
    let (x, s) := s.drawBytes 16
    s.putTo space r page (p + r - va) x me

/-- A store of a program, or of a unit for it, at the place its line is served from (R5, R349). -/
def State.storeTo (s : State) (space va : Nat) (page : Page) (p : Nat) (bs : List Byte) (me : Option Nat := none) : State :=
  let r := s.recordAt space va bs.length
  (s.putTo space va page p bs me).smearRecord space va page p me r

/-- A store of a program, or of a unit for it, at a checked local address. -/
def State.store (s : State) (space va : Nat) (page : Page) (pa : Nat) (bs : List Byte) (me : Option Nat := none) : State :=
  let (p, s) := s.place space va page pa true
  s.storeTo space va page p bs me

/-! ### Corrected errors (R205 to R207) -/

/-- Cycles of 24 hours (R207). -/
def dayCycles : Nat := Config.usCycles (86400 * 1000000)

/-- Some structure's set and way, or group, has had three corrected errors within 24 hours (R195, R207). -/
def State.worn (s : State) (struct set way : Nat) : Bool :=
  decide ((s.recent.filter fun (x, c, w, t) => x == struct && c == set && w == way && decide (s.now < t + dayCycles)).length ≥ 3)

/-! ### Monel's event log, interrupts and traffic out of the package -/

/-- Append an event record (R456); the oldest of a full ring is overwritten. -/
def State.event (s : State) (code socket data : Nat) : State :=
  let e : Event := { time := s.time, code := code, socket := socket, data := data }
  { s with events := (s.events ++ [e]).drop (s.events.length + 1 - Config.eventLog), logHead := (s.logHead + 1) % Config.eventLog }

/-- The socket that an event of a structure names (R456): the stack's for a memory-side buffer and for device memory, else the die's. -/
def structSocket (struct set : Nat) : Nat :=
  let n := struct % 65536
  match struct / 65536 with
  | 1 => n / 16
  | 2 => stackSocket (n / 4) (n % 4)
  | 6 => stackSocket n (set / 512 % 4)
  | _ => n / 64

/-- A corrected error is counted and logged (R205, R456). -/
def State.corrects (s : State) (struct set way : Nat) : State :=
  let n := s.corrected.get struct 0 + 1
  State.event { s with
    corrected := s.corrected.ins struct n
    recent := (struct, set, way, s.now) :: s.recent.filter fun (_, _, _, t) => decide (s.now < t + dayCycles) } 1 (structSocket struct set)
    (struct * 2 ^ 64 + set * 2 ^ 32 + way)

/-- A load's line in the L1 of its core (R175, R200, R206): a hit uses it, after a discard and a refetch where its parity has failed, which
counts as one corrected error of the way; a miss allocates it, unless NA asks not to or its set is bypassed. Alias pages are never held (R179). -/
def State.l1Use (s : State) (die core space va pa : Nat) (alias_ na : Bool) : State :=
  if alias_ then s
  else
    let ls := (s.die die).l1.get core []
    let struct := structOf 0 (64 * die + core)
    match ls.find? fun l => l.holds space va with
    | some l =>
      if !l.bad then s
      else (s.modDie die fun D => { D with l1 := D.l1.ins core (ls.map fun x => if x = l then { x with bad := false, pa := pa / 128 } else x) }).corrects struct l.set l.way
    | none =>
      if na then s
      else
        let set := Config.setIndex 0 space (va / 128) % Config.cacheSets 0
        let (w, s) := s.wayFor ls 0 (64 * die + core) set
        match w with
        | none => s
        | some w => s.modDie die fun D =>
            { D with l1 := D.l1.ins core ({ asid := space, va := va / 128, pa := pa / 128, struct := struct, set := set, way := w } :: ls.filter fun l => !l.at_ struct set w) }

/-! ### Scratchpads -/

/-- Bytes of a team's scratchpad (R22). -/
def Team.spad (T : Team) : Nat := bits T.part 15 8 * 16384
/-- Accumulator tiles of a team (R22). -/
def Team.acct (T : Team) : Nat := bits T.part 20 16

/-- Scratchpad bytes as the team's sequencer writes them. -/
def State.spPut (s : State) (t off : Nat) (bs : List Byte) : State :=
  s.modTeam t fun T =>
    { T with
        sp := wrBytes T.sp off bs
        spBad := T.spBad.filter fun w => !(decide (off ≤ 4 * w) && decide (4 * w + 4 ≤ off + bs.length))
        spOld := T.spOld.filter fun (k, _) => !(decide (off ≤ k) && decide (k < off + bs.length)) }

/-- Contents of `n` bytes kept for operand reads that no FENCE with OPR orders after the writes that replace them (R222, R463). -/
def keepSp (old : Map (List Byte)) (sp : List Host.Cell) (off n : Nat) : Map (List Byte) :=
  (List.range n).foldl (fun old i =>
    let b := Map.get sp (off + i) 0
    let was := old.get (off + i) []
    if was.contains b then old else old.ins (off + i) (b :: was)) old

/-- Some word of the bytes holds an uncorrectable error (R175). -/
def Team.spPoison (T : Team) (off n : Nat) : Bool := T.spBad.any fun w => decide (off < 4 * w + 4) && decide (4 * w < off + n)

/-- Scratchpad bytes as the team's sequencer reads them: none when a word holds an uncorrectable error. -/
def State.spGet (s : State) (t off n : Nat) : Option Nat :=
  if (s.team t).spPoison off n then none else some (natLE (rdBytes (s.team t).sp off n))

/-- Write scratchpad bytes as another party: bytes in the window of a matrix operation take free values (R277). -/
def State.spWrite (s : State) (t off : Nat) (bs : List Byte) : State :=
  let T := s.team t
  let offs := T.races true 0 off bs.length true
  let keep (s : State) : State := s.modTeam t fun U => { U with spOld := keepSp T.spOld T.sp off bs.length }
  if offs.isEmpty then keep (s.spPut t off bs)
  else
    let (bs, s) := s.blur bs offs
    keep ((s.modTeam t fun T => T.mark true 0 off bs.length true).spPut t off bs)

/-- Scratchpad bytes as an operand read of the matrix engine finds them: each as it stands, or as it stood before writes that no FENCE with OPR
orders before the read (R222, R463). -/
def State.spOlder (s : State) (t off : Nat) (bs : List Byte) : List Byte × State :=
  let old := (s.team t).spOld
  if old.isEmpty then (bs, s)
  else (List.range bs.length).foldl (fun (bs, s) i => match old.get (off + i) [] with
    | [] => (bs, s)
    | ws =>
      let (k, s) := s.choose (ws.length + 1)
      (match ws[k]? with | some b => bs.set i b | none => bs, s)) (bs, s)

/-- Lines of a die that some writes of one instruction fill together lose their poison (R177): addresses and lengths. -/
def State.filled (s : State) (d : Nat) (ws : List (Nat × Nat)) : State :=
  let whole (l : Nat) : Bool := (List.range 128).all fun i => ws.any fun (a, n) => decide (a ≤ l * 128 + i) && decide (l * 128 + i < a + n)
  if (s.die d).poison.isEmpty then s else s.modDie d fun D => { D with poison := D.poison.filter fun l => !whole l }

/-- Read scratchpad bytes as another party. -/
def State.spRead (s : State) (t off n : Nat) : Option Nat × State :=
  let offs := (s.team t).races true 0 off n false
  if (s.team t).spPoison off n then (none, s)
  else if offs.isEmpty then (s.spGet t off n, s)
  else
    let (bs, s) := s.blur (rdBytes (s.team t).sp off n) offs
    (some (natLE bs), s.modTeam t fun T => T.mark true 0 off n false)

/-! ### Traffic out of the package -/

/-- An event of which the manual names no code (R388, R391, R417, R477): the code is a free value (DESIGN CHOICE, log entry 26). -/
def State.eventOpen (s : State) (socket data : Nat) : State := let (c, s) := s.draw 16; s.event c socket data

def State.send (s : State) (x : Sent) : State := { s with out := s.out ++ [x] }

end Sys2Proof.Machine
end

