-- ==== Sys2Proof/Machine/Ops.lean ====
section
/-! DEFINITION. The shared operations: registers of the issuing stream, joins, lane deaths, fragments, and taking a fault of a lane, a
warp or a sequencer. -/

namespace Sys2Proof.Machine

/-! ### The issuing stream -/

/-- The team and warp (32 for the sequencer, R81) of a stream. -/
def Stream.ids : Stream → Option (Nat × Nat)
  | .none => Option.none
  | .warp t w => some (t, w)
  | .path t w _ => some (t, w)
  | .seq t => some (t, 32)

/-- The team that issues. -/
def State.me (s : State) : Nat := match s.cur.ids with | some (t, _) => t | none => 0

/-- A general register of the issuing scalar or matrix stream; register 0 reads zero (R46, R78). -/
def State.sreg (s : State) (r : Nat) : Word :=
  if r = 0 then 0
  else match s.cur with
    | .warp t w => (s.warp t w).s.get r 0
    | .seq t => (s.team t).seq.t.get r 0
    | _ => 0

/-- The register that an instruction field names. -/
def State.reg (s : State) (r : Reg) : Word := s.sreg r.toNat

/-- Write a scalar register of a warp; s0 discards it, and an uncorrectable error is replaced. -/
def Warp.setS (W : Warp) (r : Nat) (x : Word) : Warp :=
  if r = 0 then W else { W with s := W.s.put 0 r x, badS := W.badS.filter (· != r) }

/-- Write a sequencer register; t0 discards it. -/
def Seq.setT (q : Seq) (r : Nat) (x : Word) : Seq :=
  if r = 0 then q else { q with t := q.t.put 0 r x, badT := q.badT.filter (· != r) }

/-- Write a general register of the issuing stream. -/
def State.setSreg (s : State) (r : Nat) (x : Word) : State :=
  match s.cur with
  | .warp t w => s.modWarp t w (·.setS r x)
  | .seq t => s.modSeq t (·.setT r x)
  | _ => s

def State.setReg (s : State) (r : Reg) (x : Word) : State := s.setSreg r.toNat x

/-- SPC of the issuing stream (R89). -/
def State.pc (s : State) : Word :=
  match s.cur with
  | .warp t w => (s.warp t w).spc
  | .seq t => (s.team t).seq.pc
  | _ => 0

def State.setPc (s : State) (x : Word) : State :=
  match s.cur with
  | .warp t w => s.modWarp t w fun W => { W with spc := x }
  | .seq t => s.modSeq t fun q => { q with pc := x }
  | _ => s

/-- Go on at the next instruction, `n` bytes further; what the stream had asked or waited for is done. -/
def State.advance (s : State) (n : Nat) : State :=
  match s.cur with
  | .warp t w => s.modWarp t w fun W => { W with spc := W.spc + BitVec.ofNat 64 n, wait := .none, asks := [], got := [], qwait := none }
  | .seq t => s.modSeq t fun q => { q with pc := q.pc + BitVec.ofNat 64 n, wait := .none, asks := [] }
  | _ => s

/-- Write a result and go on after a one-word instruction. -/
def State.result (s : State) (d : Reg) (x : Word) : State := (s.setReg d x).advance 4

/-- What the issuing scalar or matrix stream waits for. -/
def State.waiting (s : State) : Wait :=
  match s.cur with
  | .warp t w => (s.warp t w).wait
  | .seq t => (s.team t).seq.wait
  | _ => .none

/-- The issuing scalar or matrix stream waits: the instruction issues again when the wait has ended (DEDUCED, log entry 11). -/
def State.setWait (s : State) (x : Wait) : State :=
  match s.cur with
  | .warp t w => s.modWarp t w fun W => { W with wait := x }
  | .seq t => s.modSeq t fun q => { q with wait := x }
  | _ => s

/-- Pages asked for the instruction of the issuing stream. -/
def State.asks (s : State) : List Ask :=
  match s.cur with
  | .warp t w => (s.warp t w).asks
  | .seq t => (s.team t).seq.asks
  | .path t w b => (s.path t w b).asks
  | .none => []

def State.setAsks (s : State) (l : List Ask) : State :=
  match s.cur with
  | .warp t w => s.modWarp t w fun W => { W with asks := l }
  | .seq t => s.modSeq t fun q => { q with asks := l }
  | .path t w b => s.modPath t w b fun p => { p with asks := l }
  | .none => s

/-- STREAM of the issuing stream; a lane block's is the one its LGO captured (R84). -/
def State.tag (s : State) : Nat :=
  match s.cur with
  | .warp t w => (s.warp t w).stream
  | .seq t => (s.team t).seq.stream
  | .path t w _ => match (s.warp t w).queue with | b :: _ => b.stream | [] => 0
  | .none => 0

/-- The issuing stream's place: host die, core, address space and asks. -/
def State.view (s : State) : View :=
  let T := s.team s.me
  { die := T.die, core := T.core, space := T.space, asks := s.asks }

/-! ### Joins, block completion and lane barriers (R148, R150, R152, R163, R164) -/

/-- Put a path where it belongs: slot A, else slot B, else back on the stack by `f` (R150). A JOIN entry that completes with no lane arrived
releases no path (DEDUCED, log entry 36). -/
def Warp.place (W : Warp) (p : Path) (f : List Entry) (rest : List Entry) : Warp :=
  if p.mem = 0 then { W with stack := f ++ rest }
  else if W.a.isNone then { W with a := some p, stack := f ++ rest }
  else if W.b.isNone then { W with b := some p, stack := f ++ rest }
  else { W with stack := f ++ .part p :: rest }

/-- Set mask k of some lanes (R154). -/
def Warp.setMask (W : Warp) (k : Nat) (ls val : Half) : Warp :=
  if k = 0 then W else { W with m := W.m.put 0 k (W.m.get k 0 &&& ~~~ls ||| val &&& ls) }

/-- The first complete JOIN entry from the top: what stands above it, the entry, what stands below. Of several that complete in one cycle the topmost
releases its path first (DESIGN CHOICE, log entry 37). -/
def splitComplete : List Entry → Option (List Entry × (Nat × Half × Option Nat × Nat) × List Entry)
  | [] => none
  | .join id j e ar outer dl k :: r =>
    if e &&& ~~~ar = 0 then some ([], (j, ar, outer, k), r)
    else (splitComplete r).map fun (a, x, b) => (.join id j e ar outer dl k :: a, x, b)
  | x :: r => (splitComplete r).map fun (a, y, b) => (x :: a, y, b)

/-- Complete JOIN entries release their paths (R148); at most `n` of them. -/
def Warp.joinsDone (W : Warp) : Nat → Warp
  | 0 => W
  | n + 1 => match splitComplete W.stack with
    | none => W
    | some (a, (j, ar, outer, k), r) =>
      ((W.setMask k ar 0).place { pc := j + 1, m0 := ar, mem := ar, join := outer } a r).joinsDone n

/-- At block completion the written shared registers are copied into the scalar file (R95). -/
def Warp.copyBack (W : Warp) (b : Block) : Warp :=
  (lanesOf b.written).foldl (fun W i => W.setS (32 + i) (b.snap.get (32 + i) 0)) W

/-- The scalar instruction at SPC has used its registers and waits for another unit's answer: the copy of R95 does not fall inside it. -/
def Warp.midway (W : Warp) : Bool :=
  !W.got.isEmpty || match W.wait with
  | .tree => true
  | .reply _ => true
  | .remote _ => true
  | _ => false

/-- The block completes when every lane that is not dead has arrived at LEND (R152), between two scalar instructions (R95). -/
def Warp.blockDone (W : Warp) : Warp :=
  match W.queue with
  | b :: q =>
    if W.started && (~~~W.dead &&& ~~~W.arrived == 0) && !W.midway then
      { W.copyBack b with queue := q, writes := W.writes ++ W.blockWrites, blockWrites := [], started := false, a := none, b := none, arrived := 0, stack := [], detached := 0 }
    else W
  | [] => W

/-- What the end of a cycle checks of a warp (R148, R152). -/
def Warp.settle (W : Warp) : Warp := if W.life = .running then (W.joinsDone (W.stack.length + 1)).blockDone else W

/-- Lanes that a barrier waits for (R163). -/
def Team.barTarget (T : Team) : Nat :=
  (T.warps.map fun (_, W) => if W.life = .running then count (~~~W.dead) else 0).sum

/-- A path that waits at barrier `n` goes on (R164). -/
def Path.release (n : Nat) (p : Path) : Path := if p.bar = some n then { p with bar := none, pc := p.pc + 1 } else p

/-- Barriers whose count has reached the target complete (R164). -/
def Team.barriersDone (T : Team) : Team :=
  T.barriers.foldl (fun T (n, c) =>
    if c < T.barTarget then T
    else { T with
      barriers := T.barriers.del n
      warps := T.warps.each fun _ W => { W with a := W.a.map (Path.release n), b := W.b.map (Path.release n) } }) T

/-- The end-of-cycle checks of a team. -/
def State.settle (s : State) (t : Nat) : State :=
  s.modTeam t fun T => { T with warps := T.warps.each fun _ W => W.settle }.barriersDone

/-! ### Deaths and fragments (R156 to R162, R424) -/

/-- Remove lanes from a path; a path without members leaves its slot. -/
def Path.without (ls : Half) (p : Path) : Option Path :=
  if p.mem &&& ~~~ls = 0 then none
  else some { p with m0 := p.m0 &&& ~~~ls, mem := p.mem &&& ~~~ls, board := p.board.filter fun x => !ls.getLsbD x.lane,
                     scales := p.scales.filter fun x => !ls.getLsbD x.lane }

/-- Remove lanes from a stack entry; an empty PART or RET entry goes (R138, R162). -/
def Entry.without (ls : Half) : Entry → Option Entry
  | .join id j e ar o d k => some (.join id j (e &&& ~~~ls) (ar &&& ~~~ls) o d k)
  | .part p => (p.without ls).map .part
  | .ret i r => if r &&& ~~~ls = 0 then none else some (.ret i (r &&& ~~~ls))

/-- Remove lanes from the expected lanes of every JOIN entry (R151, R152). -/
def Entry.unexpect (ls : Half) : Entry → Entry
  | .join id j e ar o d k => .join id j (e &&& ~~~ls) ar o d k
  | x => x

/-- Lanes die with a cause (R161, R162): outside the table of fragments. -/
def Warp.kill (W : Warp) (ls : Half) (cause : Nat) : Warp :=
  { W with
      dead := W.dead ||| ls
      deaths := (lanesOf (ls &&& ~~~W.dead)).foldl (fun m l => m.ins l cause) W.deaths
      a := W.a.bind (Path.without ls)
      b := W.b.bind (Path.without ls)
      stack := W.stack.filterMap (Entry.without ls) }

/-- Lanes of a warp die (R161, R162); fragments without live lanes become FREE. What the deaths complete, the end of the cycle settles. -/
def State.killLanes (s : State) (t w : Nat) (ls : Half) (cause : Nat) : State :=
  let s := s.modWarp t w (·.kill ls cause)
  { s with frags := (s.frags.each fun _ f => if f.team = t ∧ f.warp = w then { f with mask := f.mask &&& ~~~ls, idle := f.idle &&& ~~~ls } else f).filter fun (_, f) => f.mask != 0 }

/-- A fragment's warp still runs, so that the fragment can be resolved (R410, R425). -/
def State.fragLive (s : State) (f : Nat) : Bool :=
  match s.frags.find f with
  | some F => (s.teams.find F.team).isSome && ((s.warp F.team F.warp).life == .running)
  | none => false

/-- A fragment whose lanes are all decided or dead resolves (R424). -/
def State.resolveFrag (s : State) (f : Nat) : State :=
  match s.frags.find f with
  | none => s
  | some F =>
    let live := lanesOf F.mask
    if F.state ≠ .handling ∨ !(live.all fun l => F.decided.any fun d => d.1 == l) then s
    else
      let pt (l : Nat) : Option Nat := ((F.decided.find? fun d => d.1 == l).bind (·.2))
      let rs := live.filter fun l => (pt l).isSome
      let p := (rs.head?.bind pt).getD 0
      let mix := maskOf (rs.filter fun l => pt l != some p)
      let kil := maskOf (live.filter fun l => (pt l).isNone)
      let left := F.mask &&& ~~~mix &&& ~~~kil
      let s :=
        if left = 0 then { s with frags := s.frags.del f }
        else if p = 65536 then
          let out := left &&& ~~~F.idle
          let s := s.modWarp F.team F.warp fun W =>
            { W with arrived := W.arrived ||| left &&& F.idle, stack := W.stack.map (Entry.unexpect (left &&& F.idle)) }
          if out = 0 then { s with frags := s.frags.del f }
          else s.modFrag f fun F => { F with state := .parked, cause := 7, detail := 0, pc := 65535, addr := 0, mask := out ||| mix ||| kil, idle := 0, decided := [], at_ := s.now }
        else s.modFrag f fun F => { F with state := .ready, resume := p, mask := left ||| mix ||| kil, idle := F.idle &&& left, decided := [] }
      let s := if mix = 0 then s else s.killLanes F.team F.warp mix 3
      let s := if kil = 0 then s else s.killLanes F.team F.warp kil 2
      s.settle F.team

/-- The origin lanes of handler lanes die with a cause (R425, R426); their handler lanes are settled. -/
def State.killOrigins (s : State) (t w : Nat) (ls : List Nat) (cause : Nat) : State :=
  let os := (s.warp t w).origins
  let s := s.modWarp t w fun W => { W with origins := W.origins.mapIdx fun i o => if ls.contains i then { o with settled := true } else o }
  ls.foldl (fun s l => match os[l]? with
    | none => s
    | some o =>
      if o.settled || !s.fragLive o.frag then s
      else
        let F := s.frag o.frag
        ((s.killLanes F.team F.warp (maskOf [o.lane]) cause).resolveFrag o.frag).settle F.team) s

/-- Lanes die, with the origin lanes of a handler warp's lanes (R161, R425). -/
def State.laneDeath (s : State) (t w : Nat) (ls : Half) (cause : Nat) : State :=
  let s := s.killLanes t w ls cause
  if (s.team t).handler then s.killOrigins t w (lanesOf ls) 4 else s

/-! ### Taking a fault that stops a stream (R410 to R414) -/

/-- What a fault report says of its fault; the rest of it is filled from the state (R412). -/
structure Raise where
  code : Nat := 0
  addr : Nat := 0
  pc : Nat := 0
  swcode : Nat := 0
  lane : Bool := false
  straddle : Bool := false
  disc : Nat := 0
  nxt : Nat := 0
  deriving DecidableEq, Repr

/-- The report of R412. -/
def State.mkReport (s : State) (t : Nat) (warp : Option Nat) (r : Raise) : Report :=
  let T := s.team t
  { teamref := T.ref.getD 0, teamid := T.teamid, asid := T.asid, socket := T.origin, core := T.core,
    warp := match warp with | some w => (T.warp w).slot | none => 0, seq := warp.isNone, lane := r.lane, straddle := r.straddle,
    detail := r.code % 256, cause := r.code / 256, code := r.swcode, disc := r.disc, nxt := r.nxt, pc := r.pc, addr := r.addr, time := s.time,
    host := T.die, team := t, windex := warp }

/-- A warp halts (R410): it issues nothing further, its lanes leave the barriers, and a handler warp's undecided origin lanes die
NESTED (R425). -/
def State.haltWarp (s : State) (t w : Nat) : State :=
  let s := s.modWarp t w fun W => { W with life := .halted, wait := .none, asks := [] }
  let s := if (s.team t).handler then s.killOrigins t w lanes 4 else s
  (s.modTeam t fun T => { T with faulted := true }).settle t

/-- A warp-level fault that halts: the report is written, then the warp halts (R410, R412). A warp that has halted takes no further one. -/
def State.warpFault (s : State) (t w : Nat) (r : Raise) : State :=
  if (s.warp t w).life ≠ .running then s else
  let R := s.mkReport t (some w) r
  let s := s.modWarp t w fun W => { W with report := some R }
  { s with faults := s.faults ++ [R] }.haltWarp t w

/-- A warp dies (R414): every living lane dies with cause WARP, and the warp ends as a halted warp with cause POISON. -/
def State.warpDeath (s : State) (t w : Nat) (r : Raise) : State :=
  (s.killLanes t w (~~~(s.warp t w).dead) 7).warpFault t w { r with code := 0xE00 + r.code % 256 }

/-- Word 3 of the handler descriptor (R411, R417) of a team's address space: the word, 0 where the descriptor counts as all zero, none while its
page is absent or a peer has not answered (DEDUCED, log entry 29). -/
def State.descWord (s : State) (t : Nat) : Option Nat × State :=
  let space := (s.team t).space
  let vec := ((s.die (space / 4096)).space.get (space % 4096 * 64) 0).toNat
  let x := vec + 24
  if vec = 0 then (some 0, s)
  else match s.jobs.find? fun y => y.1 == .restart t && y.2.1 == x with
    | some (_, _, some v) => (some v, s)
    | some (_, _, none) => (some 0, s.eventOpen (space / 4096) vec)
    | none => match s.checkNow space x 8 .read with
      | (.local page pa, s) => match s.load space x 8 page pa with
        | (some v, s) => (some v, s)
        | (none, s) => (some 0, s.eventOpen (space / 4096) vec)
      | (.fail c _, s) => if c = cABSENT then (none, s) else (some 0, s.eventOpen (space / 4096) vec)
      | (.remote _, s) => (none, s)
      | (.ask _, s) => (some 0, s.eventOpen (space / 4096) vec)

/-- The sequencer restarts at word 3 of the handler descriptor, or stays stopped where there is none; while the descriptor's page is
absent the restart waits (R411, R417). An entry word whose two low bits are not zero is taken as it stands: the spec does not say what a
misaligned entry does (DEDUCED, log entry 36). -/
def State.seqRestart (s : State) (t : Nat) : State :=
  match (s.team t).seq.restart with
  | none => s
  | some (x, y, z) =>
    let sp := (s.team t).space
    let vec := ((s.die (sp / 4096)).space.get (sp % 4096 * 64) 0).toNat
    match s.descWord t with
    | (none, s) => s.modSeq t fun q => { q with wait := .absent sp ((vec + 24) / 4096) }
    | (some 0, s) => s.modTeam t fun T => { T with faulted := true, seq := { T.seq with restart := none, wait := .none } }
    | (some e, s) => s.modSeq t fun q =>
      { ((q.setT 29 x).setT 30 y).setT 31 z with life := .running, wait := .none, restart := none, pc := BitVec.ofNat 64 e }

/-- A sequencer fault (R411, R412): the report is written, the sequencer stops, and restarts where the handler descriptor says. -/
def State.seqFault (s : State) (t : Nat) (r : Raise) : State :=
  let R := s.mkReport t none r
  let s := s.modSeq t fun q =>
    { q with life := .halted, wait := .none, asks := [], report := some R,
             restart := some (BitVec.ofNat 64 r.disc, BitVec.ofNat 64 r.nxt, BitVec.ofNat 64 r.pc) }
  { s with faults := s.faults ++ [R] }.seqRestart t

/-- The register that a matrix operation writes when it completes (R272); 0 for none. -/
def MOp.dest (o : MOp) : Nat :=
  match o.op with
  | .mchk d _ => d.toNat
  | .mloc d _ => d.toNat
  | _ => 0

/-- Some register still waits for the result of a matrix operation (R80). -/
def Team.awaits (T : Team) (rs : List Nat) : Bool := T.mOps.any fun o => o.dest != 0 && rs.contains o.dest

/-- A fault of the issuing scalar or matrix stream, taken at the instruction (R50, R408). A sequencer takes it once every earlier
matrix operation has completed (R280, R411). -/
def State.streamFault (s : State) (r : Raise) : State :=
  match s.cur with
  | .warp t w => s.warpFault t w { r with pc := (s.warp t w).spc.toNat }
  | .seq t => if !(s.team t).mOps.isEmpty then s else s.seqFault t { r with pc := (s.team t).seq.pc.toNat, nxt := (s.team t).seq.pc.toNat + s.ilen }
  | _ => s

/-- Poisoned data or an uncorrectable register of the issuing scalar or matrix stream (R281, R414): `w` and `q` are the details for a
warp and for a sequencer. -/
def State.streamPoison (s : State) (w q addr : Nat) : State :=
  match s.cur with
  | .warp t k => s.warpDeath t k { code := w, addr := addr, pc := (s.warp t k).spc.toNat }
  | .seq t => if !(s.team t).mOps.isEmpty then s else s.seqFault t { code := 0xE00 + q, addr := addr, pc := (s.team t).seq.pc.toNat, nxt := (s.team t).seq.pc.toNat + s.ilen }
  | _ => s

/-! ### Lanes leave their path (R158) -/

/-- A failing lane: its number, its code (R408) and its fault address. -/
structure Fail where
  lane : Nat
  code : Nat
  addr : Nat
  straddle : Bool := false
  deriving DecidableEq, Repr

/-- Causes without a fault address group by cause and detail alone (R158). -/
def noAddr (code : Nat) : Bool := code == cLPAD || code == cILLEGAL || code == cSWTRAP

/-- Two failing lanes belong to one group (R158). -/
def Fail.same (x y : Fail) : Bool := x.code == y.code && (noAddr x.code || x.addr / 4096 == y.addr / 4096)

/-- The groups of failing lanes, in ascending order of lowest lane (R158); the list is in lane order. -/
def groupFails : Nat → List Fail → List (List Fail)
  | 0, _ => []
  | _, [] => []
  | n + 1, x :: r => (x :: r.filter x.same) :: groupFails n (r.filter fun y => !x.same y)

/-- Free entries of a core's fragment table (R156). -/
def State.freeFrags (s : State) (d c : Nat) : List Nat :=
  (List.range Config.fragEntries).filter fun i =>
    !(s.frags.any fun (_, F) => F.entry == some i && (s.team F.team).die == d && (s.team F.team).core == c)

/-- Lanes leave the path in a slot (R158). -/
def Warp.leave (W : Warp) (b : Bool) (ls : Half) : Warp := W.setPath b ((W.path b).bind (Path.without ls))

/-- Lanes leave the path that holds them, in a slot or on the stack (R158). -/
def Warp.part (W : Warp) (ls : Half) : Warp :=
  { W with
      a := W.a.bind (Path.without ls)
      b := W.b.bind (Path.without ls)
      stack := W.stack.filterMap fun x => match x with | .part p => (p.without ls).map .part | x => some x }

/-- The address space has no handler (R417). -/
def State.noHandler (s : State) (t : Nat) : Bool :=
  let sp := (s.team t).space
  (s.die (sp / 4096)).space.get (sp % 4096 * 64) 0 == 0

/-- One group of lanes of a path parks as one fragment (R158), or is answered without one: the lanes of a handler warp die (R425); where there
is no handler the fragment of a program-visible cause resolves at once, and its lanes die (R417). None when the table is full. -/
def State.parkGroup (s : State) (t w : Nat) (p : Path) (g : List Fail) (idle : Half) : Option State :=
  let x := g.head?.getD ⟨0, 0, 0, false⟩
  let ls := maskOf (g.map (·.lane))
  if (s.team t).handler then some (s.laneDeath t w ls 4)
  else
    let T := s.team t
    let free := s.freeFrags T.die T.core
    if free.isEmpty then none
    else if s.noHandler t && x.code != cABSENT && x.code != cFETCHABSENT then some (s.killLanes t w ls 6)
    else
      let (k, s) := s.choose free.length
      let (id, s) := s.fresh
      let F : Frag := { team := t, warp := w, entry := some (free.getD k 0), pc := p.pc, mask := ls, idle := idle, cause := x.code / 256, detail := x.code % 256, straddle := x.straddle, addr := x.addr, join := p.join, at_ := s.now }
      some { s.modWarp t w (·.part ls) with frags := s.frags.ins id F }

/-- Groups park in order; at the first that finds no entry the warp takes FRAGFULL, and the lanes of the groups left stay in the path (R158,
R410). The groups that have not parked. -/
def State.parkAll (s : State) (t w : Nat) (p : Path) (gs : List (List Fail)) (idle : Half) : State × List (List Fail) :=
  match gs with
  | [] => (s, [])
  | g :: r => match s.parkGroup t w p g idle with
    | some s' => s'.parkAll t w p r idle
    | none => (s.warpFault t w { code := 0xD00 + (g.head?.getD ⟨0, 0, 0, false⟩).code / 256, pc := p.pc, lane := true }, gs)

/-- Failing lanes of the issuing path park (R158). The Bool says whether all parked. -/
def State.park (s : State) (t w : Nat) (b : Bool) (fs : List Fail) : State × Bool :=
  let (s, gs) := s.parkAll t w (s.path t w b) (groupFails 32 fs) 0
  (s, gs.isEmpty)

/-! ### Advancing a path (R40, R153) -/

/-- A path has completed index 65,535 without a transfer, or goes to an index past it: its lanes park at 65,535, and its idle members arrive at
LEND (R40, R153). For an LRET to index 65,536 the spec is silent: it acts as the call's own completion would (DEDUCED, log entry 36). -/
def State.pastEnd (s : State) (t w : Nat) (p : Path) : State :=
  let idle := p.mem &&& ~~~p.m0
  let s := (s.parkAll t w { p with pc := 65535 } (groupFails 32 ((lanesOf p.m0).map fun l => ⟨l, cILLEGAL, 0, false⟩)) 0).1
  (s.modWarp t w fun W =>
    let W := W.part idle
    { W with arrived := W.arrived ||| idle, stack := W.stack.map (Entry.unexpect idle) }).settle t

/-- The path in a slot goes to index `i`. -/
def State.goto (s : State) (t w : Nat) (b : Bool) (i : Nat) : State :=
  if i ≤ 65535 then s.modPath t w b fun p => { p with pc := i, asks := [], scales := [], issued := s.now }
  else
    let s := s.modPath t w b fun p => { p with pc := 65535, asks := [], scales := [] }
    s.pastEnd t w (s.path t w b)

/-- Paths of a warp, on slots and stack, that a release or a split has put past index 65,535 (R40). -/
def Warp.pastPaths (W : Warp) : List Path :=
  (W.a.toList ++ W.b.toList ++ W.stack.filterMap fun x => match x with | .part p => some p | _ => none).filter fun p => decide (p.pc > 65535)

/-- Those paths stand at index 65,535, the last that they have completed (R40). -/
def Warp.heldBack (W : Warp) : Warp :=
  let back (p : Path) : Path := { p with pc := min p.pc 65535 }
  { W with a := W.a.map back, b := W.b.map back, stack := W.stack.map fun x => match x with | .part p => .part (back p) | x => x }

/-- The path goes to the next index. -/
def State.nextIdx (s : State) (t w : Nat) (b : Bool) : State := s.goto t w b ((s.path t w b).pc + 1)

/-- An encoding or privilege error of a lane word (R62): the lanes of m0 park; with m0 zero the word has no effect. -/
def State.laneIllegal (s : State) (t w : Nat) (b : Bool) : State :=
  let p := s.path t w b
  if p.m0 = 0 then s.nextIdx t w b
  else (s.park t w b ((lanesOf p.m0).map fun l => ⟨l, cILLEGAL, 0, false⟩)).1.settle t

/-- Illegal instruction of the issuing stream (R46, R50, R62). -/
def State.illegal (s : State) : State :=
  match s.cur with
  | .path t w b => s.laneIllegal t w b
  | _ => s.streamFault { code := cILLEGAL }

/-! ### Guards: what every instruction asks of its stream before it acts -/

/-- The warp exists and runs. -/
def State.warpLive (s : State) (t w : Nat) : Bool :=
  match s.teams.find t with
  | some T => match T.warps.find w with | some W => W.life == .running | none => false
  | none => false

/-- The path exists, and its warp runs or has halted while the path's instruction is outstanding, which still completes (R410). -/
def State.pathLive (s : State) (t w : Nat) (b : Bool) : Bool :=
  match (s.teams.find t).bind fun T => T.warps.find w with
  | some W => (match W.path b with | some p => W.life == .running || (W.life == .halted && !(p.asks.isEmpty && p.scales.isEmpty)) | none => false)
  | none => false

/-- The sequencer's team exists and the sequencer runs. -/
def State.seqLive (s : State) (t : Nat) : Bool :=
  match s.teams.find t with | some T => T.seq.life == .running | none => false

/-- A scalar-encoded instruction (R46, R48, R414): `onWarp` and `onSeq` say which streams may run it, `fields` are its register
fields, `reads` the registers it reads. -/
def scalar (onWarp onSeq : Bool) (fields : List Reg) (reads : List Nat) (s : State) (k : Out) : Out :=
  match s.cur with
  | .warp t w =>
    if !s.warpLive t w then .fault .noIssuer
    else if !onWarp then .next s.illegal
    else if reads.any fun r => (s.warp t w).badS.contains r then .next (s.streamPoison 1 3 0)
    else k
  | .seq t =>
    if !s.seqLive t then .fault .noIssuer
    else if !onSeq || fields.any fun r => decide (r.toNat ≥ 32) then .next s.illegal
    else if (s.team t).awaits (fields.map (·.toNat) ++ reads) then .next s
    else if reads.any fun r => (s.team t).seq.badT.contains r then .next (s.streamPoison 1 3 0)
    else k
  | .path t w b => if (s.warp t w).path b = none then .fault .noIssuer else .next s.illegal
  | .none => .fault .noIssuer

/-- A scalar-encoded instruction of a warp only (R48). -/
def warpOnly (fields : List Reg) (reads : List Nat) (s : State) (k : Out) : Out := scalar true false fields reads s k

/-- The lanes with eff(l) = 1 (R61). -/
def Warp.laneEff (W : Warp) (b : Bool) (f : LaneWord) : Half :=
  let pred : Half := if f.pm = 0 then ~~~0 else if f.pn then ~~~(W.m.get f.pm.toNat 0) else W.m.get f.pm.toNat 0
  ((W.path b).getD {}).m0 &&& pred &&& ~~~W.dead
def State.eff (s : State) (t w : Nat) (b : Bool) (f : LaneWord) : Half := (s.warp t w).laneEff b f

/-- A lane instruction (R48, R62): it runs on a path; a scalar stream that meets one has met a word that is none of its own. -/
def lane (s : State) (k : Nat → Nat → Bool → Out) : Out :=
  match s.cur with
  | .path t w b =>
    if !s.pathLive t w b then .fault .noIssuer else k t w b
  | .warp t w => if s.warpLive t w then .next s.illegal else .fault .noIssuer
  | .seq t => if s.seqLive t then .next s.illegal else .fault .noIssuer
  | .none => .fault .noIssuer

/-- The instruction issues again later (it waits): nothing changes (DEDUCED, log entry 11). -/
def stay (s : State) : Out := .next s

end Sys2Proof.Machine
end

