-- ==== Sys2Proof/WellFormed.lean ====
section
/-! DEFINITION. Which terms of the syntax are instructions: the encoding rules that bind an instruction whatever the state (R46,
R52, R57-R62, R82, R114, R141, R166, R200, R223, R227, R260, R327, R420). A broken rule has a name. -/

namespace Sys2Proof

/-- The name of a broken encoding rule. -/
inductive Flaw where
  /-- pm = 0 with pn = 1, or a predicate where none is allowed (R61, R141). -/
  | predicate
  /-- A type the instruction does not list (R57). -/
  | type
  /-- A pair register that is odd, or a group that is not aligned (R58, R60, R200). -/
  | pair
  /-- A shared selector with vb[7:5] or vc[7:5] nonzero (R58). -/
  | shared
  /-- A field or bit the instruction does not use is nonzero (R46, R59, R114). -/
  | unused
  /-- A reserved mode, operation, condition, kind or size (R46). -/
  | reserved
  /-- A reserved scope, or one the instruction does not take (R53, R200). -/
  | scope
  /-- An order the instruction does not take (R200, R227). -/
  | order
  /-- A reserved control-register index (R82). -/
  | index
  /-- A descriptor base that is not a multiple of 4 (R52, R357). -/
  | base
  /-- A matrix register field with bit 5 set (R46, R260). -/
  | reg32
  /-- A matrix operand outside its range (R260). -/
  | range
  /-- A packet field wider than its place in the header (R291, R337, R350). -/
  | packet
  deriving DecidableEq, Repr

namespace Lane

/-- How an instruction uses a register field (R58, R60). -/
inductive Use where
  /-- Not used: must be zero. -/
  | no
  /-- One register whatever the type. -/
  | one
  /-- A pair under a 64-bit type (R58). -/
  | typed
  /-- Always a pair: a global address (R60). -/
  | addr
  /-- The data register of a sized access: pair for .B64, four for .B128 (R200). -/
  | data
  /-- A group whose number is a multiple of the argument. -/
  | group (n : Nat)
  deriving DecidableEq, Repr

/-- The fields one lane form uses (R56, R59, R114). Masks name the bits that may be nonzero. -/
structure Form where
  tys : List Nat := [0]
  vd : Use := .no
  va : Use := .no
  vb : Use := .no
  vc : Use := .no
  /-- Greatest md value. -/
  md : Nat := 0
  sat : Bool := false
  na : Bool := false
  nb : Bool := false
  abs : Bool := false
  sub : Nat := 0
  imm : Nat := 0
  pm : Bool := true
  /-- Scopes a memory form takes; empty for other forms. -/
  scopes : List Nat := []
  /-- Orders a memory form takes (R54); empty for other forms. -/
  orders : List Nat := []
  deriving DecidableEq, Repr

/-- The 64-bit type codes (R57). -/
def wide (ty : BitVec 4) : Bool := ty == 2 || ty == 3 || ty == 5

/-- The integer type codes of four widths. -/
def ints : List Nat := [0, 1, 2, 3]
/-- The integer types with I16x2 (R117). -/
def addTys : List Nat := [0, 1, 2, 3, 8]
/-- The floating types (R124). -/
def floats : List Nat := [4, 5, 6, 7]
/-- All types (R57). -/
def allTys : List Nat := [0, 1, 2, 3, 4, 5, 6, 7, 8]
/-- The types of one 32-bit or 64-bit value (R123, R170). -/
def plain : List Nat := [0, 1, 4, 2, 3, 5]

/-- Whether register field `r` fits its use under `f` (R58, R60, R200). -/
def Use.ok (u : Use) (f : LaneWord) (r : BitVec 8) : Bool :=
  match u with
  | .no => r == 0
  | .one => true
  | .typed => !wide f.ty || r.toNat % 2 == 0
  | .addr => r.toNat % 2 == 0
  | .data => match f.sub.toNat % 8 with
    | 5 => r.toNat % 2 == 0
    | 6 => r.toNat % 4 == 0
    | _ => true
  | .group n => r.toNat % n == 0

/-- The name under which a field that does not fit its use is refused. -/
def Use.flaw : Use → Flaw
  | .no => .unused
  | _ => .pair

/-- A field in the b or c position, which may select a shared register (R58). -/
def srcFlaw (u : Use) (f : LaneWord) (sh : Bool) (r : BitVec 8) : Option Flaw :=
  if sh then
    if u = .no then some .unused
    else if r.toNat < 32 then none else some .shared
  else if u.ok f r then none else some u.flaw

/-- The bits of `x` outside `mask` are zero. -/
def within (x mask : Nat) : Bool := x &&& mask == x

/-- The order code of bits [41:40] (R54, R59). -/
def order (f : LaneWord) : Nat := 2 * f.nb.toNat + f.abs.toNat
/-- The scope code of md[47:45] (R59). -/
def scope (f : LaneWord) : Nat := f.md.toNat / 2

/-- The generic checks of a form (R57-R62, R114) (DEDUCED, log entry 19). -/
def Form.flaw (u : Form) (f : LaneWord) : Option Flaw :=
  if (f.pm == 0 && f.pn) || (!u.pm && (f.pm != 0 || f.pn)) then some .predicate
  else if !u.tys.contains f.ty.toNat then some .type
  else if !u.vd.ok f f.vd then some u.vd.flaw
  else if !u.va.ok f f.va then some u.va.flaw
  else if let some w := srcFlaw u.vb f f.bu f.vb then some w
  else if let some w := srcFlaw u.vc f f.cu f.vc then some w
  else if (f.sat && !u.sat) || (f.na && !u.na) then some .unused
  else if !within f.sub.toNat u.sub || !within f.imm.toNat u.imm then some .unused
  else if u.scopes.isEmpty then
    if (f.nb && !u.nb) || (f.abs && !u.abs) then some .unused
    else if f.md.toNat > u.md then some .reserved else none
  else if f.md.toNat % 2 == 1 then some .unused
  else if !u.scopes.contains (scope f) then some .scope
  else if !u.orders.contains (order f) then some .order
  else none

/-- The first flaw of two checks. -/
def both (a b : Option Flaw) : Option Flaw := match a with | some w => some w | none => b

/-- A named condition on a form beyond the generic checks. -/
def must (c : Bool) (w : Flaw) : Option Flaw := if c then none else some w

/-- Integer rows of R117 with one, two or three sources. -/
def int1 (tys : List Nat) (sat : Bool) : Form := { tys, vd := .typed, va := .typed, sat }
def int2 (tys : List Nat) (sat : Bool) : Form := { tys, vd := .typed, va := .typed, vb := .typed, sat }
def int3 (tys : List Nat) (sat : Bool) : Form := { tys, vd := .typed, va := .typed, vb := .typed, vc := .typed, sat }
/-- Floating rows of R124 with one or two sources; `rnd` where md selects the rounding. -/
def flt1 (tys : List Nat) (rnd : Bool) : Form :=
  { tys, vd := .typed, va := .typed, md := if rnd then 3 else 0, na := true, abs := true }
def flt2 (tys : List Nat) (rnd sat : Bool) : Form :=
  { tys, vd := .typed, va := .typed, vb := .typed, md := if rnd then 3 else 0, sat, na := true, nb := true, abs := true }

/-- Whether type code `t` is packed (R57). -/
def packed (t : Nat) : Bool := t == 6 || t == 7 || t == 8
/-- Whether type code `t` is a floating type. -/
def isFloat (t : Nat) : Bool := 4 ≤ t && t ≤ 7
/-- Whether type code `t` is a 64-bit type. -/
def wideN (t : Nat) : Bool := t == 2 || t == 3 || t == 5

/-- VCVT's own rules (R128): na and abs modify a floating operand a, as everywhere in the chapter (R116) (DEDUCED, log entry 19). -/
def cvtFlaw (f : LaneWord) : Option Flaw :=
  let src := f.sub.toNat % 16
  let dst := f.ty.toNat
  if src > 8 then some .reserved
  else if f.sat && (isFloat src || isFloat dst) then some .unused
  else if (f.na || f.abs) && !isFloat src then some .unused
  else if f.sub.toNat / 16 % 2 == 1 && packed src == packed dst then some .unused
  else if wideN src && f.va.toNat % 2 == 1 then some .pair
  else none

/-- VREDUCE and VSCAN operations (R166). -/
def redFlaw (f : LaneWord) : Option Flaw :=
  let op := f.imm.toNat
  if op > 5 then some .reserved
  else if op ≥ 3 && isFloat f.ty.toNat then some .type
  else none

/-- The types of an atomic operation (R227). -/
def atomFlaw (op ty : Nat) (top : Nat) : Option Flaw :=
  if op > top then some .reserved
  else if op == 8 || op == 9 || op == 10 then must (ty == 4) .type
  else must (ty ≤ 3) .type

/-- Orders and scopes of the memory forms (R200, R227). -/
def memScopes : List Nat := [0, 1, 2, 3, 4]
def acqOrders : List Nat := [0, 1]
def relOrders : List Nat := [0, 2]

/-- The space bit of a lane atomic restricts the scope and the address field (R227). -/
def atomSpace (f : LaneWord) : Option Flaw :=
  if f.sub.toNat / 32 == 1 then must (scope f ≤ 1) .scope else must (f.va.toNat % 2 == 0) .pair

/-- Access size below 7 (R60). -/
def sizeFlaw (f : LaneWord) : Option Flaw := must (f.sub.toNat % 8 != 7) .reserved

/-- VQNT's register groups must not overlap (R130). -/
def overlap (f : LaneWord) : Bool := f.vd.toNat ≤ f.va.toNat + 3 && f.va.toNat ≤ f.vd.toNat + 1


end Lane

open Lane

/-- Registers of the matrix stream have bit 5 zero (R46, R260). -/
def low (r : Reg) : Bool := r.toNat < 32

/-- The control-register indices of R81 (R82). -/
def crIndex (i : Nat) : Bool :=
  i ≤ 0xB || i == 0x10 || i == 0x11 || (0x20 ≤ i && i ≤ 0x24) || (0x40 ≤ i && i ≤ 0x5F && i % 4 != 3)

/-- K of a product (R260). -/
def kRange (sparse bi4 : Bool) (k : Nat) : Bool :=
  1 ≤ k && (!bi4 || k % 2 == 0) && k ≤ (if sparse then 128 else if bi4 then 192 else 96)

/-- A Twill packet's fields fit the header of R337. -/
def TwillPacket.fits (p : TwillPacket) : Bool :=
  p.dpkg < 4096 && p.dsock < 32 && p.vc < 8 && p.path < 4 && p.crypt < 4 && p.spkg < 4096 && p.ssock < 32 && p.part < 65536 &&
  p.exp < 65536 && p.egen < 65536 && p.offset < 2 ^ 32 && p.len ≤ 256 && p.tag < 65536 && p.seq < 65536 && p.ordseq < 65536 &&
  p.atom < 32 && p.ncause < 256 && p.data.length ≤ 256

/-- A Gauze message's fields fit the flit of R291. -/
def GauzeMsg.fits (m : GauzeMsg) : Bool :=
  m.cls < 4 && m.kind < 4 && m.home < 4096 && m.entry < 32768 && m.scope < 8 && m.serial < 2 ^ 32 && m.count < 2 ^ 24 && m.port < 72

/-- A Calico packet's fields fit the header of R350. -/
def CalicoPacket.fits (p : CalicoPacket) : Bool :=
  p.ncause < 256 && p.part < 65536 && p.key < 65536 && p.kgen < 65536 && p.opid < 2 ^ 32 && p.src < 65536 && p.mlen < 2 ^ 32 &&
  p.poff < 2 ^ 32 && p.roff < 2 ^ 32 && p.atom < 32 && p.dsock < 4 && p.payload.length ≤ 4096

/-- The checks of a copy of kinds 0 to 5 (R241). -/
def cpyFlaw (a b : Reg) (phs : Bool) : Option Flaw :=
  both (must (a.toNat % 4 == 0) .base) (must (phs || b == 0) .unused)

/-- The checks of MMA and MMAS at issue that read no state (R260); a slot above 3 is not granted (R255). -/
def mmaFlaw (sparse : Bool) (a b : Reg) (slot : BitVec 5) (bi4 : Bool) (k : BitVec 8) : Option Flaw :=
  both (must (low a && low b) .reg32) (both (must (slot.toNat < 4) .range) (must (kRange sparse bi4 k.toNat) .range))

/-- MDRAIN's format, rounding and L code (R260, R274). -/
def drainFlaw (rnd lc : BitVec 2) (a b : Reg) (fmt : BitVec 3) : Option Flaw :=
  both (must (low a && low b) .reg32) <| both (must (fmt.toNat ≤ 5) .reserved) <|
  both (must (fmt == 1 || fmt == 2 || rnd == 0) .unused) <|
  both (must (if fmt == 3 || fmt == 4 then lc.toNat ≤ 2 else lc == 0) .unused) (must (fmt != 5 || b == 0) .unused)

/-- The first broken encoding rule of an instruction, or none. Checks that need the issuing stream or its team (R48, R49, a tile
at or above ACCT) belong to the machine. -/
def Instr.flaw : Instr → Option Flaw
  | .cpy _ a b p _ | .cpy2 _ a b p _ | .cpyw _ a b p _ | .cpyx _ a b p _ | .cpyfill _ a b p _ => cpyFlaw a b p
  | .cpyr _ a b p _ _ => cpyFlaw a b p
  | .nput _ a _ | .nget _ a _ | .natom _ a _ | .nsend _ a _ => must (a.toNat % 4 == 0) .base
  | .nkey _ a => must (a.toNat % 4 == 0) .base
  | .fence o _ _ opr => must (!(opr && o == .rel)) .order
  | .sget _ i => must (crIndex i.toNat) .index
  | .sput _ i => must (crIndex i.toNat) .index
  | .macc _ a b save _ => both (must (low a && low b) .reg32) (must (!save || b == 0) .unused)
  | .mdrain _ _ rnd lc a b fmt _ => drainFlaw rnd lc a b fmt
  | .mchk d _ => must (low d) .reg32
  | .mloc d _ => must (low d) .reg32
  | .mfix a _ => must (low a) .reg32
  | .mma _ a b slot bi4 _ k _ _ => mmaFlaw false a b slot bi4 k
  | .mmas _ a b slot bi4 _ k _ _ => mmaFlaw true a b slot bi4 k
  | .vadd f | .vsub f | .vmul f => (int2 addTys true).flaw f
  | .vmulh f => (int2 ints false).flaw f
  | .vmad f => (int3 addTys true).flaw f
  | .vaddc f => { int2 [1] false with sub := 63 }.flaw f
  | .vand f | .vor f | .vxor f => (int2 addTys false).flaw f
  | .vshl f => (int2 addTys true).flaw f
  | .vshr f | .vsar f => (int2 addTys false).flaw f
  | .vmin f | .vmax f => (int2 addTys false).flaw f
  | .vabs f => (int1 [0, 2, 8] true).flaw f
  | .vclz f | .vpopc f => (int1 ints false).flaw f
  | .vbfx f => (int2 ints false).flaw f
  | .vbfi f => (int3 ints false).flaw f
  | .vicmp f => { tys := ints, va := .typed, vb := .typed, md := 5, sub := 7 : Form }.flaw f
  | .vsel f => both ({ int2 allTys false with sub := 7 }.flaw f) (must (f.sub != 0) .reserved)
  | .vmov f =>
      if f.sub == 1 then { tys := allTys, vd := .typed, sub := 1, imm := 0xFFFFFFFF : Form }.flaw f
      else { tys := allTys, vd := .typed, vb := .typed : Form }.flaw f
  | .vdiv f | .vrem f => (int2 ints false).flaw f
  | .vsad f => (int3 [1] true).flaw f
  | .vdot4 f => (int3 [0, 1] true).flaw f
  | .vsreg f => { tys := plain, va := .typed, sub := 31 : Form }.flaw f
  | .vfadd f | .vfsub f | .vfmul f | .vfdiv f => (flt2 floats true true).flaw f
  | .vfma f => { flt2 floats true true with vc := .typed }.flaw f
  | .vfmin f | .vfmax f => (flt2 floats false false).flaw f
  | .vfcmp f => { tys := [4, 5], va := .typed, vb := .typed, md := 7, sub := 7, na := true, nb := true, abs := true : Form }.flaw f
  | .vfclass f => (flt1 floats false).flaw f
  | .vfrcp f | .vfrsq f | .vfexp2 f | .vflog2 f | .vfsin f | .vfcos f => (flt1 [4] false).flaw f
  | .vfsqrt f | .vfrnd f => (flt1 floats true).flaw f
  | .vfldexp f => { flt1 floats true with vb := .typed }.flaw f
  | .vfgetexp f => (flt1 floats false).flaw f
  | .vcvt f => both ({ tys := allTys, vd := .typed, va := .one, md := 3, sat := true, na := true, abs := true, sub := 31 : Form }.flaw f) (cvtFlaw f)
  | .vqnt f => both ({ tys := [4], vd := .group 2, va := .group 4, md := 15, sub := 1 : Form }.flaw f)
      (both (must (f.md.toNat % 4 == 0) .unused) (must (!overlap f) .pair))
  | .vdqnt f => { tys := [4], vd := .group 4, va := .one, vb := .one, sub := 1 : Form }.flaw f
  | .vshfl f => { tys := allTys, vd := .typed, va := .typed, vb := .one, vc := .typed, sub := 3 : Form }.flaw f
  | .vbcast f =>
      if f.sub == 1 then { tys := allTys, vd := .typed, va := .typed, sub := 1 : Form }.flaw f
      else both ({ tys := allTys, vd := .typed, va := .typed, vc := .typed, imm := 31 : Form }.flaw f)
        -- R166 shows no shared c for VBCAST, as it does for VSHFL and MPUT (DEDUCED, log entry 19)
        (must (!f.cu) .unused)
  | .vvote f => { tys := [0, 2], va := .typed, sub := 31, imm := 3 : Form }.flaw f
  | .vreduce f => both ({ tys := [0, 1, 2, 3, 4, 5], va := .typed, sub := 31, imm := 7 : Form }.flaw f) (redFlaw f)
  | .vscan f => both ({ tys := [0, 1, 2, 3, 4, 5], vd := .typed, va := .typed, sub := 1, imm := 7 : Form }.flaw f) (redFlaw f)
  | .vmatch f => { tys := plain, vd := .one, va := .typed : Form }.flaw f
  | .mlog f => both ({ va := .one, vb := .one, sub := 7, imm := 7 : Form }.flaw f)
      (both (must (f.va.toNat < 8 && f.vb.toNat < 8 && !f.bu) .unused)
        (both (must (f.imm.toNat ≤ 5) .reserved) (must (f.imm.toNat < 4 || f.vb == 0) .unused)))
  | .mpopc f | .mfirst f | .mget f => both ({ va := .one, sub := 31 : Form }.flaw f) (must (f.va.toNat < 8) .unused)
  | .mset f => { sub := 7, imm := 0xFFFFFFFF : Form }.flaw f
  | .mput f => { vb := .one, sub := 7 : Form }.flaw f
  | .lbr f => both ({ sub := 15, imm := 0xFFFFFFFF : Form }.flaw f) (must (f.sub.toNat % 8 != 0) .reserved)
  | .ljmp f | .lpad f | .lcall f => { imm := 0xFFFF, pm := false : Form }.flaw f
  | .ljmpi f | .lcalli f => { va := .one, imm := 0xFFFFFFFF : Form }.flaw f
  | .lret f | .lend f => { pm := false : Form }.flaw f
  | .ljoin f => { sub := 7, imm := 0xFFFFFFFF, pm := false : Form }.flaw f
  | .lexit f | .lnop f => ({} : Form).flaw f
  | .lbar f => { sub := 1, imm := 15, pm := false : Form }.flaw f
  | .lfrag f => { vd := .one, sub := 3 : Form }.flaw f
  | .vld f => both ({ vd := .data, va := .addr, sub := 15, imm := 0xFFFFFFFF, scopes := memScopes, orders := acqOrders : Form }.flaw f) (sizeFlaw f)
  | .vst f => both ({ vd := .data, va := .addr, sub := 15, imm := 0xFFFFFFFF, scopes := memScopes, orders := relOrders : Form }.flaw f) (sizeFlaw f)
  | .vldp f => both ({ vd := .data, va := .one, sub := 7, imm := 0xFFFFFFFF, scopes := [0, 1], orders := acqOrders : Form }.flaw f) (sizeFlaw f)
  | .vstp f => both ({ vd := .data, va := .one, sub := 7, imm := 0xFFFFFFFF, scopes := [0, 1], orders := relOrders : Form }.flaw f) (sizeFlaw f)
  | .vldf f => both ({ vd := .group 8, va := .addr, sub := 7, imm := 0xFFFFFFFF, scopes := memScopes, orders := acqOrders : Form }.flaw f)
      (must (f.sub == 1 || f.sub == 3 || f.sub == 4) .reserved)
  | .vpref f => { va := .addr, sub := 1, imm := 0xFFFFFFFF : Form }.flaw f
  | .vatom f => both ({ tys := [0, 1, 2, 3, 4], vd := .typed, va := .one, vb := .typed, sub := 47, imm := 0xFFFFFFFF, scopes := memScopes, orders := [0, 1, 2, 3] : Form }.flaw f)
      (both (atomFlaw (f.sub.toNat % 16) f.ty.toNat 10) (atomSpace f))
  | .vred f => both ({ tys := [0, 1, 2, 3, 4], va := .one, vb := .typed, sub := 47, imm := 0xFFFFFFFF, scopes := memScopes, orders := relOrders : Form }.flaw f)
      (both (must (f.sub.toNat % 16 != 7) .reserved) (both (atomFlaw (f.sub.toNat % 16) f.ty.toNat 10) (atomSpace f)))
  | .vcas f => both ({ tys := ints, vd := .typed, va := .one, vb := .typed, vc := .typed, sub := 32, imm := 0xFFFFFFFF, scopes := memScopes, orders := [0, 1, 2, 3] : Form }.flaw f) (atomSpace f)
  | .vldr f => both ({ vd := .data, va := .one, vb := .one, sub := 7, imm := 0xFFFFFFFF, scopes := [3, 4], orders := acqOrders : Form }.flaw f) (sizeFlaw f)
  | .vstr f => both ({ vd := .data, va := .one, vb := .one, sub := 7, imm := 0xFFFFFFFF, scopes := [3, 4], orders := relOrders : Form }.flaw f) (sizeFlaw f)
  | .vatomr f => both ({ tys := [0, 1, 2, 3, 4], vd := .typed, va := .one, vb := .one, vc := .typed, sub := 15, imm := 0xFFFFFFFF, scopes := [3, 4], orders := [0, 1, 2, 3] : Form }.flaw f) (atomFlaw (f.sub.toNat % 16) f.ty.toNat 11)
  | .vfence f => { sub := 7, scopes := memScopes, orders := [0] : Form }.flaw f
  | .ltrap f => { imm := 0xFFFF : Form }.flaw f
  | .lkill f => ({} : Form).flaw f
  | .lresume f => both ({ va := (if f.sub == 2 then .one else .no), sub := 3 : Form }.flaw f) (must (f.sub != 3) .reserved)
  | .lorigin f => both ({ vd := .one, sub := 7 : Form }.flaw f) (must (f.sub.toNat ≤ 4) .reserved)
  | .voget f => { tys := [0, 2], vd := .typed, va := .typed : Form }.flaw f
  | .voput f => { tys := [0, 2], vd := .typed, vb := .typed : Form }.flaw f
  | .twillRead p | .twillWrite p | .twillAtomic p | .twillData p | .twillAck p | .twillNak p => must p.fits .packet
  | .gauzeSignal _ m | .gauzeComplete _ m | .gauzeJoin _ m | .gauzeLeave _ m | .gauzeCreate _ m | .gauzeCreateReply _ m
  | .gauzeFree _ m | .gauzeLate _ m | .gauzeBroken _ m | .gauzeCredit _ m | .gauzeJoinReply _ m => must m.fits .packet
  | .calicoWrite _ p | .calicoRead _ p | .calicoData _ p | .calicoAtomic _ p | .calicoAtomresp _ p | .calicoAck _ p
  | .calicoNak _ p => must p.fits .packet
  | _ => none

/-- A well-formed instruction breaks no encoding rule. -/
def Instr.wf (i : Instr) : Bool := i.flaw.isNone

end Sys2Proof
end

