-- ==== Sys2Proof/Machine/Operands.lean ====
section
/-! DEFINITION. Operand forms: scalar addresses, lane operands and pairs, shared registers, lane addresses, and the frames in which
lane instructions write registers, masks and shared registers. -/

namespace Sys2Proof.Machine

/-! ### Scalar operands -/

/-- sext(imm14, 14) added to a register, modulo 2^64. -/
def State.baseImm (s : State) (a : Reg) (imm : BitVec 14) : Word := s.reg a + imm.signExtend 64

/-- The address of a scalar load or store (R198). -/
def State.memAddr (s : State) (a : Reg) (imm : BitVec 12) : Nat := (s.reg a + imm.signExtend 64).toNat

/-- D0 to D3 of a descriptor base (R241, R357). -/
def State.desc (s : State) (a : Reg) : List Word := [s.sreg a.toNat, s.sreg (a.toNat + 1), s.sreg (a.toNat + 2), s.sreg (a.toNat + 3)]

/-- The registers of a descriptor base. -/
def descRegs (a : Reg) : List Nat := [a.toNat, a.toNat + 1, a.toNat + 2, a.toNat + 3]

/-! ### Lane registers (R31, R66) -/

/-- Lane `l`'s word of register `r`. -/
def Warp.vw (W : Warp) (r l : Nat) : Half := W.v.get (32 * r + l) 0

/-- Write lane `l`'s word of register `r`; an uncorrectable error is replaced (R108). -/
def Warp.setV (W : Warp) (r l : Nat) (x : Half) : Warp :=
  { W with v := W.v.put 0 (32 * r + l) x, badV := W.badV.filter (· != 32 * r + l) }

/-- The value of a register, or of a pair. -/
def Warp.vval (W : Warp) (wide : Bool) (r l : Nat) : Nat :=
  if wide then (W.vw r l).toNat + 2 ^ 32 * (W.vw (r + 1) l).toNat else (W.vw r l).toNat

/-- A shared register of the running block's snapshot (R94). -/
def Warp.snap (W : Warp) (r : Nat) : Word := match W.queue with | b :: _ => b.snap.get r 0 | [] => 0

/-- Write a shared register of the running block and set its bit in the written mask (R94). -/
def Warp.setSnap (W : Warp) (r : Nat) (x : Word) : Warp :=
  { W with queue := match W.queue with
      | b :: q => { b with snap := b.snap.put 0 r x, written := b.written ||| BitVec.ofNat 32 (2 ^ (r - 32)) } :: q
      | [] => [] }

/-- opa(l) (R66). -/
def Warp.opa (W : Warp) (f : LaneWord) (wide : Bool) (l : Nat) : Nat := W.vval wide f.va.toNat l

/-- A shared operand: 64 bits under a 64-bit type, else its low 32 bits (R58). -/
def Warp.shared (W : Warp) (wide : Bool) (r : BitVec 8) : Nat :=
  if wide then (W.snap (32 + r.toNat % 32)).toNat else (W.snap (32 + r.toNat % 32)).toNat % 2 ^ 32

/-- opb(l) (R66). -/
def Warp.opb (W : Warp) (f : LaneWord) (wide : Bool) (l : Nat) : Nat :=
  if f.bu then W.shared wide f.vb else W.vval wide f.vb.toNat l

/-- opc(l) (R66). -/
def Warp.opc (W : Warp) (f : LaneWord) (wide : Bool) (l : Nat) : Nat :=
  if f.cu then W.shared wide f.vc else W.vval wide f.vc.toNat l

/-- The registers of an operand field: one, or a pair. -/
def regs1 (wide : Bool) (r : BitVec 8) : List Nat := if wide then [r.toNat, r.toNat + 1] else [r.toNat]

/-- The registers read through the b field, and through the c field: none when it names a shared register. -/
def regsB (f : LaneWord) (wide : Bool) : List Nat := if f.bu then [] else regs1 wide f.vb
def regsC (f : LaneWord) (wide : Bool) : List Nat := if f.cu then [] else regs1 wide f.vc

/-- The writes that put a value into a register, or into a pair with the low word first (R57). -/
def out1 (wide : Bool) (r : BitVec 8) (x : Nat) : List (Nat × Half) :=
  if wide then [(r.toNat, BitVec.ofNat 32 x), (r.toNat + 1, BitVec.ofNat 32 (x / 2 ^ 32))] else [(r.toNat, BitVec.ofNat 32 x)]

/-- Register writes of one lane. -/
def Warp.setVs (W : Warp) (l : Nat) (ws : List (Nat × Half)) : Warp := ws.foldl (fun W (r, x) => W.setV r l x) W

/-- Lanes of `e` that read an uncorrectable word among these registers (R108). -/
def Warp.badLanes (W : Warp) (e : Half) (rs : List Nat) : Half :=
  if W.badV.isEmpty then 0 else maskOf ((lanesOf e).filter fun l => rs.any fun r => W.badV.contains (32 * r + l))

/-- Mask bit of a lane: m0 is the path's, m1 to m7 the warp's. -/
def Warp.mbit (W : Warp) (b : Bool) (k l : Nat) : Bool :=
  if k = 0 then (((W.path b).getD {}).m0).getLsbD l else (W.m.get k 0).getLsbD l

/-- Write mask k for the lanes `ls` (R154): m0 is only cleared. -/
def Warp.writeMask (W : Warp) (b : Bool) (k : Nat) (ls val : Half) : Warp :=
  if k = 0 then W.setPath b ((W.path b).map fun p => { p with m0 := p.m0 &&& (~~~ls ||| val) }) else W.setMask k ls val

/-! ### Frames of lane instructions -/

/-- Lanes that die of an uncorrectable register (R108) die, and the path goes on. -/
def State.laneEnd (s : State) (t w : Nat) (b : Bool) (bad : Half) : State :=
  if bad = 0 then s.nextIdx t w b else ((s.laneDeath t w bad 1).nextIdx t w b).settle t

/-- A lane instruction that writes registers lane by lane: `g` gives lane l's writes from the warp as it stood (R66, R113). -/
def laneWrites (f : LaneWord) (reads : List Nat) (g : Warp → Nat → List (Nat × Half)) (s : State) : Out :=
  lane s fun t w b =>
    let W := s.warp t w
    let e := s.eff t w b f
    let bad := W.badLanes e reads
    .next ((s.modWarp t w fun V => (lanesOf (e &&& ~~~bad)).foldl (fun V l => V.setVs l (g W l)) V).laneEnd t w b bad)

/-- A lane instruction that writes mask k by a condition (R120, R154). -/
def laneMask (f : LaneWord) (reads : List Nat) (k : Nat) (g : Warp → Bool → Nat → Bool) (s : State) : Out :=
  lane s fun t w b =>
    let W := s.warp t w
    let e := s.eff t w b f
    let bad := W.badLanes e reads
    let ls := e &&& ~~~bad
    .next ((s.modWarp t w fun V => V.writeMask b k ls (maskOf ((lanesOf ls).filter (g W b)))).laneEnd t w b bad)

/-- A lane instruction that writes one shared register from the lanes with effect (R94); `g` gives none where nothing is written. A lane
that dies of an uncorrectable word counts as one without effect (DESIGN CHOICE, log entry 37). -/
def laneShared (f : LaneWord) (reads : List Nat) (r : Nat) (g : Warp → Bool → List Nat → Option Word) (s : State) : Out :=
  lane s fun t w b =>
    let W := s.warp t w
    let e := s.eff t w b f
    let bad := W.badLanes e reads
    match g W b (lanesOf (e &&& ~~~bad)) with
    | some x => .next ((s.modWarp t w fun V => V.setSnap r x).laneEnd t w b bad)
    | none => .next (s.laneEnd t w b bad)

/-! ### Lane addresses (R60, R201) -/

/-- A global address: the pair va:va+1 plus sext(imm32, 32), modulo 2^64. -/
def Warp.gaddr (W : Warp) (f : LaneWord) (l : Nat) : Nat :=
  (BitVec.ofNat 64 (W.vval true f.va.toNat l) + f.imm.signExtend 64).toNat

/-- A scratchpad address: va plus zext(imm32, 32), modulo 2^32. -/
def Warp.saddr (W : Warp) (f : LaneWord) (l : Nat) : Nat := (W.vw f.va.toNat l + f.imm).toNat

/-- Bytes of a size code (R60). -/
def sizeOf' (k : Nat) : Nat := if k ≤ 1 then 1 else if k ≤ 3 then 2 else if k = 4 then 4 else if k = 5 then 8 else 16

/-- The register words that a load of a size code writes (R201). -/
def loadRegs (k vd d : Nat) : List (Nat × Half) :=
  match k with
  | 0 => [(vd, BitVec.ofInt 32 (sext d 8))]
  | 2 => [(vd, BitVec.ofInt 32 (sext d 16))]
  | 5 => [(vd, BitVec.ofNat 32 d), (vd + 1, BitVec.ofNat 32 (d / 2 ^ 32))]
  | 6 => [(vd, BitVec.ofNat 32 d), (vd + 1, BitVec.ofNat 32 (d / 2 ^ 32)), (vd + 2, BitVec.ofNat 32 (d / 2 ^ 64)), (vd + 3, BitVec.ofNat 32 (d / 2 ^ 96))]
  | _ => [(vd, BitVec.ofNat 32 d)]

/-- The data of a store of `n` bytes: v[vd], or v[vd+j] as word j (R201). -/
def Warp.storeBytes (W : Warp) (vd n l : Nat) : List Byte :=
  if n ≤ 4 then bytesLE n (W.vw vd l).toNat
  else ((List.range (n / 4)).map fun j => bytesLE 4 (W.vw (vd + j) l).toNat).flatten

/-- Registers of a sized data operand. -/
def dataRegs (k vd : Nat) : List Nat := (List.range ((sizeOf' k + 3) / 4)).map (vd + ·)

end Sys2Proof.Machine
end

