-- ==== Sys2Proof/Machine/Flags.lean ====
section
/-! DEFINITION. Conditions, and the fitting of integer results: branch conditions, compare conditions, carries, saturation. -/

namespace Sys2Proof.Machine

/-- cond(cc, a, b) of R47. -/
def condHolds (cc : Cond) (x y : Word) : Bool :=
  match cc with
  | .eq => x == y
  | .ne => x != y
  | .lt => x.slt y
  | .ge => !x.slt y
  | .ltu => x.ult y
  | .geu => !x.ult y

/-- Compare conditions of VICMP (R120) on exact integers. -/
def icond (k : Nat) (a b : Int) : Bool :=
  match k with
  | 0 => a == b
  | 1 => a != b
  | 2 => decide (a < b)
  | 3 => decide (a ≤ b)
  | 4 => decide (a > b)
  | _ => decide (a ≥ b)

/-- An integer type is signed: I32, I64, I16x2 (R111). -/
def signedTy (ty : BitVec 4) : Bool := ty == 0 || ty == 2 || ty == 8

/-- Element width of an integer type (R111). -/
def widthTy (ty : BitVec 4) : Nat := if ty == 2 || ty == 3 then 64 else if ty == 8 then 16 else 32

/-- The integer that an element's bits stand for under its type (R111). -/
def readTy (ty : BitVec 4) (x : Nat) : Int := if signedTy ty then sext x (widthTy ty) else (zext x (widthTy ty) : Int)

/-- fit() of R115: the stored bits of an exact result. -/
def fit (ty : BitVec 4) (sat : Bool) (x : Int) : Nat :=
  let w := widthTy ty
  let lo : Int := if signedTy ty then -(2 ^ (w - 1) : Int) else 0
  let hi : Int := if signedTy ty then (2 ^ (w - 1) : Int) - 1 else (2 ^ w : Int) - 1
  wrap (if sat then max lo (min x hi) else x) w

/-- Carry of VADDC (R118): the sum with a carry-in; the carry-out is its bit 32. -/
def sumC (a b : Nat) (cin : Bool) : Nat := a + b + cin.toNat

/-- beyond(x, y) of R307: x − y modulo 2^32 in 1 .. 2^31 − 1; false when y is none. -/
def beyond (x : Half) : Option Half → Bool
  | none => false
  | some y => x != y && decide ((x - y).toNat < 2 ^ 31)

/-- (x − y) mod 2^32 < 2^31 (R299, R309). -/
def reached (x y : Half) : Bool := decide ((x - y).toNat < 2 ^ 31)

end Sys2Proof.Machine
end

