-- ==== Sys2Proof/Machine/Float.lean ====
section
/-! DEFINITION. Floating-point values as exact dyadic numbers, the rounding of R65, and the functions of R124 to R131 on them. -/

namespace Sys2Proof.Machine

/-- A format (R109): fraction bits and exponent bits. -/
structure Fmt where
  p : Nat
  x : Nat
  deriving DecidableEq, Repr

def f64 : Fmt := ⟨52, 11⟩
def f32 : Fmt := ⟨23, 8⟩
def f16 : Fmt := ⟨10, 5⟩
def bf16 : Fmt := ⟨7, 8⟩

/-- Width in bits. -/
def Fmt.width (f : Fmt) : Nat := f.p + f.x + 1
/-- Bits of +∞. -/
def Fmt.inf (f : Fmt) : Nat := (2 ^ f.x - 1) * 2 ^ f.p
/-- canon_nan (R65). -/
def Fmt.nan (f : Fmt) : Nat := f.inf + 2 ^ (f.p - 1)
/-- Exponent of the least subnormal. -/
def Fmt.low (f : Fmt) : Int := 2 - 2 ^ (f.x - 1) - f.p
/-- The sign bit. -/
def Fmt.sign (f : Fmt) : Nat := 2 ^ (f.p + f.x)

/-- The format of a floating type code (R57). -/
def fmtOf (ty : Nat) : Fmt := if ty = 5 then f64 else if ty = 6 then f16 else if ty = 7 then bf16 else f32

/-- A value: NaN, a signed infinity, or (−1)^neg · m · 2^e exactly; zeros keep their sign. -/
inductive FV where
  | nan
  | inf (neg : Bool)
  | fin (neg : Bool) (m : Nat) (e : Int)
  deriving DecidableEq, Repr

/-- The value of a bit pattern (R109, R110). -/
def Fmt.dec (f : Fmt) (b : Nat) : FV :=
  let neg := bitOf b (f.p + f.x)
  let ex := b / 2 ^ f.p % 2 ^ f.x
  let fr := b % 2 ^ f.p
  if ex = 2 ^ f.x - 1 then (if fr = 0 then .inf neg else .nan)
  else if ex = 0 then .fin neg fr f.low
  else .fin neg (2 ^ f.p + fr) (f.low + (ex - 1 : Nat))

/-- Rounding directions (R59): 0 RNE, 1 RTZ, 2 RUP, 3 RDN. Whether a magnitude with integer part `n` goes up: `r` compares what was
cut off with one half (lt, eq or gt), `ex` says that nothing was cut off. -/
def roundsUp (mode : Nat) (neg : Bool) (n : Nat) (r : Ordering) (ex : Bool) : Bool :=
  match mode with
  | 0 => r == .gt || (r == .eq && n % 2 == 1)
  | 1 => false
  | 2 => !ex && !neg
  | _ => !ex && neg

/-- m · 2^e (plus a little when `sticky`) as a multiple n of 2^q, rounded. -/
def roundAt (mode : Nat) (neg : Bool) (m : Nat) (e q : Int) (sticky : Bool) : Nat :=
  if q ≤ e then m * 2 ^ (e - q).toNat + (if roundsUp mode neg 0 .lt (!sticky) then 1 else 0)
  else
    let k := (q - e).toNat
    if k > m.log2 + 2 then (if roundsUp mode neg 0 .lt (m == 0 && !sticky) then 1 else 0)
    else
      let n := m / 2 ^ k
      let r := m % 2 ^ k
      let half := 2 ^ (k - 1)
      let o : Ordering := if r < half then .lt else if r > half then .gt else if sticky then .gt else .eq
      n + (if roundsUp mode neg n o (r == 0 && !sticky) then 1 else 0)

/-- round_mode of a nonzero or zero magnitude (R65): the bits of format f, with at most `prec` significant bits (prec = p + 1 for the
format itself). -/
def Fmt.roundTo (f : Fmt) (prec mode : Nat) (neg : Bool) (m : Nat) (e : Int) (sticky : Bool) : Nat :=
  let sg := if neg then f.sign else 0
  if m = 0 ∧ !sticky then sg
  else
    let q := max (e + (m.log2 : Int) + 1 - prec) f.low
    let n := roundAt mode neg m e q sticky
    -- as a multiple of the format's own unit
    let q' := max (q + (n.log2 : Int) - f.p) f.low
    let b := (q' - f.low).toNat * 2 ^ f.p + (if q' ≤ q then n * 2 ^ (q - q').toNat else n / 2 ^ (q' - q).toNat)
    if n = 0 then sg
    else if b < f.inf then sg + b
    else if mode = 0 ∨ (mode = 2 ∧ !neg) ∨ (mode = 3 ∧ neg) then sg + f.inf else sg + f.inf - 1

/-- round_mode(x, f, mode) of an exact value (R65). -/
def Fmt.enc (f : Fmt) (mode : Nat) : FV → Nat
  | .nan => f.nan
  | .inf n => (if n then f.sign else 0) + f.inf
  | .fin n m e => f.roundTo (f.p + 1) mode n m e false

/-! ### Exact operations -/

def FV.neg : FV → FV
  | .nan => .nan
  | .inf n => .inf (!n)
  | .fin n m e => .fin (!n) m e

def FV.abs : FV → FV
  | .nan => .nan
  | .inf _ => .inf false
  | .fin _ m e => .fin false m e

/-- The signed integer over 2^e' of a finite value, for e' ≤ e. -/
def scaled (n : Bool) (m : Nat) (e e' : Int) : Int := (if n then -1 else 1) * ((m * 2 ^ (e - e').toNat : Nat) : Int)

/-- Exact sum; an exact zero of opposite signs is +0, or −0 under RDN (R65). -/
def FV.add (mode : Nat) : FV → FV → FV
  | .nan, _ => .nan
  | _, .nan => .nan
  | .inf a, .inf b => if a = b then .inf a else .nan
  | .inf a, _ => .inf a
  | _, .inf b => .inf b
  | .fin n m e, .fin n' m' e' =>
    let e0 := min e e'
    let x := scaled n m e e0 + scaled n' m' e' e0
    if x = 0 then .fin (if n = n' then n else mode == 3) 0 e0 else .fin (decide (x < 0)) x.natAbs e0

/-- Exact product. -/
def FV.mul : FV → FV → FV
  | .nan, _ => .nan
  | _, .nan => .nan
  | .inf a, .inf b => .inf (a != b)
  | .inf a, .fin n m _ => if m = 0 then .nan else .inf (a != n)
  | .fin n m _, .inf b => if m = 0 then .nan else .inf (n != b)
  | .fin n m e, .fin n' m' e' => .fin (n != n') (m * m') (e + e')

/-- The least real compare: none when unordered; −0 equals +0 (R125). -/
def FV.cmp : FV → FV → Option Ordering
  | .nan, _ => none
  | _, .nan => none
  | .inf a, .inf b => some (if a = b then .eq else if a then .lt else .gt)
  | .inf a, _ => some (if a then .lt else .gt)
  | _, .inf b => some (if b then .gt else .lt)
  | .fin n m e, .fin n' m' e' =>
    let e0 := min e e'
    some (compare (scaled n m e e0) (scaled n' m' e' e0))

/-- The sign of a value. -/
def FV.isNeg : FV → Bool
  | .nan => false
  | .inf n => n
  | .fin n _ _ => n

/-- minimumNumber, and maximumNumber for `big`; −0 below +0 (R124). -/
def FV.pick (big : Bool) (a b : FV) : FV :=
  match a, b with
  | .nan, y => y
  | x, .nan => x
  | x, y => match x.cmp y with
    | some .lt => if big then y else x
    | some .gt => if big then x else y
    | _ => if big then (if x.isNeg then y else x) else (if x.isNeg then x else y)

/-- Integer square root by bits: the greatest r with r² ≤ x, looking at `k` bits from the top. -/
def isqrt (x : Nat) : Nat → Nat → Nat
  | 0, r => r
  | k + 1, r => let c := r + 2 ^ k; isqrt x k (if c * c ≤ x then c else r)

/-- The integer nearest under a mode to a finite magnitude. -/
def roundInt (mode : Nat) (n : Bool) (m : Nat) (e : Int) : Nat := roundAt mode n m e 0 false

/-! ### Rounded functions -/

/-- division (R124). -/
def Fmt.div (f : Fmt) (mode : Nat) (a b : FV) : Nat :=
  match a, b with
  | .nan, _ => f.nan
  | _, .nan => f.nan
  | .inf _, .inf _ => f.nan
  | .inf x, .fin n _ _ => f.enc mode (.inf (x != n))
  | .fin n _ _, .inf y => f.enc mode (.fin (n != y) 0 0)
  | .fin n m e, .fin n' m' e' =>
    if m' = 0 then (if m = 0 then f.nan else f.enc mode (.inf (n != n')))
    else if m = 0 then f.enc mode (.fin (n != n') 0 0)
    else f.roundTo (f.p + 1) mode (n != n') (m * 2 ^ 128 / m') (e - e' - 128) (m * 2 ^ 128 % m' != 0)

/-- √ of a positive finite value to many bits: root, exponent, whether it is inexact. -/
def rootOf (m : Nat) (e : Int) : Nat × Int × Bool :=
  let e2 := if e % 2 = 0 then e - 140 else e - 141
  let x := m * 2 ^ (e - e2).toNat
  let r := isqrt x (x.log2 / 2 + 1) 0
  (r, e2 / 2, r * r != x)

/-- squareRoot; √(−0) = −0 (R124). -/
def Fmt.sqrt (f : Fmt) (mode : Nat) : FV → Nat
  | .nan => f.nan
  | .inf n => if n then f.nan else f.inf
  | .fin n m e =>
    if m = 0 then (if n then f.sign else 0)
    else if n then f.nan
    else let (r, e', st) := rootOf m e; f.roundTo (f.p + 1) mode false r e' st

/-- roundToIntegral (R124); the sign of a zero result is the operand's. -/
def Fmt.rint (f : Fmt) (mode : Nat) : FV → Nat
  | .nan => f.nan
  | .inf n => f.enc 0 (.inf n)
  | .fin n m e => if e ≥ 0 then f.enc 0 (.fin n m e) else f.enc 0 (.fin n (roundInt mode n m e) 0)

/-- logB as a value of the same format (R124). -/
def Fmt.logb (f : Fmt) : FV → Nat
  | .nan => f.nan
  | .inf _ => f.inf
  | .fin _ m e =>
    if m = 0 then f.sign + f.inf
    else let k := e + (m.log2 : Int); f.enc 0 (.fin (decide (k < 0)) k.natAbs 0)

/-- The class word of R126 from the bits. -/
def Fmt.cls (f : Fmt) (b : Nat) : Nat :=
  let neg := bitOf b (f.p + f.x)
  let ex := b / 2 ^ f.p % 2 ^ f.x
  let fr := b % 2 ^ f.p
  if ex = 2 ^ f.x - 1 then
    if fr = 0 then (if neg then 1 else 2 ^ 7) else if bitOf fr (f.p - 1) then 2 ^ 9 else 2 ^ 8
  else if ex = 0 then
    if fr = 0 then (if neg then 2 ^ 3 else 2 ^ 4) else (if neg then 2 ^ 2 else 2 ^ 5)
  else if neg then 2 ^ 1 else 2 ^ 6

/-- saturation of R116: NaN and values not above 0 give +0, values above 1 give 1. -/
def Fmt.sat (f : Fmt) (b : Nat) : Nat :=
  match f.dec b with
  | .nan => 0
  | v =>
    let one := (2 ^ (f.x - 1) - 1) * 2 ^ f.p
    if v.isNeg ∨ b = 0 then 0 else if b > one then one else b

/-! ### The functions of R127: 12 or 16 significant bits, RNE -/

/-- π · 2^256 and ln 2 · 2^256, rounded down. -/
def piFix : Nat := 0x3243f6a8885a308d313198a2e03707344a4093822299f31d0082efa98ec4e6c89
def ln2Fix : Nat := 0xb17217f7d1cf79abc9e3b39803f2f6af40f343267298b62d8a0d175b8baafa2b

/-- VFRCP. -/
def rcp32 : FV → Nat
  | .nan => f32.nan
  | .inf n => f32.enc 0 (.fin n 0 0)
  | .fin n m e => if m = 0 then f32.enc 0 (.inf n) else f32.roundTo 12 0 n (2 ^ 200 / m) (-e - 200) (2 ^ 200 % m != 0)

/-- VFRSQ. -/
def rsq32 : FV → Nat
  | .nan => f32.nan
  | .inf n => if n then f32.nan else 0
  | .fin n m e =>
    if m = 0 then f32.enc 0 (.inf n)
    else if n then f32.nan
    else
      let (m, e) := if e % 2 = 0 then (m, e) else (2 * m, e - 1)
      let x := 2 ^ 240 / m
      let r := isqrt x (x.log2 / 2 + 1) 0
      f32.roundTo 12 0 false r (-(e / 2) - 120) (r * r * m != 2 ^ 240)

/-- Σ x^k / k! in fixed point with 256 fraction bits, from term k on. -/
def expSeries (x : Nat) : Nat → Nat → Nat → Nat
  | 0, _, _ => 0
  | n + 1, k, term => term + expSeries x n (k + 1) (term * x / 2 ^ 256 / (k + 1))

/-- VFEXP2: 2^a = 2^⌊a⌋ · 2^(a − ⌊a⌋) (UNVERIFIED, log entry 20). -/
def exp2_32 : FV → Nat
  | .nan => f32.nan
  | .inf n => if n then 0 else f32.inf
  | .fin n m e =>
    let x : Int := if e ≥ 0 then (m * 2 ^ (min e.toNat 64) : Nat) * 2 ^ 256 else (m * 2 ^ 256 / 2 ^ (-e).toNat : Nat)
    let x : Int := if n then -x else x
    let k := x / 2 ^ 256
    let fr := (x % 2 ^ 256).toNat
    if k > 200 then f32.inf
    else if k < -200 then 0
    else f32.roundTo 16 0 false (expSeries (fr * ln2Fix / 2 ^ 256) 64 0 (2 ^ 256)) (k - 256) (fr != 0)

/-- Bits of log2 y for 1 ≤ y < 2 in fixed point with 256 fraction bits, by repeated squaring. -/
def logBits : Nat → Nat → Nat → Nat
  | 0, _, acc => acc
  | n + 1, y, acc =>
    let q := y * y / 2 ^ 256
    if q ≥ 2 ^ 257 then logBits n (q / 2) (2 * acc + 1) else logBits n q (2 * acc)

/-- VFLOG2 (UNVERIFIED, log entry 20). -/
def log2_32 : FV → Nat
  | .nan => f32.nan
  | .inf n => if n then f32.nan else f32.inf
  | .fin n m e =>
    if m = 0 then f32.sign + f32.inf
    else if n then f32.nan
    else
      let k : Int := e + (m.log2 : Int)
      let y := m * 2 ^ (256 - m.log2)
      let v : Int := k * 2 ^ 100 + (logBits 100 y 0 : Nat)
      let exact := y == 2 ^ 256
      if v ≥ 0 then f32.roundTo 16 0 false v.toNat (-100) (!exact)
      else if exact then f32.roundTo 16 0 true (-v).toNat (-100) false
      else f32.roundTo 16 0 true (-(v + 1)).toNat (-100) true

/-- Alternating series of sine (k odd) and cosine (k even) in fixed point with 256 fraction bits; `x2` is the square. -/
def trigSeries (x2 : Nat) : Nat → Nat → Int → Int
  | 0, _, _ => 0
  | n + 1, k, term => term + trigSeries x2 n (k + 2) (-(term * x2 / 2 ^ 256) / ((k + 1) * (k + 2)))

/-- sin(π r) for r of 256 fraction bits, 0 ≤ r ≤ 1/2. -/
def sinFix (r : Nat) : Nat :=
  let x := r * piFix / 2 ^ 256
  (trigSeries (x * x / 2 ^ 256) 40 1 x).toNat

/-- sin(π · v / 2^256) for a non-negative v: sign, magnitude in 256 fraction bits, and whether it is exact. -/
def sinPi (v : Nat) : Bool × Nat × Bool :=
  let h := v / 2 ^ 256 % 2
  let r := v % 2 ^ 256
  let q := if r ≤ 2 ^ 255 then r else 2 ^ 256 - r
  if q = 0 then (h == 1, 0, true) else if q = 2 ^ 255 then (h == 1, 2 ^ 256, true) else (h == 1, sinFix q, false)

/-- A finite magnitude as a fixed-point number with 256 fraction bits, modulo 2. -/
def toFix (m : Nat) (e : Int) : Nat := if e ≥ 0 then m * 2 ^ (min e.toNat 2) % 2 * 2 ^ 256 else m * 2 ^ 256 / 2 ^ (-e).toNat % 2 ^ 257

/-- VFSIN: an exact zero carries the sign of a (UNVERIFIED, log entry 20). -/
def sin32 : FV → Nat
  | .fin n m e =>
    let (h, x, ex) := sinPi (toFix m e)
    if x = 0 then (if n then f32.sign else 0) else f32.roundTo 16 0 (n != h) x (-256) (!ex)
  | _ => f32.nan

/-- VFCOS: cos(π a) = sin(π (a + 1/2)); exact zeros are +0 (UNVERIFIED, log entry 20). -/
def cos32 : FV → Nat
  | .fin _ m e =>
    let (h, x, ex) := sinPi (toFix m e + 2 ^ 255)
    if x = 0 then 0 else f32.roundTo 16 0 h x (-256) (!ex)
  | _ => f32.nan

/-! ### Conversions and block integers (R112, R129 to R131) -/

/-- Float to integer: NaN gives 0, else rounded and clamped to lo..hi (R129). -/
def floatToInt (mode : Nat) (lo hi : Int) : FV → Int
  | .nan => 0
  | .inf n => if n then lo else hi
  | .fin n m e =>
    let k : Int := if m = 0 then 0 else if e > 70 then 2 ^ 80 else (roundInt mode n m e : Nat)
    max lo (min hi (if n then -k else k))

/-- The exact value of an integer. -/
def intVal (x : Int) : FV := .fin (decide (x < 0)) x.natAbs 0

/-- sig · 2^(E8 − 127 − (w − 2)), NaN for E8 = 0xFF (R112). -/
def blockVal (sig : Int) (e8 w : Nat) : FV :=
  if e8 = 255 then .nan else .fin (decide (sig < 0)) sig.natAbs ((e8 : Int) - 127 - ((w : Int) - 2))

/-- The one value that F32 does not hold: −2^(w−1) under E8 = 254 (log entry 8). -/
def blockOpen (sig : Int) (e8 w : Nat) : Bool := e8 == 254 && sig == -(2 ^ (w - 1) : Int)

/-- ⌊log2 x⌋ + 127 of a nonzero value, clamped to 0..254 (R130). -/
def blockExp (m : Nat) (e : Int) : Nat := (max 0 (min 254 (e + (m.log2 : Int) + 127))).toNat

/-- A significand of the quantiser: x / 2^(E − 127 − (w − 2)) to nearest even, clamped (R130). -/
def blockSig (v : FV) (ex w : Nat) : Int :=
  match v with
  | .fin n m e =>
    let q : Int := (ex : Int) - 127 - ((w : Int) - 2)
    let k := (roundAt 0 n m e q false : Int)
    let c := min k ((2 ^ (w - 1) : Int) - 1)
    if n then -c else c
  | _ => 0

/-- The larger magnitude of two finite values. -/
def FV.maxAbs (a b : FV) : FV := match a.abs.cmp b.abs with | some .lt => b.abs | _ => a.abs

/-- E of a block (R130): 0xFF when an element is infinite or NaN, 0 when all are zero. -/
def blockE (xs : List FV) : Nat :=
  if xs.any fun x => match x with | .fin _ _ _ => false | _ => true then 255
  else match xs.foldl FV.maxAbs (.fin false 0 0) with
    | .fin _ m e => if m = 0 then 0 else blockExp m e
    | _ => 255

end Sys2Proof.Machine
end

