-- ==== Sys2Proof/Machine/Fabric.lean ====
section
/-! DEFINITION. Remote requests at their source (R321 to R344): routes, paths, sequence numbers, ordering, and what is pending. -/

namespace Sys2Proof.Machine

/-- A copy that no longer makes accesses (R248). -/
def CopyState.over : CopyState → Bool
  | .done | .cancelled | .failed => true
  | _ => false

/-- An operation named by its number is not complete: a request not answered, a copy or a network operation under way (R231, R233). -/
def State.pending (s : State) (id : Nat) : Bool :=
  (s.reqs.find id).isSome ||
  (match s.copies.find id with | some c => !c.state.over || c.reqs.any fun r => (s.reqs.find r).isSome | none => false) ||
  (match s.netops.find id with | some o => !o.done | none => false) ||
  (s.reqs.any fun (_, r) => match r.owner with | .mdrain _ o => o == id | _ => false) ||
  (s.teams.any fun (_, T) => (T.mq ++ T.replay).any fun o => o.id == id)

/-- The request is a write of an MDRAIN of a team. -/
def Owner.drains (t : Nat) : Owner → Bool
  | .mdrain u _ => u == t
  | _ => false

/-- The request is the owner's: a lane's when it is one of the lanes that it serves (R176). -/
def Req.serves (r : Req) (o : Owner) : Bool :=
  r.owner == o || match o, r.owner with
  | .lane t w l, .lane u v _ => t == u && w == v && r.lanes.getLsbD l
  | _, _ => false

/-- Two requests come from one party (R209). -/
def Req.mates (q r : Req) : Bool :=
  q.owner == r.owner || match q.owner, r.owner with
  | .lane t w l, .lane u v k => t == u && w == v && (q.lanes ||| maskOf [l]) &&& (r.lanes ||| maskOf [k]) != 0
  | _, _ => false

/-- The bytes of memory that a request acts on (R325): a CAS carries twice as many (R337). -/
def packetSpan (p : TwillPacket) : Nat := if p.type = .atomic then (if bitOf p.atom 4 then 8 else 4) else p.len

/-- The team whose matrix engine an owner is. -/
def Owner.engine : Owner → Option Nat
  | .mdrain t _ => some t
  | .macc t _ _ => some t
  | _ => none

/-- The place that the model gives bytes of another package, whose own place this package cannot know: by target die and export, as a die number past
those of this package, and by offset. -/
def peerPlace (pkg sock exp o : Nat) : Nat × Nat := (8 + 4 * pkg + sock, exp * 2 ^ 33 + o)

/-- An access of a party to bytes of another package races with matrix operations whose window holds them (R277): the offsets. -/
def State.raceFar (s : State) (r : Req) : List Nat × State :=
  let p := r.packet
  if p.dpkg = s.pkg then ([], s)
  else
    let (d, a) := peerPlace p.dpkg p.dsock p.exp p.offset
    s.raceMem d a (packetSpan p) (p.type != .read) r.owner.engine

/-- A packet that writes is numbered and acknowledged as a write (R338). -/
def isWrite : TwillType → Bool
  | .write | .atomic => true
  | _ => false

/-- The team that a request belongs to; none for one of a copy sub-launch. -/
def State.ownerTeam (s : State) : Owner → Option Nat
  | .scalar t _ => some t
  | .lane t _ _ => some t
  | .mdrain t _ => some t
  | .macc t _ _ => some t
  | .scale t _ _ _ => some t
  | .part _ _ => none
  | .copy c _ => (s.copy c).team
  | .copyScale c _ => (s.copy c).team

/-- The copy that a request belongs to. -/
def Owner.copyOf : Owner → Option Nat
  | .copy c _ => some c
  | .copyScale c _ => some c
  | _ => none

/-- The queue that a request's traffic counts for (R344): its die and the address of its state block. -/
def State.queueOf (s : State) (o : Owner) : Option (Nat × Nat) :=
  match s.ownerTeam o with
  | some t => some ((s.team t).origin, (s.team t).qsb)
  | none => (o.copyOf.bind fun c => (s.copy c).entry).map fun (b, _, _) => ((s.bundle b).die, (s.bundle b).qsb)

/-- Count remote traffic for a queue (R344). -/
def State.traffic (s : State) (o : Owner) (n : Nat) : State :=
  match s.queueOf o with
  | some (d, q) => s.modDie d fun D => { D with queues := D.queues.mod q fun x => { x with bytes := x.bytes + n } }
  | none => s

/-! ### Routes (R333, R334, R341 to R343) -/

/-- The link between two sockets (dies 0 to 3, I/O dies 4 and 5) has not failed (R341). -/
def State.linkUp (s : State) (a b : Nat) : Bool := !(s.failed.contains (a, b) || s.failed.contains (b, a))

/-- A repaired link still waits for detoured packets of this direction (R342). -/
def State.drains (s : State) (a b : Nat) : Bool :=
  s.draining.contains (a, b) && s.reqs.any fun (_, r) => r.sent && r.detour && r.src == a && r.link == b

/-- A repaired link on the detour through `c` still waits for packets of this direction that go another way (R342). -/
def State.rerouted (s : State) (a b c : Nat) : Bool :=
  (s.draining.contains (a, c) || s.draining.contains (c, b)) &&
  s.reqs.any fun (_, r) => r.sent && r.detour && r.src == a && r.link == b && r.packet.via != some c

/-- How packets go from one socket to another: directly (none), or detoured through a third die, the lowest-numbered socket whose links to both
ends are up (R342); or not at all. -/
def State.hop (s : State) (a b : Nat) : Option (Option Nat) :=
  if a = b || (s.linkUp a b && !s.drains a b) then some none
  else ((List.range 6).find? fun c => c != a && c != b && s.linkUp a c && s.linkUp c b && !s.rerouted a b c).map some

/-- Route table entry of a die for a package and a path (R334). -/
def Die.route (D : Die) (pkg path : Nat) : Nat := D.routes.get (4 * pkg + path) 0

/-- Number of a Twill port: ports 0 to 15 of IO0, then those of IO1. -/
def portOf (e : Nat) : Nat := bits e 4 4 * 16 + bits e 3 0

/-- The route is up (R334) and its I/O die can be reached. -/
def State.routeUp (s : State) (d pkg path : Nat) : Bool :=
  let e := (s.die d).route pkg path
  bitOf e 15 && !s.ports.contains (portOf e) && (s.hop d (4 + bits e 4 4)).isSome

/-- Two requests go to one line of one target (R330, R333). -/
def sameLine (p q : TwillPacket) : Bool :=
  p.dpkg == q.dpkg && p.dsock == q.dsock && p.exp == q.exp &&
  decide (p.offset / 128 ≤ (q.offset + (packetSpan q - 1)) / 128) && decide (q.offset / 128 ≤ (p.offset + (packetSpan p - 1)) / 128)

/-- The virtual channel that a packet travels on inside the package: VC7 when it is detoured (R336, R342). -/
def packetChan (p : TwillPacket) : Nat := if p.via.isSome then 7 else p.vc

/-- The paths with a route up, and the choice among them: the line's, else the least loaded, lowest first (R333). -/
def State.pickPath (s : State) (r : Req) : Option Nat :=
  let p := r.packet
  let ups := (List.range 4).filter (s.routeUp r.src p.dpkg)
  let load (k : Nat) : Nat := (s.reqs.filter fun (_, q) => q.sent && q.src == r.src && q.packet.dpkg == p.dpkg && q.packet.path == k).length
  match s.reqs.find? fun (_, q) => q.sent && q.src == r.src && sameLine q.packet p && ups.contains q.packet.path with
  | some (_, q) => some q.packet.path
  | none => ups.foldl (fun m k => match m with | none => some k | some j => if load k < load j then some k else m) none

/-- The way of packets of a die to another package on a path: the third die of a detour to the I/O die, its socket, and the port. -/
def State.wayOut (s : State) (d pkg path : Nat) : Option (Option Nat × Nat × Nat) :=
  let e := (s.die d).route pkg path
  (s.hop d (4 + bits e 4 4)).map fun v => (v, 4 + bits e 4 4, portOf e)

/-- The route of a request: path, detour, first link, and Twill port. A die whose export table is not installed is reached by none
(R460); while PKGID is not valid no other package is (R449). -/
def State.routeOf (s : State) (r : Req) : Option (Nat × Option Nat × Nat × Option Nat) :=
  let p := r.packet
  if p.dpkg = s.pkg then
    if !(s.die p.dsock).up || ((s.die p.dsock).func.base.get 0x12000 0) == 0 then none
    else (s.hop r.src p.dsock).map fun v => (0, v, p.dsock, none)
  else if !s.pkgValid then none
  else (s.pickPath r).bind fun k => (s.wayOut r.src p.dpkg k).map fun (v, link, port) => (k, v, link, some port)

/-- The protection of a packet to another package (R339). -/
def State.cryptOf (s : State) (p : TwillPacket) : Nat :=
  if p.dpkg = s.pkg then 0 else if p.crypt = 2 then 2 else if s.integrity.contains p.vc then 1 else 0

/-- A packet waits at a port (R335), or where it has no route. -/
def State.atPort (s : State) (k : Nat) (p : TwillPacket) : State := { s with egress := s.egress.ins k (s.egress.get k [] ++ [p]) }

/-- A packet leaves its die: onto the wires of the package, or onto the link to the I/O die of a Twill port. -/
def State.emit (s : State) (port : Option Nat) (p : TwillPacket) : State :=
  match port with
  | none => { s with wires := s.wires ++ [p] }
  | some k => { s with outward := s.outward ++ [(k, p)] }

/-- The queue of packets for which no route is up. -/
def noPort : Nat := 32

/-- A response goes back (R335): inside the package, or by the route that its request names, taken from the responding die's table; by another
path whose route is up where that one is not (R342); it waits while there is none. -/
def State.emitBack (s : State) (p : TwillPacket) : State :=
  if p.dpkg = s.pkg then
    match s.hop p.ssock p.dsock with
    | some v => s.emit none { p with via := v }
    | none => s.atPort noPort p
  else
    let ups := (List.range 4).filter (s.routeUp p.ssock p.dpkg)
    match (if ups.contains p.path then some p.path else ups.head?).bind fun k => (s.wayOut p.ssock p.dpkg k).map fun x => (k, x) with
    | some (k, v, _, port) => s.emit (some port) { p with path := k, via := v }
    | none => s.atPort noPort p

/-- Responses that waited for a route take one that is up now. -/
def State.retryBack (s : State) : State :=
  let ps := s.egress.get noPort []
  if ps.isEmpty then s else ps.foldl State.emitBack { s with egress := s.egress.del noPort }

/-! ### Twill packets on the wire (R335, R337, R339) -/

/-- The code of a packet's TYPE. -/
def typeCode : TwillType → Nat
  | .read => 1
  | .write => 2
  | .atomic => 3
  | .data => 4
  | .ack => 5
  | .nak => 6
  | .reserved => 7

/-- The header flit without its MAC (R337). -/
def packetHeader (p : TwillPacket) : Nat :=
  p.dpkg % 2 ^ 12 * 2 ^ 500 + p.dsock % 32 * 2 ^ 495 + p.vc % 8 * 2 ^ 492 + p.path % 4 * 2 ^ 490 + p.ord.toNat * 2 ^ 489 + p.crypt % 4 * 2 ^ 487 +
  typeCode p.type * 2 ^ 483 + p.spkg % 2 ^ 12 * 2 ^ 471 + p.ssock % 32 * 2 ^ 466 + p.part % 2 ^ 16 * 2 ^ 450 + p.exp % 2 ^ 16 * 2 ^ 434 +
  p.egen % 2 ^ 16 * 2 ^ 418 + p.offset % 2 ^ 32 * 2 ^ 386 + p.len % 2 ^ 9 * 2 ^ 377 + p.tag % 2 ^ 16 * 2 ^ 361 + p.seq % 2 ^ 16 * 2 ^ 345 +
  p.ordseq % 2 ^ 16 * 2 ^ 329 + p.atom % 2 ^ 8 * 2 ^ 321 + p.ncause % 2 ^ 8 * 2 ^ 313

/-- Bytes in pieces of `n`. -/
def pieces (n : Nat) : List Byte → Nat → List (List Byte)
  | [], _ => []
  | _, 0 => []
  | bs, k + 1 => bs.take n :: pieces n (bs.drop n) k

/-- The flits of a packet (R337, R339): a clear data flit carries 64 bytes, any other 48 in bytes 63 to 16 and its tag below; a confidential one
carries ciphertext. -/
def packetFlits (p : TwillPacket) : List Nat :=
  let peer := if typeCode p.type ≤ 3 then p.dpkg else p.spkg
  let h := packetHeader p
  if p.crypt = 0 then h :: (pieces 64 p.data p.data.length).map natLE
  else
    (h + Config.gmacTag p.part peer p.tag 0 (bytesLE 64 h) % 2 ^ 128) ::
    (pieces 48 p.data p.data.length).mapIdx fun i bs =>
      if p.crypt = 2 then Config.gcmText p.part peer p.tag (i + 1) bs % 2 ^ 384 * 2 ^ 128 + Config.gcmTag p.part peer p.tag (i + 1) bs % 2 ^ 128
      else natLE bs * 2 ^ 128 + Config.gmacTag p.part peer p.tag (i + 1) bs % 2 ^ 128

/-- The Brass gateway sends the next packet of a port, in order (R335). -/
def State.transmit (s : State) (port : Nat) : State :=
  match s.egress.get port [] with
  | p :: r => { (s.send (.twill port (packetFlits p) p)) with egress := if r.isEmpty then s.egress.del port else s.egress.ins port r, retries := s.retries.del port }
  | [] => s

/-! ### Sending (R331, R338) -/

/-- A request is held at its source: operations before it are not complete; a request turned back goes before it (R341); an earlier one of its
party to the target, or of any party to its line, has not left (R211, R330); one to its line travels on another virtual channel or another way,
which keep no order with its own, or one of its party under another export, which may name the same bytes, and one of the two writes (R211)
(DEDUCED, log entry 18); or 4,096 writes to the target are not acknowledged (R338). -/
def State.holds (s : State) (id : Nat) (r : Req) : Bool :=
  let there (q : Req) : Bool := q.src == r.src && q.packet.dpkg == r.packet.dpkg && q.packet.dsock == r.packet.dsock
  let apart (q : Req) : Bool := q.packet.vc != r.packet.vc || match s.routeOf r with
    | some (k, v, _, _) => k != q.packet.path || v != q.packet.via
    | none => false
  r.after.any s.pending ||
  (s.reqs.any fun (k, q) => k != id && there q &&
    ((!q.sent && q.stamp != 0 && (r.stamp == 0 || decide (q.stamp < r.stamp))) ||
     (!q.sent && decide (k < id) && r.stamp == 0 && (q.mates r || sameLine q.packet r.packet)) ||
     (q.sent && sameLine q.packet r.packet && apart q) ||
     (q.sent && q.mates r && q.packet.exp != r.packet.exp && (isWrite q.packet.type || isWrite r.packet.type)))) ||
  (isWrite r.packet.type && r.stamp == 0 && decide ((s.reqs.filter fun (_, q) => q.stamp != 0 && isWrite q.packet.type && there q).length ≥ 4096))

/-- ORDSEQ of a packet (R338): a CPYR's is fixed by its first packet, a release's is the SEQ before its own. -/
def State.ordSeqOf (s : State) (r : Req) (seq : Nat) : Nat :=
  match r.owner with
  | .copy c _ => ((s.copy c).ordSeq).getD ((seq + 65535) % 65536)
  | _ => (seq + 65535) % 65536

/-- The key of a target that requests of a die cannot reach until a route is reinstalled (R343). -/
def lostKey (src dpkg dsock : Nat) : Nat := src * 2 ^ 17 + dpkg * 32 + dsock

/-- Send a request that nothing holds; without a route it waits (R343). -/
def State.sendReq (s : State) (id : Nat) : State :=
  match s.reqs.find id with
  | none => s
  | some r =>
    if r.sent || s.holds id r then s
    else match (if s.lost.contains (lostKey r.src r.packet.dpkg r.packet.dsock) then none else s.routeOf r) with
      | none => { s with reqs := s.reqs.mod id fun r => { r with noRoute := some (r.noRoute.getD s.now) } }
      | some (path, det, link, port) =>
        let p := r.packet
        let key := p.dpkg * 32 + p.dsock
        let w := isWrite p.type
        let seq := (s.die r.src).seq.get key 0
        let oseq := if r.numbered then p.ordseq else if p.ord then s.ordSeqOf r seq else 0
        let fresh := w && !r.numbered
        let p := { p with path := path, crypt := s.cryptOf p, seq := if fresh then seq else p.seq, ordseq := oseq }
        let (n, s) := s.fresh
        let p := { p with via := det }
        let s := { s with reqs := s.reqs.mod id fun r =>
          { r with packet := p, sent := true, numbered := true, detour := det.isSome, link := link, noRoute := none, stamp := if r.stamp = 0 then n else r.stamp } }
        let s := if fresh then s.modDie r.src fun D => { D with seq := D.seq.ins key ((seq + 1) % 65536) } else s
        let s := match r.owner with
          | .copy c _ => if p.ord then s.modCopy c fun c => { c with ordSeq := some oseq } else s
          | _ => s
        let s := if fresh && (p.dpkg != s.pkg || p.dsock != r.src) then s.traffic r.owner p.data.length else s
        s.emit port p

/-- Send what is no longer held: packets turned back in their order (R341), then the others, oldest first. -/
def State.pump (s : State) : State :=
  let back := sortBy (fun (x y : Nat × Req) => decide (x.2.stamp ≤ y.2.stamp)) (s.reqs.filter fun (_, r) => !r.sent && r.stamp != 0)
  (Map.keys back ++ s.reqs.keys).foldl State.sendReq s.retryBack

/-- A request tag of a die that no outstanding request has (R337). -/
def State.freeTag (s : State) (d n : Nat) : Nat → Nat
  | 0 => n % 65536
  | k + 1 => if s.reqs.any fun (_, r) => r.src == d && r.packet.tag == n % 65536 then State.freeTag s d (n + 1) k else n % 65536

/-- A new request, sent at once where nothing holds it: its number and the state. -/
def State.request (s : State) (r : Req) : Nat × State :=
  let (offs, s) := s.raceFar r
  let (bs, s) := s.blur r.packet.data offs
  let r := if offs.isEmpty || r.packet.type != .write then r else { r with packet := { r.packet with data := bs } }
  let (id, s) := s.fresh
  let tag := s.freeTag r.src (s.die r.src).nextTag 65536
  let s := s.modDie r.src fun D => { D with nextTag := (tag + 1) % 65536 }
  (id, { s with reqs := s.reqs.ins id { r with packet := { r.packet with tag := tag } } }.sendReq id)

/-- The packet of an access under an import entry (R322, R337). -/
def State.packetOf (s : State) (src e o n : Nat) (ty : TwillType) (bs : List Byte) : TwillPacket :=
  { dpkg := bits e 63 52, dsock := bits e 51 50, vc := bits e 9 8, crypt := if bitOf e 4 then 2 else 0, type := ty, spkg := s.pkg,
    ssock := src, part := bits e 127 112, exp := bits e 49 34, egen := bits e 33 18, offset := o, len := n, data := bs }

/-- Remote writes before a lane's block in its warp's program order that are not acknowledged (R97). -/
def State.laneBefore (s : State) (t w : Nat) : List Nat :=
  match (s.warp t w).queue with
  | b :: _ => b.before.filter fun k => (s.reqs.find k).isSome
  | [] => []

/-- Remote writes that come before an access of a party in program order and are not acknowledged (R97, R213). -/
def State.writesBefore (s : State) (o : Owner) : List Nat :=
  Map.keys (s.reqs.filter fun (_, q) => q.serves o && isWrite q.packet.type) ++
  match o with
  | .lane t w _ => s.laneBefore t w
  | _ => []

/-- Those that a release of the party waits for at its source (R331): the ones to other targets, and the ones that have not left yet, which its
ORDSEQ does not cover. -/
def State.elsewhere (s : State) (o : Owner) (p : TwillPacket) : List Nat :=
  (s.writesBefore o).filter fun k => match s.reqs.find k with
    | some q => !q.sent || !(q.packet.dpkg == p.dpkg && q.packet.dsock == p.dsock)
    | none => false

/-- The parties of a request that serves several lanes (R176). -/
def Owner.parties (o : Owner) (ls : Half) : List Owner :=
  match o with
  | .lane t w l => (lanesOf (ls ||| maskOf [l])).map (.lane t w)
  | _ => [o]

/-- A remote access of an owner, and of further lanes of its instruction: `rel` marks a release, `after` what a stream binding puts before it. -/
def State.remote (s : State) (o : Owner) (space : Nat) (p : TwillPacket) (rel : Bool) (after : List Nat) (vd size : Nat) (ls : Half := 0) : Nat × State :=
  s.request { src := space / 4096, owner := o, lanes := ls, packet := { p with ord := p.ord || rel }, asid := space % 4096,
              after := (if rel then (o.parties ls).flatMap (s.elsewhere · p) else []) ++ after, vd := vd, size := size }

/-- The window of this import entry is a window on the die itself, whose accesses are served locally (R322). -/
def State.ownDie (s : State) (space e : Nat) : Bool := bits e 63 52 == s.pkg && bits e 51 50 == space / 4096

/-! ### Stream tags (R230 to R232) -/

/-- The bound operations of a stream that are not complete, by number. -/
def State.boundOps (s : State) (d asid tag : Nat) : List Nat :=
  Map.keys (s.reqs.filter fun (_, r) => r.src == d && r.asid == asid && r.tag == tag) ++
  Map.keys (s.copies.filter fun (k, c) => c.die == d && c.asid == asid && c.tag == tag && s.pending k) ++
  Map.keys (s.netops.filter fun (_, o) => o.die == d && o.asid == asid && o.tag == tag && !o.done)

/-- The address spaces whose descriptor (R451) is not all zero. -/
def Die.described (D : Die) : List Nat :=
  let base := D.func.base.get 0x13000 0
  D.mem.foldl (fun l (a, _) => if base ≤ a ∧ a < base + 64 * 4096 then setIns ((a - base) / 64) l else l) []

/-- Slots that enabled receive queues name, with the queue (R232, R347); a descriptor that is all zero gives none. -/
def Die.rxNamed (D : Die) : List (Nat × Nat) :=
  if D.func.base.get 0x13000 0 = 0 then []
  else D.described.flatMap fun a =>
    let w := D.asidWord a 8
    if !bitOf w 63 then []
    else (List.range (bits w 49 40 + 1)).filterMap fun q => match D.netqEntry a q with
      | some e => if bits e 101 100 = 2 ∧ bits e 147 132 ≠ 0 ∧ bits e 131 116 = 0 ∧ bits e 99 0 = 0 then some (a * 65536 + bits e 147 132, a * 1024 + q) else none
      | none => none

/-- Slots whose last operation has completed are freed, and receive queues that have been enabled take theirs (R232). -/
def State.freeSlots (s : State) (d : Nat) : State :=
  let rx := (s.die d).rxNamed
  s.modDie d fun D =>
    let used (k : Nat) : Bool := !(s.boundOps d (k / 65536) (k % 65536)).isEmpty ||
      (match D.granted.find k with | some t => (s.teams.find t).isSome | none => false) || rx.any fun x => x.1 == k
    let slots := rx.foldl (fun l (k, _) => if l.contains k || decide (l.length ≥ Config.streamSlots) then l else setIns k l) (D.slots.filter used)
    let held := rx.filter fun x => slots.contains x.1
    { D with slots := slots, granted := D.granted.filter fun (k, _) => used k,
             rxSlots := held.foldl (fun m (k, q) => m.ins k (m.get k [] ++ [q])) [] }

/-- Acceptance of an operation bound to a stream: what it must wait for, or none while no slot is free (R231, R232). -/
def State.accept (s : State) (d asid tag team : Nat) : Option (List Nat) × State :=
  if tag = 0 then (some [], s)
  else
    let key := asid * 65536 + tag
    let s := s.freeSlots d
    let D := s.die d
    if D.slots.contains key then (some (s.boundOps d asid tag), s.modDie d fun D => { D with granted := D.granted.del key })
    else if D.slots.length < Config.streamSlots ∧ D.slotQ = [] then (some [], s.modDie d fun D => { D with slots := setIns key D.slots })
    else (none, if D.slotQ.contains key then s else s.modDie d fun D => { D with slotQ := D.slotQ ++ [key], granted := D.granted.ins key team })

/-! ### Atomic operations (R226, R228, R229, R327) -/

/-- The new value of an atomic: op codes of R227 with 11 CAS, whose compare value is `c`; none when nothing is written (DEDUCED, log entry 14). -/
def atomNew (op : Nat) (uns : Bool) (n old b c : Nat) : Option Nat :=
  let m := 2 ^ (8 * n)
  let key (x : Nat) : Int := if uns then (x : Int) else sext x (8 * n)
  match op with
  | 0 => some ((old + b) % m)
  | 1 => some ((old + (m - b % m)) % m)
  | 2 => some (old &&& b)
  | 3 => some (old ||| b)
  | 4 => some (old ^^^ b)
  | 5 => some (if key b < key old then b else old)
  | 6 => some (if key b > key old then b else old)
  | 7 => some b
  | 8 => some (f32.enc 0 ((f32.dec old).add 0 (f32.dec b)))
  | 9 => some (f32.enc 0 (FV.pick false (f32.dec old) (f32.dec b)))
  | 10 => some (f32.enc 0 (FV.pick true (f32.dec old) (f32.dec b)))
  | _ => if old = c then some b else none

end Sys2Proof.Machine
end

