-- ==== Sys2Proof/Decode.lean ====
section
/-! DEFINITION. Decoding of code bytes and encoding of instructions (R38, R39, R43-R60, R63, R260). The decoder is total: what is
not an instruction is rejected by name. -/

namespace Sys2Proof

/-- Why code bytes are not an instruction (R11, R46). -/
inductive Reject where
  /-- Too few bytes were given. -/
  | short
  /-- A reserved OP6 (R48). -/
  | op6 (n : Nat)
  /-- A reserved fn of an R-form family (R51, R52). -/
  | fn (op n : Nat)
  /-- A reserved OP8 (R63). -/
  | op8 (n : Nat)
  /-- A reserved branch condition (R47), LWAIT count (R96) or matrix kind (R260). -/
  | reserved
  /-- A reserved scope code (R53). -/
  | scope
  /-- A field that must be zero is not (R46). -/
  | unused
  /-- A broken rule of the decoded term. -/
  | flaw (w : Flaw)
  deriving DecidableEq, Repr

/-- cc of the C form (R47). -/
def Cond.ofCode : Nat → Option Cond
  | 0 => some .eq | 1 => some .ne | 2 => some .lt | 3 => some .ge | 4 => some .ltu | 5 => some .geu | _ => none
def Cond.code : Cond → Nat
  | .eq => 0 | .ne => 1 | .lt => 2 | .ge => 3 | .ltu => 4 | .geu => 5

/-- Scope codes (R53). -/
def Scope.ofCode : Nat → Option Scope
  | 0 => some .w | 1 => some .t | 2 => some .d | 3 => some .p | 4 => some .s | _ => none
def Scope.code : Scope → Nat
  | .w => 0 | .t => 1 | .d => 2 | .p => 3 | .s => 4

/-- FENCE orders (R54). -/
def FOrder.ofCode : Nat → FOrder
  | 0 => .acq | 1 => .rel | 2 => .ar | _ => .sc
def FOrder.code : FOrder → Nat
  | .acq => 0 | .rel => 1 | .ar => 2 | .sc => 3

namespace Dec

/-- Register field d, a or b of the R form (R43). -/
def fd (w : Nat) : Reg := BitVec.ofNat 6 (bits w 25 20)
def fa (w : Nat) : Reg := BitVec.ofNat 6 (bits w 19 14)
def fb (w : Nat) : Reg := BitVec.ofNat 6 (bits w 13 8)
/-- imm14 of the I form (R43). -/
def imm14 (w : Nat) : BitVec 14 := BitVec.ofNat 14 (bits w 13 0)

/-- Accept only when the fields that must be zero are (R46). -/
def zero (c : Bool) (i : Instr) : Except Reject Instr := if c then .ok i else .error .unused

/-- The ALU family (R51, R85, R86). -/
def alu (w : Nat) : Except Reject Instr :=
  match bits w 7 0 with
  | 0 => .ok (.add (fd w) (fa w) (fb w))
  | 1 => .ok (.sub (fd w) (fa w) (fb w))
  | 2 => .ok (.and (fd w) (fa w) (fb w))
  | 3 => .ok (.or (fd w) (fa w) (fb w))
  | 4 => .ok (.xor (fd w) (fa w) (fb w))
  | 5 => .ok (.andn (fd w) (fa w) (fb w))
  | 6 => .ok (.shl (fd w) (fa w) (fb w))
  | 7 => .ok (.shr (fd w) (fa w) (fb w))
  | 8 => .ok (.sar (fd w) (fa w) (fb w))
  | 9 => .ok (.mul (fd w) (fa w) (fb w))
  | 10 => .ok (.mulhu (fd w) (fa w) (fb w))
  | 11 => .ok (.mulhs (fd w) (fa w) (fb w))
  | 12 => .ok (.divu (fd w) (fa w) (fb w))
  | 13 => .ok (.remu (fd w) (fa w) (fb w))
  | 14 => .ok (.divs (fd w) (fa w) (fb w))
  | 15 => .ok (.rems (fd w) (fa w) (fb w))
  | 16 => .ok (.min (fd w) (fa w) (fb w))
  | 17 => .ok (.max (fd w) (fa w) (fb w))
  | 18 => .ok (.minu (fd w) (fa w) (fb w))
  | 19 => .ok (.maxu (fd w) (fa w) (fb w))
  | 20 => zero (fb w == 0) (.clz (fd w) (fa w))
  | 21 => zero (fb w == 0) (.ctz (fd w) (fa w))
  | 22 => zero (fb w == 0) (.popc (fd w) (fa w))
  | 23 => .ok (.seq (fd w) (fa w) (fb w))
  | 24 => .ok (.sne (fd w) (fa w) (fb w))
  | 25 => .ok (.slt (fd w) (fa w) (fb w))
  | 26 => .ok (.sltu (fd w) (fa w) (fb w))
  | 27 => .ok (.sle (fd w) (fa w) (fb w))
  | 28 => .ok (.sleu (fd w) (fa w) (fb w))
  | 29 => .ok (.cmov (fd w) (fa w) (fb w))
  | 30 => .ok (.bfx (fd w) (fa w) (fb w))
  | 31 => .ok (.bfi (fd w) (fa w) (fb w))
  | n => .error (.fn 0 n)

/-- SATOM (R52, R226). -/
def satom (w : Nat) : Except Reject Instr :=
  match Scope.ofCode (bits w 3 1) with
  | none => .error .scope
  | some sc =>
    match bits w 7 4 with
    | 0 => .ok (.satomAdd (fd w) (fa w) (fb w) sc (bitOf w 0))
    | 1 => .ok (.satomAnd (fd w) (fa w) (fb w) sc (bitOf w 0))
    | 2 => .ok (.satomOr (fd w) (fa w) (fb w) sc (bitOf w 0))
    | 3 => .ok (.satomXor (fd w) (fa w) (fb w) sc (bitOf w 0))
    | 4 => .ok (.satomMin (fd w) (fa w) (fb w) sc (bitOf w 0))
    | 5 => .ok (.satomMax (fd w) (fa w) (fb w) sc (bitOf w 0))
    | 6 => .ok (.satomMinu (fd w) (fa w) (fb w) sc (bitOf w 0))
    | 7 => .ok (.satomMaxu (fd w) (fa w) (fb w) sc (bitOf w 0))
    | 8 => .ok (.satomXchg (fd w) (fa w) (fb w) sc (bitOf w 0))
    | 9 => .ok (.satomCas (fd w) (fa w) (fb w) sc (bitOf w 0))
    | n => .error (.fn 16 n)

/-- The SYS family (R98). -/
def sys (w : Nat) : Except Reject Instr :=
  let d := fd w == 0
  let a := fa w == 0
  let b := fb w == 0
  match bits w 7 0 with
  | 0 => zero (d && a && b) .sysNop
  | 1 => zero (d && a && b) .sysExit
  | 2 => zero (d && a && b) .sysYield
  | 3 => zero (d && b) (.sysSleep (fa w))
  | 4 => zero (d && b) (.sysTrap (fa w))
  | 5 => zero (d && a && b) .sysBrk
  | 6 => zero (a && b) (.sysClock (fd w))
  | 7 => zero b (.sysPtpread (fd w) (fa w))
  | n => .error (.fn 24 n)

/-- The AW family (R253). -/
def aw (w : Nat) : Except Reject Instr :=
  match bits w 7 0 with
  | 0 => zero (fd w == 0) (.awinit (fa w) (fb w))
  | 1 => .ok (.awexpect (fd w) (fa w) (fb w))
  | 2 => .ok (.awarrive (fd w) (fa w) (fb w))
  | 3 => .ok (.awwait (fd w) (fa w) (fb w))
  | 4 => .ok (.awtest (fd w) (fa w) (fb w))
  | n => .error (.fn 27 n)

/-- The PH family (R301). -/
def ph (w : Nat) : Except Reject Instr :=
  let d := fd w
  let a := fa w
  let b := fb w
  match bits w 7 0 with
  | 0 => .ok (.phnew d a b)
  | 1 => zero (b == 0) (.phfree d a)
  | 2 => .ok (.phjoin d a b)
  | 3 => zero (b == 0) (.phleave d a)
  | 4 => .ok (.phsig d a b)
  | 5 => .ok (.phsigb d a b)
  | 6 => .ok (.phwait d a b)
  | 7 => .ok (.phtest d a b)
  | 8 => .ok (.phany d a b)
  | 9 => .ok (.phval d a b)
  | 10 => zero (b == 0) (.phread d a)
  | n => .error (.fn 28 n)

/-- The CPY family (R52, R241). -/
def cpy (w : Nat) : Except Reject Instr :=
  let d := fd w
  let a := fa w
  let b := fb w
  let phs := bitOf w 6
  let ord := bitOf w 5
  let sto := bitOf w 4
  if bitOf w 7 then .error .unused else
  match bits w 3 0 with
  | 0 => zero (!ord) (.cpy d a b phs sto)
  | 1 => zero (!ord) (.cpy2 d a b phs sto)
  | 2 => zero (!ord) (.cpyw d a b phs sto)
  | 3 => zero (!ord) (.cpyx d a b phs sto)
  | 4 => zero (!ord) (.cpyfill d a b phs sto)
  | 5 => .ok (.cpyr d a b phs ord sto)
  | 6 => zero (!ord && !phs && !sto && a == 0) (.cpyst d b)
  | 7 => zero (!ord && !phs && !sto && a == 0) (.cpycan d b)
  | n => .error (.fn 29 n)

/-- The NET family (R357). -/
def net (w : Nat) : Except Reject Instr :=
  let d := fd w
  let a := fa w
  let b := fb w
  match bits w 7 0 with
  | 0 => .ok (.nput d a b)
  | 1 => .ok (.nget d a b)
  | 2 => .ok (.natom d a b)
  | 3 => .ok (.nsend d a b)
  | 4 => zero (b == 0) (.nkey d a)
  | 5 => .ok (.nchain d a b)
  | 6 => zero (b == 0) (.npoll d a)
  | 7 => .ok (.nrxpop d a b)
  | n => .error (.fn 30 n)

/-- The LAUNCH family (R396). -/
def launch (w : Nat) : Except Reject Instr :=
  let d := fd w
  let a := fa w
  let b := fb w
  match bits w 7 0 with
  | 0 => .ok (.enq d a b)
  | 1 => zero (b == 0) (.enqst d a)
  | 2 => .ok (.qwait d a b)
  | 3 => zero (b == 0) (.mighint d a)
  | n => .error (.fn 31 n)

/-- The PRIV family (R436). -/
def priv (w : Nat) : Except Reject Instr :=
  let d := fd w
  let a := fa w
  let b := fb w
  match bits w 7 0 with
  | 0 => zero (d == 0 && a == 0 && b == 0) .tret
  | 1 => .ok (.fragrd d a b)
  | 2 => zero (d == 0) (.pinv a b)
  | 3 => zero (d == 0) (.cwb a b)
  | 4 => zero (d == 0) (.cinv a b)
  | 5 => .ok (.dirtyget d a b)
  | 6 => zero (b == 0) (.teamhalt d a)
  | n => .error (.fn 32 n)

/-- A tile number in fn[4:0] (R260). -/
def tile (w : Nat) : BitVec 5 := BitVec.ofNat 5 (bits w 4 0)

/-- The matrix forms of one word (R260). -/
def matrix1 (op w : Nat) : Except Reject Instr :=
  let d := bits w 25 20
  let a := fa w
  let b := fb w
  let fn := bits w 7 0
  match op with
  | 0x28 => zero (d == 0 && a == 0 && b == 0 && fn < 32) (.mzero (tile w))
  | 0x29 => if fn / 32 > 1 then .error .reserved else zero (d < 2) (.macc (d == 1) a b (fn / 32 == 1) (tile w))
  | 0x2A => .ok (.mdrain (bitOf d 0) (bitOf d 1) (BitVec.ofNat 2 (bits d 3 2)) (BitVec.ofNat 2 (bits d 5 4)) a b
      (BitVec.ofNat 3 (bits w 7 5)) (tile w))
  | 0x2B => zero (a == 0 && b == 0 && fn < 32) (.mchk (fd w) (tile w))
  | 0x2C => zero (a == 0 && b == 0 && fn < 32) (.mloc (fd w) (tile w))
  | 0x2D => zero (d == 0 && b == 0 && fn < 32) (.mfix a (tile w))
  | 0x2E => zero (d == 0 && a == 0 && b == 0 && fn == 0) .mwait
  | n => .error (.op6 n)

/-- MMA and MMAS (R260). -/
def matrix2 (sparse : Bool) (w x : Nat) : Except Reject Instr :=
  let t := BitVec.ofNat 5 (bits w 24 20)
  let slot := BitVec.ofNat 5 (bits w 4 0)
  let lc := BitVec.ofNat 2 (bits w 7 6)
  let k := BitVec.ofNat 8 (bits x 7 0)
  let ap := BitVec.ofNat 12 (bits x 19 8)
  let sp := BitVec.ofNat 8 (bits x 27 20)
  zero (!bitOf w 25 && bits x 31 28 == 0)
    (if sparse then .mmas t (fa w) (fb w) slot (bitOf w 5) lc k ap sp else .mma t (fa w) (fb w) slot (bitOf w 5) lc k ap sp)

/-- Fields of the M form (R43). -/
def sz (w : Nat) : BitVec 2 := BitVec.ofNat 2 (bits w 13 12)
def imm12 (w : Nat) : BitVec 12 := BitVec.ofNat 12 (bits w 11 0)

/-- A shift immediate: imm14[13:6] must be zero (R48). -/
def shift (w : Nat) (i : Reg → Reg → BitVec 6 → Instr) : Except Reject Instr :=
  zero (bits w 13 6 == 0) (i (fd w) (fa w) (BitVec.ofNat 6 (bits w 5 0)))

/-- BR (R43, R47). -/
def branch (w : Nat) : Except Reject Instr :=
  match Cond.ofCode (bits w 25 23) with
  | none => .error .reserved
  | some cc => .ok (.br cc (BitVec.ofNat 6 (bits w 22 17)) (BitVec.ofNat 6 (bits w 16 11)) (BitVec.ofNat 11 (bits w 10 0)))

/-- FENCE (R55). -/
def fence (w : Nat) : Except Reject Instr :=
  match Scope.ofCode (bits w 4 2) with
  | none => .error .scope
  | some sc => zero (bits w 25 14 == 0 && bits w 13 7 == 0) (.fence (FOrder.ofCode (bits w 1 0)) sc (bitOf w 5) (bitOf w 6))

/-- OP6 dispatch (R48): `w` is word 0, `x` word 1 of a two-word instruction. -/
def scalarTerm (w x : Nat) : Except Reject Instr :=
  let d := fd w
  let a := fa w
  let b := fb w
  match bits w 31 26 with
  | 0x00 => alu w
  | 0x01 => .ok (.addi d a (imm14 w))
  | 0x02 => .ok (.andi d a (imm14 w))
  | 0x03 => .ok (.ori d a (imm14 w))
  | 0x04 => .ok (.xori d a (imm14 w))
  | 0x05 => shift w .shli
  | 0x06 => shift w .shri
  | 0x07 => shift w .sari
  | 0x08 => .ok (.slti d a (imm14 w))
  | 0x09 => .ok (.sltui d a (imm14 w))
  | 0x0A => .ok (.seqi d a (imm14 w))
  | 0x0B => .ok (.sld d a (sz w) (imm12 w))
  | 0x0C => .ok (.sldz d a (sz w) (imm12 w))
  | 0x0D => .ok (.sst d a (sz w) (imm12 w))
  | 0x0E => .ok (.sldp d a (sz w) (imm12 w))
  | 0x0F => .ok (.sstp d a (sz w) (imm12 w))
  | 0x10 => satom w
  | 0x11 => branch w
  | 0x12 => .ok (.j (BitVec.ofNat 26 (bits w 25 0)))
  | 0x13 => .ok (.jal (BitVec.ofNat 26 (bits w 25 0)))
  | 0x14 => .ok (.jr d a (imm14 w))
  | 0x15 => zero (d == 0) (.lgo a (imm14 w))
  | 0x16 => if bits w 13 0 > 3 then .error .reserved else zero (d == 0 && a == 0) (.lwait (BitVec.ofNat 2 (bits w 1 0)))
  | 0x17 => fence w
  | 0x18 => sys w
  | 0x19 => zero (a == 0) (.sget d (imm14 w))
  | 0x1A => zero (d == 0) (.sput a (imm14 w))
  | 0x1B => aw w
  | 0x1C => ph w
  | 0x1D => cpy w
  | 0x1E => net w
  | 0x1F => launch w
  | 0x20 => priv w
  | 0x38 => zero (a == 0 && b == 0 && bits w 7 0 == 0) (.li d (BitVec.ofNat 32 x))
  | 0x39 => zero (a == 0 && b == 0 && bits w 7 0 == 0) (.lih d (BitVec.ofNat 32 x))
  | 0x3A => zero (b == 0 && bits w 7 0 == 0) (.addx d a (BitVec.ofNat 32 x))
  | 0x3C => matrix2 false w x
  | 0x3D => matrix2 true w x
  | op => matrix1 op w

/-- The fields of a lane word (R56) from its three words, lowest first. -/
def laneFields (w0 w1 w2 : Nat) : LaneWord where
  vd := BitVec.ofNat 8 (bits w2 23 16)
  va := BitVec.ofNat 8 (bits w2 15 8)
  vb := BitVec.ofNat 8 (bits w2 7 0)
  vc := BitVec.ofNat 8 (bits w1 31 24)
  pm := BitVec.ofNat 3 (bits w1 23 21)
  pn := bitOf w1 20
  ty := BitVec.ofNat 4 (bits w1 19 16)
  md := BitVec.ofNat 4 (bits w1 15 12)
  sat := bitOf w1 11
  na := bitOf w1 10
  nb := bitOf w1 9
  abs := bitOf w1 8
  bu := bitOf w1 7
  cu := bitOf w1 6
  sub := BitVec.ofNat 6 (bits w1 5 0)
  imm := BitVec.ofNat 32 w0

/-- OP8 dispatch (R63). -/
def laneTerm (op : Nat) (f : LaneWord) : Except Reject Instr :=
  match op with
  | 0x01 => .ok (.vadd f)
  | 0x02 => .ok (.vsub f)
  | 0x03 => .ok (.vmul f)
  | 0x04 => .ok (.vmulh f)
  | 0x05 => .ok (.vmad f)
  | 0x06 => .ok (.vaddc f)
  | 0x07 => .ok (.vand f)
  | 0x08 => .ok (.vor f)
  | 0x09 => .ok (.vxor f)
  | 0x0A => .ok (.vshl f)
  | 0x0B => .ok (.vshr f)
  | 0x0C => .ok (.vsar f)
  | 0x0D => .ok (.vmin f)
  | 0x0E => .ok (.vmax f)
  | 0x0F => .ok (.vabs f)
  | 0x10 => .ok (.vclz f)
  | 0x11 => .ok (.vpopc f)
  | 0x12 => .ok (.vbfx f)
  | 0x13 => .ok (.vbfi f)
  | 0x14 => .ok (.vicmp f)
  | 0x15 => .ok (.vsel f)
  | 0x16 => .ok (.vmov f)
  | 0x17 => .ok (.vdiv f)
  | 0x18 => .ok (.vrem f)
  | 0x19 => .ok (.vsad f)
  | 0x1A => .ok (.vdot4 f)
  | 0x1B => .ok (.vsreg f)
  | 0x20 => .ok (.vfadd f)
  | 0x21 => .ok (.vfsub f)
  | 0x22 => .ok (.vfmul f)
  | 0x23 => .ok (.vfma f)
  | 0x24 => .ok (.vfmin f)
  | 0x25 => .ok (.vfmax f)
  | 0x26 => .ok (.vfcmp f)
  | 0x27 => .ok (.vfclass f)
  | 0x28 => .ok (.vfrcp f)
  | 0x29 => .ok (.vfrsq f)
  | 0x2A => .ok (.vfsqrt f)
  | 0x2B => .ok (.vfdiv f)
  | 0x2C => .ok (.vfexp2 f)
  | 0x2D => .ok (.vflog2 f)
  | 0x2E => .ok (.vfsin f)
  | 0x2F => .ok (.vfcos f)
  | 0x30 => .ok (.vfrnd f)
  | 0x31 => .ok (.vfldexp f)
  | 0x32 => .ok (.vfgetexp f)
  | 0x38 => .ok (.vcvt f)
  | 0x39 => .ok (.vqnt f)
  | 0x3A => .ok (.vdqnt f)
  | 0x40 => .ok (.vshfl f)
  | 0x41 => .ok (.vbcast f)
  | 0x42 => .ok (.vvote f)
  | 0x43 => .ok (.vreduce f)
  | 0x44 => .ok (.vscan f)
  | 0x45 => .ok (.vmatch f)
  | 0x48 => .ok (.mlog f)
  | 0x49 => .ok (.mpopc f)
  | 0x4A => .ok (.mfirst f)
  | 0x4B => .ok (.mset f)
  | 0x4C => .ok (.mget f)
  | 0x4D => .ok (.mput f)
  | 0x50 => .ok (.lbr f)
  | 0x51 => .ok (.ljmp f)
  | 0x52 => .ok (.ljmpi f)
  | 0x53 => .ok (.lpad f)
  | 0x54 => .ok (.lcall f)
  | 0x55 => .ok (.lcalli f)
  | 0x56 => .ok (.lret f)
  | 0x57 => .ok (.ljoin f)
  | 0x58 => .ok (.lend f)
  | 0x59 => .ok (.lexit f)
  | 0x5A => .ok (.lbar f)
  | 0x5B => .ok (.lfrag f)
  | 0x5C => .ok (.lnop f)
  | 0x60 => .ok (.vld f)
  | 0x61 => .ok (.vst f)
  | 0x62 => .ok (.vldp f)
  | 0x63 => .ok (.vstp f)
  | 0x64 => .ok (.vldf f)
  | 0x65 => .ok (.vatom f)
  | 0x66 => .ok (.vred f)
  | 0x67 => .ok (.vcas f)
  | 0x68 => .ok (.vpref f)
  | 0x69 => .ok (.vldr f)
  | 0x6A => .ok (.vstr f)
  | 0x6B => .ok (.vatomr f)
  | 0x6C => .ok (.vfence f)
  | 0x70 => .ok (.ltrap f)
  | 0x71 => .ok (.lkill f)
  | 0x72 => .ok (.lresume f)
  | 0x73 => .ok (.lorigin f)
  | 0x74 => .ok (.voget f)
  | 0x75 => .ok (.voput f)
  | n => .error (.op8 n)

/-- Reject a term that breaks a rule (R46, R62). -/
def checked (r : Except Reject Instr) : Except Reject Instr :=
  match r with
  | .error e => .error e
  | .ok i => match i.flaw with
    | none => .ok i
    | some w => .error (.flaw w)

end Dec

/-- Words of a scalar-stream or matrix-stream instruction, from OP6 alone (R38, R41). -/
def scalarWords (w0 : Half) : Nat := if 0x38 ≤ bits w0.toNat 31 26 then 2 else 1

/-- Decode a scalar-stream or matrix-stream instruction; `w1` is read only by two-word forms. -/
def decodeScalar (w0 w1 : Half) : Except Reject Instr := Dec.checked (Dec.scalarTerm w0.toNat w1.toNat)

/-- Decode a lane instruction from its three words, lowest first (R39, R56). -/
def decodeLane (w0 w1 w2 : Half) : Except Reject Instr :=
  Dec.checked (Dec.laneTerm (bits w2.toNat 31 24) (Dec.laneFields w0.toNat w1.toNat w2.toNat))

/-- A little-endian 32-bit word of code bytes (R37). -/
def wordLE (bs : List Byte) : Half := BitVec.ofNat 32 (natLE (bs.take 4))

/-- Decode scalar code bytes: the instruction and the bytes after it. -/
def decodeScalarBytes (bs : List Byte) : Except Reject (Instr × List Byte) :=
  if bs.length < 4 then .error .short else
  let n := 4 * scalarWords (wordLE bs)
  if bs.length < n then .error .short else
  match decodeScalar (wordLE bs) (wordLE (bs.drop 4)) with
  | .error e => .error e
  | .ok i => .ok (i, bs.drop n)

/-- Decode lane code bytes: the instruction and the bytes after it. -/
def decodeLaneBytes (bs : List Byte) : Except Reject (Instr × List Byte) :=
  if bs.length < 12 then .error .short else
  match decodeLane (wordLE bs) (wordLE (bs.drop 4)) (wordLE (bs.drop 8)) with
  | .error e => .error e
  | .ok i => .ok (i, bs.drop 12)

/-- The host's question: the instruction read from `w`, bit 0 the least significant bit of the first word. A row of more than 64
bits is a lane instruction; any other is a scalar-stream or matrix-stream one. -/
def decodeTableWord (nbits w : Nat) : Option Instr :=
  let bs := bytesLE 12 (w % 2 ^ nbits)
  let r := if nbits > 64 then decodeLaneBytes bs else decodeScalarBytes bs
  match r with
  | .ok (i, _) => some i
  | .error _ => none

namespace Enc

/-- The R form (R43). -/
def r (op d a b fn : Nat) : Nat := op * 2 ^ 26 + d * 2 ^ 20 + a * 2 ^ 14 + b * 2 ^ 8 + fn
/-- The I form (R43). -/
def i (op d a imm : Nat) : Nat := op * 2 ^ 26 + d * 2 ^ 20 + a * 2 ^ 14 + imm
/-- The M form (R43). -/
def m (op d a sz imm : Nat) : Nat := i op d a (sz * 2 ^ 12 + imm)
/-- fn of CPY (R52). -/
def cpyFn (kind : Nat) (phs ord sto : Bool) : Nat := phs.toNat * 64 + ord.toNat * 32 + sto.toNat * 16 + kind

/-- One word. -/
def one (x : Nat) : List Half := [BitVec.ofNat 32 x]
/-- Two words of the X form (R43). -/
def two (x y : Nat) : List Half := [BitVec.ofNat 32 x, BitVec.ofNat 32 y]

/-- The three words of a lane instruction, lowest first (R39, R56). -/
def lane (op : Nat) (f : LaneWord) : List Half :=
  [f.imm,
   BitVec.ofNat 32 (f.vc.toNat * 2 ^ 24 + f.pm.toNat * 2 ^ 21 + f.pn.toNat * 2 ^ 20 + f.ty.toNat * 2 ^ 16 + f.md.toNat * 2 ^ 12 +
     f.sat.toNat * 2 ^ 11 + f.na.toNat * 2 ^ 10 + f.nb.toNat * 2 ^ 9 + f.abs.toNat * 2 ^ 8 + f.bu.toNat * 2 ^ 7 +
     f.cu.toNat * 2 ^ 6 + f.sub.toNat),
   BitVec.ofNat 32 (op * 2 ^ 24 + f.vd.toNat * 2 ^ 16 + f.va.toNat * 2 ^ 8 + f.vb.toNat)]

/-- Word 1 of MMA and MMAS (R260). -/
def mma1 (k ap sp : Nat) : Nat := sp * 2 ^ 20 + ap * 2 ^ 8 + k

end Enc

/-- The words of an instruction, lowest address first; the part's events have none. -/
def encode : Instr → List Half
  | .add d a b => Enc.one (Enc.r 0 d.toNat a.toNat b.toNat 0)
  | .sub d a b => Enc.one (Enc.r 0 d.toNat a.toNat b.toNat 1)
  | .and d a b => Enc.one (Enc.r 0 d.toNat a.toNat b.toNat 2)
  | .or d a b => Enc.one (Enc.r 0 d.toNat a.toNat b.toNat 3)
  | .xor d a b => Enc.one (Enc.r 0 d.toNat a.toNat b.toNat 4)
  | .andn d a b => Enc.one (Enc.r 0 d.toNat a.toNat b.toNat 5)
  | .shl d a b => Enc.one (Enc.r 0 d.toNat a.toNat b.toNat 6)
  | .shr d a b => Enc.one (Enc.r 0 d.toNat a.toNat b.toNat 7)
  | .sar d a b => Enc.one (Enc.r 0 d.toNat a.toNat b.toNat 8)
  | .mul d a b => Enc.one (Enc.r 0 d.toNat a.toNat b.toNat 9)
  | .mulhu d a b => Enc.one (Enc.r 0 d.toNat a.toNat b.toNat 10)
  | .mulhs d a b => Enc.one (Enc.r 0 d.toNat a.toNat b.toNat 11)
  | .divu d a b => Enc.one (Enc.r 0 d.toNat a.toNat b.toNat 12)
  | .remu d a b => Enc.one (Enc.r 0 d.toNat a.toNat b.toNat 13)
  | .divs d a b => Enc.one (Enc.r 0 d.toNat a.toNat b.toNat 14)
  | .rems d a b => Enc.one (Enc.r 0 d.toNat a.toNat b.toNat 15)
  | .min d a b => Enc.one (Enc.r 0 d.toNat a.toNat b.toNat 16)
  | .max d a b => Enc.one (Enc.r 0 d.toNat a.toNat b.toNat 17)
  | .minu d a b => Enc.one (Enc.r 0 d.toNat a.toNat b.toNat 18)
  | .maxu d a b => Enc.one (Enc.r 0 d.toNat a.toNat b.toNat 19)
  | .clz d a => Enc.one (Enc.r 0 d.toNat a.toNat 0 20)
  | .ctz d a => Enc.one (Enc.r 0 d.toNat a.toNat 0 21)
  | .popc d a => Enc.one (Enc.r 0 d.toNat a.toNat 0 22)
  | .seq d a b => Enc.one (Enc.r 0 d.toNat a.toNat b.toNat 23)
  | .sne d a b => Enc.one (Enc.r 0 d.toNat a.toNat b.toNat 24)
  | .slt d a b => Enc.one (Enc.r 0 d.toNat a.toNat b.toNat 25)
  | .sltu d a b => Enc.one (Enc.r 0 d.toNat a.toNat b.toNat 26)
  | .sle d a b => Enc.one (Enc.r 0 d.toNat a.toNat b.toNat 27)
  | .sleu d a b => Enc.one (Enc.r 0 d.toNat a.toNat b.toNat 28)
  | .cmov d a b => Enc.one (Enc.r 0 d.toNat a.toNat b.toNat 29)
  | .bfx d a b => Enc.one (Enc.r 0 d.toNat a.toNat b.toNat 30)
  | .bfi d a b => Enc.one (Enc.r 0 d.toNat a.toNat b.toNat 31)
  | .addi d a imm => Enc.one (Enc.i 0x01 d.toNat a.toNat imm.toNat)
  | .andi d a imm => Enc.one (Enc.i 0x02 d.toNat a.toNat imm.toNat)
  | .ori d a imm => Enc.one (Enc.i 0x03 d.toNat a.toNat imm.toNat)
  | .xori d a imm => Enc.one (Enc.i 0x04 d.toNat a.toNat imm.toNat)
  | .slti d a imm => Enc.one (Enc.i 0x08 d.toNat a.toNat imm.toNat)
  | .sltui d a imm => Enc.one (Enc.i 0x09 d.toNat a.toNat imm.toNat)
  | .seqi d a imm => Enc.one (Enc.i 0x0A d.toNat a.toNat imm.toNat)
  | .jr d a imm => Enc.one (Enc.i 0x14 d.toNat a.toNat imm.toNat)
  | .shli d a n => Enc.one (Enc.i 0x05 d.toNat a.toNat n.toNat)
  | .shri d a n => Enc.one (Enc.i 0x06 d.toNat a.toNat n.toNat)
  | .sari d a n => Enc.one (Enc.i 0x07 d.toNat a.toNat n.toNat)
  | .sld d a sz imm => Enc.one (Enc.m 0x0B d.toNat a.toNat sz.toNat imm.toNat)
  | .sldz d a sz imm => Enc.one (Enc.m 0x0C d.toNat a.toNat sz.toNat imm.toNat)
  | .sst d a sz imm => Enc.one (Enc.m 0x0D d.toNat a.toNat sz.toNat imm.toNat)
  | .sldp d a sz imm => Enc.one (Enc.m 0x0E d.toNat a.toNat sz.toNat imm.toNat)
  | .sstp d a sz imm => Enc.one (Enc.m 0x0F d.toNat a.toNat sz.toNat imm.toNat)
  | .satomAdd d a b sc wide => Enc.one (Enc.r 0x10 d.toNat a.toNat b.toNat (0 * 16 + sc.code * 2 + wide.toNat))
  | .satomAnd d a b sc wide => Enc.one (Enc.r 0x10 d.toNat a.toNat b.toNat (1 * 16 + sc.code * 2 + wide.toNat))
  | .satomOr d a b sc wide => Enc.one (Enc.r 0x10 d.toNat a.toNat b.toNat (2 * 16 + sc.code * 2 + wide.toNat))
  | .satomXor d a b sc wide => Enc.one (Enc.r 0x10 d.toNat a.toNat b.toNat (3 * 16 + sc.code * 2 + wide.toNat))
  | .satomMin d a b sc wide => Enc.one (Enc.r 0x10 d.toNat a.toNat b.toNat (4 * 16 + sc.code * 2 + wide.toNat))
  | .satomMax d a b sc wide => Enc.one (Enc.r 0x10 d.toNat a.toNat b.toNat (5 * 16 + sc.code * 2 + wide.toNat))
  | .satomMinu d a b sc wide => Enc.one (Enc.r 0x10 d.toNat a.toNat b.toNat (6 * 16 + sc.code * 2 + wide.toNat))
  | .satomMaxu d a b sc wide => Enc.one (Enc.r 0x10 d.toNat a.toNat b.toNat (7 * 16 + sc.code * 2 + wide.toNat))
  | .satomXchg d a b sc wide => Enc.one (Enc.r 0x10 d.toNat a.toNat b.toNat (8 * 16 + sc.code * 2 + wide.toNat))
  | .satomCas d a b sc wide => Enc.one (Enc.r 0x10 d.toNat a.toNat b.toNat (9 * 16 + sc.code * 2 + wide.toNat))
  | .br cc a b off => Enc.one (0x11 * 2 ^ 26 + cc.code * 2 ^ 23 + a.toNat * 2 ^ 17 + b.toNat * 2 ^ 11 + off.toNat)
  | .j off => Enc.one (0x12 * 2 ^ 26 + off.toNat)
  | .jal off => Enc.one (0x13 * 2 ^ 26 + off.toNat)
  | .lgo a imm => Enc.one (Enc.i 0x15 0 a.toNat imm.toNat)
  | .lwait n => Enc.one (Enc.i 0x16 0 0 n.toNat)
  | .fence o sc ack opr => Enc.one (Enc.i 0x17 0 0 (opr.toNat * 64 + ack.toNat * 32 + sc.code * 4 + o.code))
  | .sysNop => Enc.one (Enc.r 0x18 0 0 0 0)
  | .sysExit => Enc.one (Enc.r 0x18 0 0 0 1)
  | .sysYield => Enc.one (Enc.r 0x18 0 0 0 2)
  | .sysSleep a => Enc.one (Enc.r 0x18 0 a.toNat 0 3)
  | .sysTrap a => Enc.one (Enc.r 0x18 0 a.toNat 0 4)
  | .sysBrk => Enc.one (Enc.r 0x18 0 0 0 5)
  | .sysClock d => Enc.one (Enc.r 0x18 d.toNat 0 0 6)
  | .sysPtpread d a => Enc.one (Enc.r 0x18 d.toNat a.toNat 0 7)
  | .sget d idx => Enc.one (Enc.i 0x19 d.toNat 0 idx.toNat)
  | .sput a idx => Enc.one (Enc.i 0x1A 0 a.toNat idx.toNat)
  | .awinit a b => Enc.one (Enc.r 0x1B 0 a.toNat b.toNat 0)
  | .awexpect d a b => Enc.one (Enc.r 0x1B d.toNat a.toNat b.toNat 1)
  | .awarrive d a b => Enc.one (Enc.r 0x1B d.toNat a.toNat b.toNat 2)
  | .awwait d a b => Enc.one (Enc.r 0x1B d.toNat a.toNat b.toNat 3)
  | .awtest d a b => Enc.one (Enc.r 0x1B d.toNat a.toNat b.toNat 4)
  | .phnew d a b => Enc.one (Enc.r 0x1C d.toNat a.toNat b.toNat 0)
  | .phfree d a => Enc.one (Enc.r 0x1C d.toNat a.toNat 0 1)
  | .phjoin d a b => Enc.one (Enc.r 0x1C d.toNat a.toNat b.toNat 2)
  | .phleave d a => Enc.one (Enc.r 0x1C d.toNat a.toNat 0 3)
  | .phsig d a b => Enc.one (Enc.r 0x1C d.toNat a.toNat b.toNat 4)
  | .phsigb d a b => Enc.one (Enc.r 0x1C d.toNat a.toNat b.toNat 5)
  | .phwait d a b => Enc.one (Enc.r 0x1C d.toNat a.toNat b.toNat 6)
  | .phtest d a b => Enc.one (Enc.r 0x1C d.toNat a.toNat b.toNat 7)
  | .phany d a b => Enc.one (Enc.r 0x1C d.toNat a.toNat b.toNat 8)
  | .phval d a b => Enc.one (Enc.r 0x1C d.toNat a.toNat b.toNat 9)
  | .phread d a => Enc.one (Enc.r 0x1C d.toNat a.toNat 0 10)
  | .cpy d a b phs sto => Enc.one (Enc.r 0x1D d.toNat a.toNat b.toNat (Enc.cpyFn 0 phs false sto))
  | .cpy2 d a b phs sto => Enc.one (Enc.r 0x1D d.toNat a.toNat b.toNat (Enc.cpyFn 1 phs false sto))
  | .cpyw d a b phs sto => Enc.one (Enc.r 0x1D d.toNat a.toNat b.toNat (Enc.cpyFn 2 phs false sto))
  | .cpyx d a b phs sto => Enc.one (Enc.r 0x1D d.toNat a.toNat b.toNat (Enc.cpyFn 3 phs false sto))
  | .cpyfill d a b phs sto => Enc.one (Enc.r 0x1D d.toNat a.toNat b.toNat (Enc.cpyFn 4 phs false sto))
  | .cpyr d a b phs ord sto => Enc.one (Enc.r 0x1D d.toNat a.toNat b.toNat (Enc.cpyFn 5 phs ord sto))
  | .cpyst d b => Enc.one (Enc.r 0x1D d.toNat 0 b.toNat 6)
  | .cpycan d b => Enc.one (Enc.r 0x1D d.toNat 0 b.toNat 7)
  | .nput d a b => Enc.one (Enc.r 0x1E d.toNat a.toNat b.toNat 0)
  | .nget d a b => Enc.one (Enc.r 0x1E d.toNat a.toNat b.toNat 1)
  | .natom d a b => Enc.one (Enc.r 0x1E d.toNat a.toNat b.toNat 2)
  | .nsend d a b => Enc.one (Enc.r 0x1E d.toNat a.toNat b.toNat 3)
  | .nkey d a => Enc.one (Enc.r 0x1E d.toNat a.toNat 0 4)
  | .nchain d a b => Enc.one (Enc.r 0x1E d.toNat a.toNat b.toNat 5)
  | .npoll d a => Enc.one (Enc.r 0x1E d.toNat a.toNat 0 6)
  | .nrxpop d a b => Enc.one (Enc.r 0x1E d.toNat a.toNat b.toNat 7)
  | .enq d a b => Enc.one (Enc.r 0x1F d.toNat a.toNat b.toNat 0)
  | .enqst d a => Enc.one (Enc.r 0x1F d.toNat a.toNat 0 1)
  | .qwait d a b => Enc.one (Enc.r 0x1F d.toNat a.toNat b.toNat 2)
  | .mighint d a => Enc.one (Enc.r 0x1F d.toNat a.toNat 0 3)
  | .tret => Enc.one (Enc.r 0x20 0 0 0 0)
  | .fragrd d a b => Enc.one (Enc.r 0x20 d.toNat a.toNat b.toNat 1)
  | .pinv a b => Enc.one (Enc.r 0x20 0 a.toNat b.toNat 2)
  | .cwb a b => Enc.one (Enc.r 0x20 0 a.toNat b.toNat 3)
  | .cinv a b => Enc.one (Enc.r 0x20 0 a.toNat b.toNat 4)
  | .dirtyget d a b => Enc.one (Enc.r 0x20 d.toNat a.toNat b.toNat 5)
  | .teamhalt d a => Enc.one (Enc.r 0x20 d.toNat a.toNat 0 6)
  | .li d imm => Enc.two (Enc.r 0x38 d.toNat 0 0 0) imm.toNat
  | .lih d imm => Enc.two (Enc.r 0x39 d.toNat 0 0 0) imm.toNat
  | .addx d a imm => Enc.two (Enc.r 0x3A d.toNat a.toNat 0 0) imm.toNat
  | .mzero t => Enc.one (Enc.r 0x28 0 0 0 t.toNat)
  | .macc g a b save t => Enc.one (Enc.r 0x29 g.toNat a.toNat b.toNat (save.toNat * 32 + t.toNat))
  | .mdrain g z rnd lc a b fmt t =>
      Enc.one (Enc.r 0x2A (lc.toNat * 16 + rnd.toNat * 4 + z.toNat * 2 + g.toNat) a.toNat b.toNat (fmt.toNat * 32 + t.toNat))
  | .mchk d t => Enc.one (Enc.r 0x2B d.toNat 0 0 t.toNat)
  | .mloc d t => Enc.one (Enc.r 0x2C d.toNat 0 0 t.toNat)
  | .mfix a t => Enc.one (Enc.r 0x2D 0 a.toNat 0 t.toNat)
  | .mwait => Enc.one (Enc.r 0x2E 0 0 0 0)
  | .mma t a b slot bi4 lc k ap sp =>
      Enc.two (Enc.r 0x3C t.toNat a.toNat b.toNat (lc.toNat * 64 + bi4.toNat * 32 + slot.toNat)) (Enc.mma1 k.toNat ap.toNat sp.toNat)
  | .mmas t a b slot bi4 lc k ap sp =>
      Enc.two (Enc.r 0x3D t.toNat a.toNat b.toNat (lc.toNat * 64 + bi4.toNat * 32 + slot.toNat)) (Enc.mma1 k.toNat ap.toNat sp.toNat)
  | .vadd f => Enc.lane 0x01 f
  | .vsub f => Enc.lane 0x02 f
  | .vmul f => Enc.lane 0x03 f
  | .vmulh f => Enc.lane 0x04 f
  | .vmad f => Enc.lane 0x05 f
  | .vaddc f => Enc.lane 0x06 f
  | .vand f => Enc.lane 0x07 f
  | .vor f => Enc.lane 0x08 f
  | .vxor f => Enc.lane 0x09 f
  | .vshl f => Enc.lane 0x0A f
  | .vshr f => Enc.lane 0x0B f
  | .vsar f => Enc.lane 0x0C f
  | .vmin f => Enc.lane 0x0D f
  | .vmax f => Enc.lane 0x0E f
  | .vabs f => Enc.lane 0x0F f
  | .vclz f => Enc.lane 0x10 f
  | .vpopc f => Enc.lane 0x11 f
  | .vbfx f => Enc.lane 0x12 f
  | .vbfi f => Enc.lane 0x13 f
  | .vicmp f => Enc.lane 0x14 f
  | .vsel f => Enc.lane 0x15 f
  | .vmov f => Enc.lane 0x16 f
  | .vdiv f => Enc.lane 0x17 f
  | .vrem f => Enc.lane 0x18 f
  | .vsad f => Enc.lane 0x19 f
  | .vdot4 f => Enc.lane 0x1A f
  | .vsreg f => Enc.lane 0x1B f
  | .vfadd f => Enc.lane 0x20 f
  | .vfsub f => Enc.lane 0x21 f
  | .vfmul f => Enc.lane 0x22 f
  | .vfma f => Enc.lane 0x23 f
  | .vfmin f => Enc.lane 0x24 f
  | .vfmax f => Enc.lane 0x25 f
  | .vfcmp f => Enc.lane 0x26 f
  | .vfclass f => Enc.lane 0x27 f
  | .vfrcp f => Enc.lane 0x28 f
  | .vfrsq f => Enc.lane 0x29 f
  | .vfsqrt f => Enc.lane 0x2A f
  | .vfdiv f => Enc.lane 0x2B f
  | .vfexp2 f => Enc.lane 0x2C f
  | .vflog2 f => Enc.lane 0x2D f
  | .vfsin f => Enc.lane 0x2E f
  | .vfcos f => Enc.lane 0x2F f
  | .vfrnd f => Enc.lane 0x30 f
  | .vfldexp f => Enc.lane 0x31 f
  | .vfgetexp f => Enc.lane 0x32 f
  | .vcvt f => Enc.lane 0x38 f
  | .vqnt f => Enc.lane 0x39 f
  | .vdqnt f => Enc.lane 0x3A f
  | .vshfl f => Enc.lane 0x40 f
  | .vbcast f => Enc.lane 0x41 f
  | .vvote f => Enc.lane 0x42 f
  | .vreduce f => Enc.lane 0x43 f
  | .vscan f => Enc.lane 0x44 f
  | .vmatch f => Enc.lane 0x45 f
  | .mlog f => Enc.lane 0x48 f
  | .mpopc f => Enc.lane 0x49 f
  | .mfirst f => Enc.lane 0x4A f
  | .mset f => Enc.lane 0x4B f
  | .mget f => Enc.lane 0x4C f
  | .mput f => Enc.lane 0x4D f
  | .lbr f => Enc.lane 0x50 f
  | .ljmp f => Enc.lane 0x51 f
  | .ljmpi f => Enc.lane 0x52 f
  | .lpad f => Enc.lane 0x53 f
  | .lcall f => Enc.lane 0x54 f
  | .lcalli f => Enc.lane 0x55 f
  | .lret f => Enc.lane 0x56 f
  | .ljoin f => Enc.lane 0x57 f
  | .lend f => Enc.lane 0x58 f
  | .lexit f => Enc.lane 0x59 f
  | .lbar f => Enc.lane 0x5A f
  | .lfrag f => Enc.lane 0x5B f
  | .lnop f => Enc.lane 0x5C f
  | .vld f => Enc.lane 0x60 f
  | .vst f => Enc.lane 0x61 f
  | .vldp f => Enc.lane 0x62 f
  | .vstp f => Enc.lane 0x63 f
  | .vldf f => Enc.lane 0x64 f
  | .vatom f => Enc.lane 0x65 f
  | .vred f => Enc.lane 0x66 f
  | .vcas f => Enc.lane 0x67 f
  | .vpref f => Enc.lane 0x68 f
  | .vldr f => Enc.lane 0x69 f
  | .vstr f => Enc.lane 0x6A f
  | .vatomr f => Enc.lane 0x6B f
  | .vfence f => Enc.lane 0x6C f
  | .ltrap f => Enc.lane 0x70 f
  | .lkill f => Enc.lane 0x71 f
  | .lresume f => Enc.lane 0x72 f
  | .lorigin f => Enc.lane 0x73 f
  | .voget f => Enc.lane 0x74 f
  | .voput f => Enc.lane 0x75 f
  | _ => []

/-- Whether a term is one of the 222 instructions (R64), as against an event of the part. -/
def Instr.coded (i : Instr) : Bool := !(encode i).isEmpty

/-- Whether an instruction is a lane instruction (R63). -/
def Instr.isLane (i : Instr) : Bool := (encode i).length == 3

/-- Decode the words of an instruction, lowest address first. -/
def decodeWords : List Half → Except Reject Instr
  | [w0] => if scalarWords w0 == 1 then decodeScalar w0 0 else .error .short
  | [w0, w1] => decodeScalar w0 w1
  | [w0, w1, w2] => decodeLane w0 w1 w2
  | _ => .error .short

end Sys2Proof
end

