-- ==== Sys2Proof/Machine/Fetch.lean ====
section
/-! DEFINITION. Instruction fetch (R38 to R42, R90) and its faults (FETCH_FAULT, ILLEGAL_INSTRUCTION). -/

namespace Sys2Proof.Machine

/-- What a fetch gives. -/
inductive Fetched where
  | words (ws : List Half)
  /-- A failed check: detail 1 ABSENT or 2 NOTEXEC, fault address, STRADDLE (R41). -/
  | fail (detail addr : Nat) (straddle : Bool)
  | poison
  deriving DecidableEq, Repr

/-- The issuing stream fetches lane code (R39). -/
def State.laneFetch (s : State) : Bool := match s.cur with | .path _ _ _ => true | _ => false

/-- The line of a fetch comes into the core's scalar or lane instruction cache, in the place of the oldest of a full one (R19, R178)
(DESIGN CHOICE, log entry 37). -/
def State.fillFetch (s : State) (die core space va pa : Nat) : State :=
  let lane := s.laneFetch
  s.modDie die fun D =>
    let k := 2 * core + lane.toNat
    let ls := D.icache.get k []
    if ls.any fun l => l.holds space va && l.pa == pa / 128 then D
    else { D with icache := D.icache.ins k (({ asid := space, va := va / 128, pa := pa / 128 } :: ls.filter fun l => !l.holds space va).take (Config.icacheLines lane)) }

/-- The contents that a fetched word may have: the newest, and what stood there since the sub-launch started (R42) (DESIGN CHOICE, log entry 34);
anything where the line's mappings break R179. `page` is the page of the fetch. -/
def State.wordAt (s : State) (t va : Nat) (page : Page) (pa : Nat) : Fetched × State :=
  let D := s.die (s.team t).origin
  if D.poisoned pa then (.poison, s)
  else if D.aliased (s.team t).space va page pa then
    let (x, s) := s.draw 32
    (.words [BitVec.ofNat 32 x], s)
  else
    let new : Half := BitVec.ofNat 32 (D.rd pa 4)
    let ws := new :: ((s.team t).old.get (pa / 4) []).filter (· != new)
    let (k, s) := s.choose ws.length
    (.words [ws.getD k new], s)

/-- The line of an address that the fetching cache of the team's core holds. -/
def State.heldFetch (s : State) (t va : Nat) : Option Nat :=
  let T := s.team t
  (((s.die T.die).icache.get (2 * T.core + s.laneFetch.toNat) []).find? fun l => l.holds T.space va).map fun l => l.pa * 128 + va % 128

/-- One code word: contents, or the failing detail, or poison. A line that the instruction cache still holds when PINV has covered its mapping is
used or not, until CINV (R178, R191). -/
def State.fetchWord (s : State) (t va : Nat) : Fetched × State :=
  let T := s.team t
  if va ≥ 2 ^ 52 ∨ isWindow va then (.fail 2 va false, s)
  else
    let held := s.heldFetch t va
    let D := s.die (T.space / 4096)
    let stale (n : Nat) : Bool := held.any (fun p => p != n && !D.inUse T.space va (p / 128)) && s.use T.space va 5 2 == 0
    match s.translate T.space va with
    | (.error c, s) => if stale Config.physBytes then s.wordAt t va {} (held.getD 0) else (.fail (if c = cABSENT then 1 else 2) va false, s)
    | (.ok x, s) =>
      if stale (x.pa va) then s.wordAt t va x.page (held.getD 0)
      else if !x.page.x || !tailOk x va then (.fail 2 va false, s)
      else if x.page.a then s.wordAt t va x.page (x.pa va)
      else ((s.mapped (T.space / 4096) T.space va x.page (x.pa va)).fillFetch T.die T.core T.space va (x.pa va)).wordAt t va x.page (x.pa va)

/-- `n` code words from `va`; a failing later page is named with STRADDLE (R41). The words are checked in order, and the first failure is the
one reported, poison in the first page before a failing second page (DEDUCED, log entry 36). -/
def State.fetchWords (s : State) (t va : Nat) : Nat → Fetched × State
  | 0 => (.words [], s)
  | n + 1 =>
    match s.fetchWords t va n with
    | (.words ws, s) => match s.fetchWord t (va + 4 * n) with
      | (.words w, s) => (.words (ws ++ w), s)
      | (.fail d a _, s) => if a / 4096 = va / 4096 then (.fail d va false, s) else (.fail d a true, s)
      | (.poison, s) => (.poison, s)
    | r => r

/-- The byte address of a lane instruction (R39). -/
def Team.laneAddr (T : Team) (i : Nat) : Nat := T.lanebase + 12 * i

/-- FETCH_FAULT (R41): the fetch of the issuing stream's next instruction has failed. Cause 11 with detail 1 ABSENT or 2 NOTEXEC, or
cause 14, detail 4, for poisoned bytes. -/
def execFetchFault (cause : BitVec 8) (detail : BitVec 8) (addr : Nat) (straddle : Bool) (s : State) : Out :=
  let code := cause.toNat * 256 + detail.toNat
  match s.cur with
  | .path t w b =>
    if !s.pathLive t w b then .fault .noIssuer
    else
      let p := s.path t w b
      if cause = 14 then .next ((s.laneDeath t w p.mem 1).settle t)
      else .next ((s.parkAll t w p [(lanesOf p.mem).map fun l => ⟨l, code, addr, straddle⟩] (p.mem &&& ~~~p.m0)).1.settle t)
  | .warp t w =>
    if !s.warpLive t w then .fault .noIssuer
    else if cause = 14 then .next (s.streamPoison 4 4 addr)
    else if code = cFETCHABSENT then .next (s.setWait (.absent (s.team t).space (addr / 4096)))
    else .next (s.streamFault { code := code, addr := addr, straddle := straddle })
  | .seq t =>
    if !s.seqLive t then .fault .noIssuer
    else if cause = 14 then .next (s.streamPoison 4 4 addr)
    else if code = cFETCHABSENT then .next (s.setWait (.absent (s.team t).space (addr / 4096)))
    else .next (s.streamFault { code := code, addr := addr, straddle := straddle })
  | .none => .fault .noIssuer

/-- ILLEGAL_INSTRUCTION (R46, R50, R62): the issuing stream has met a word that encodes no instruction for it. -/
def execIllegalInstruction (s : State) : Out :=
  match s.cur with
  | .path t w b => if !s.pathLive t w b then .fault .noIssuer else .next s.illegal
  | .warp t w => if s.warpLive t w then .next s.illegal else .fault .noIssuer
  | .seq t => if s.seqLive t then .next s.illegal else .fault .noIssuer
  | .none => .fault .noIssuer

end Sys2Proof.Machine
end

