-- ==== Sys2Proof/Machine/Scalar.lean ====
section
/-! DEFINITION. The scalar-stream instructions of R85 to R103 but SYS.EXIT and SYS.YIELD: arithmetic, immediates, transfers, lane
blocks, sleep, clocks and control registers. -/

namespace Sys2Proof.Machine

/-- 1 or 0. -/
def b2w (p : Bool) : Word := if p then 1 else 0

/-- Leading zero bits of the w-bit form; w for 0. -/
def clzNat (w x : Nat) : Nat := if x = 0 then w else w - 1 - x.log2

/-- Trailing zero bits of the w-bit form; w for 0. -/
def ctzNat (w x : Nat) : Nat := ((List.range w).find? fun i => bitOf x i).getD w

/-- One bits of the w-bit form. -/
def popNat (w x : Nat) : Nat := ((List.range w).filter fun i => bitOf x i).length

/-- (old and not ((2^q − 1) · 2^p)) or ((x mod 2^q) · 2^p), R86 and R119. -/
def insertField (old x p q : Nat) : Nat := old - old / 2 ^ p % 2 ^ q * 2 ^ p + x % 2 ^ q * 2 ^ p

/-- The frame of the ALU family (R85): both operands are read, then s_d is written. -/
def aluR (d a b : Reg) (g : Word → Word → Word) (s : State) : Out :=
  scalar true true [d, a, b] [a.toNat, b.toNat] s (.next (s.result d (g (s.reg a) (s.reg b))))

/-- The frame of one-operand forms. -/
def alu1 (d a : Reg) (g : Word → Word) (s : State) : Out :=
  scalar true true [d, a] [a.toNat] s (.next (s.result d (g (s.reg a))))

/-- The frame of the immediate forms (R87). -/
def aluI (d a : Reg) (imm : BitVec 14) (g : Word → BitVec 14 → Word) (s : State) : Out :=
  scalar true true [d, a] [a.toNat] s (.next (s.result d (g (s.reg a) imm)))

/-- ADD (R85). -/
def execAdd (d a b : Reg) (s : State) : Out := aluR d a b (fun x y => x + y) s

/-- SUB (R85). -/
def execSub (d a b : Reg) (s : State) : Out := aluR d a b (fun x y => x - y) s

/-- AND (R85). -/
def execAnd (d a b : Reg) (s : State) : Out := aluR d a b (fun x y => x &&& y) s

/-- OR (R85). -/
def execOr (d a b : Reg) (s : State) : Out := aluR d a b (fun x y => x ||| y) s

/-- XOR (R85). -/
def execXor (d a b : Reg) (s : State) : Out := aluR d a b (fun x y => x ^^^ y) s

/-- ANDN (R85). -/
def execAndn (d a b : Reg) (s : State) : Out := aluR d a b (fun x y => x &&& ~~~y) s

/-- SHL (R85). -/
def execShl (d a b : Reg) (s : State) : Out := aluR d a b (fun x y => x <<< (y.toNat % 64)) s

/-- SHR (R85). -/
def execShr (d a b : Reg) (s : State) : Out := aluR d a b (fun x y => x >>> (y.toNat % 64)) s

/-- SAR (R85). -/
def execSar (d a b : Reg) (s : State) : Out := aluR d a b (fun x y => x.sshiftRight (y.toNat % 64)) s

/-- MUL (R85). -/
def execMul (d a b : Reg) (s : State) : Out := aluR d a b (fun x y => x * y) s

/-- MULHU (R85). -/
def execMulhu (d a b : Reg) (s : State) : Out := aluR d a b (fun x y => BitVec.ofNat 64 (x.toNat * y.toNat / 2 ^ 64)) s

/-- MULHS (R85). -/
def execMulhs (d a b : Reg) (s : State) : Out := aluR d a b (fun x y => toWord (x.toInt * y.toInt / 2 ^ 64)) s

/-- DIVU (R85). -/
def execDivu (d a b : Reg) (s : State) : Out := aluR d a b (fun x y => if y = 0 then ~~~0 else x / y) s

/-- REMU (R85). -/
def execRemu (d a b : Reg) (s : State) : Out := aluR d a b (fun x y => if y = 0 then x else x % y) s

/-- DIVS (R85). -/
def execDivs (d a b : Reg) (s : State) : Out := aluR d a b (fun x y => if y = 0 then ~~~0 else x.sdiv y) s

/-- REMS (R85). -/
def execRems (d a b : Reg) (s : State) : Out := aluR d a b (fun x y => if y = 0 then x else x.srem y) s

/-- MIN (R85). -/
def execMin (d a b : Reg) (s : State) : Out := aluR d a b (fun x y => if y.slt x then y else x) s

/-- MAX (R85). -/
def execMax (d a b : Reg) (s : State) : Out := aluR d a b (fun x y => if x.slt y then y else x) s

/-- MINU (R85). -/
def execMinu (d a b : Reg) (s : State) : Out := aluR d a b (fun x y => if y.ult x then y else x) s

/-- MAXU (R85). -/
def execMaxu (d a b : Reg) (s : State) : Out := aluR d a b (fun x y => if x.ult y then y else x) s

/-- SEQ (R85). -/
def execSeq (d a b : Reg) (s : State) : Out := aluR d a b (fun x y => b2w (x == y)) s

/-- SNE (R85). -/
def execSne (d a b : Reg) (s : State) : Out := aluR d a b (fun x y => b2w (x != y)) s

/-- SLT (R85). -/
def execSlt (d a b : Reg) (s : State) : Out := aluR d a b (fun x y => b2w (x.slt y)) s

/-- SLTU (R85). -/
def execSltu (d a b : Reg) (s : State) : Out := aluR d a b (fun x y => b2w (x.ult y)) s

/-- SLE (R85). -/
def execSle (d a b : Reg) (s : State) : Out := aluR d a b (fun x y => b2w (!y.slt x)) s

/-- SLEU (R85). -/
def execSleu (d a b : Reg) (s : State) : Out := aluR d a b (fun x y => b2w (!y.ult x)) s

/-- CLZ (R85). -/
def execClz (d a : Reg) (s : State) : Out := alu1 d a (fun x => BitVec.ofNat 64 (clzNat 64 x.toNat)) s

/-- CTZ (R85). -/
def execCtz (d a : Reg) (s : State) : Out := alu1 d a (fun x => BitVec.ofNat 64 (ctzNat 64 x.toNat)) s

/-- POPC (R85). -/
def execPopc (d a : Reg) (s : State) : Out := alu1 d a (fun x => BitVec.ofNat 64 (popNat 64 x.toNat)) s

/-- CMOV (R85): s_d keeps its value when s_b is zero. -/
def execCmov (d a b : Reg) (s : State) : Out :=
  scalar true true [d, a, b] [d.toNat, a.toNat, b.toNat] s (.next (s.result d (if s.reg b = 0 then s.reg d else s.reg a)))

/-- BFX (R86): position s_b[5:0], width s_b[13:8]. -/
def execBfx (d a b : Reg) (s : State) : Out :=
  aluR d a b (fun x y => BitVec.ofNat 64 (x.toNat / 2 ^ bits y.toNat 5 0 % 2 ^ bits y.toNat 13 8)) s

/-- BFI (R86): inserts into the old value of s_d. -/
def execBfi (d a b : Reg) (s : State) : Out :=
  scalar true true [d, a, b] [d.toNat, a.toNat, b.toNat] s
    (.next (s.result d (BitVec.ofNat 64 (insertField (s.reg d).toNat (s.reg a).toNat (bits (s.reg b).toNat 5 0) (bits (s.reg b).toNat 13 8)))))

/-- ADDI (R87). -/
def execAddi (d a : Reg) (imm : BitVec 14) (s : State) : Out := aluI d a imm (fun x i => x + i.signExtend 64) s

/-- ANDI (R87). -/
def execAndi (d a : Reg) (imm : BitVec 14) (s : State) : Out := aluI d a imm (fun x i => x &&& i.zeroExtend 64) s

/-- ORI (R87). -/
def execOri (d a : Reg) (imm : BitVec 14) (s : State) : Out := aluI d a imm (fun x i => x ||| i.zeroExtend 64) s

/-- XORI (R87). -/
def execXori (d a : Reg) (imm : BitVec 14) (s : State) : Out := aluI d a imm (fun x i => x ^^^ i.zeroExtend 64) s

/-- SLTI (R87). -/
def execSlti (d a : Reg) (imm : BitVec 14) (s : State) : Out := aluI d a imm (fun x i => b2w (x.slt (i.signExtend 64))) s

/-- SLTUI (R87). -/
def execSltui (d a : Reg) (imm : BitVec 14) (s : State) : Out := aluI d a imm (fun x i => b2w (x.ult (i.signExtend 64))) s

/-- SEQI (R87). -/
def execSeqi (d a : Reg) (imm : BitVec 14) (s : State) : Out := aluI d a imm (fun x i => b2w (x == i.signExtend 64)) s

/-- SHLI (R87). -/
def execShli (d a : Reg) (n : BitVec 6) (s : State) : Out := alu1 d a (fun x => x <<< n.toNat) s

/-- SHRI (R87). -/
def execShri (d a : Reg) (n : BitVec 6) (s : State) : Out := alu1 d a (fun x => x >>> n.toNat) s

/-- SARI (R87). -/
def execSari (d a : Reg) (n : BitVec 6) (s : State) : Out := alu1 d a (fun x => x.sshiftRight n.toNat) s

/-- LI (R88). -/
def execLi (d : Reg) (imm : Half) (s : State) : Out :=
  scalar true true [d] [] s (.next ((s.setReg d (imm.signExtend 64)).advance 8))

/-- LIH (R88): the low half of s_d stays. -/
def execLih (d : Reg) (imm : Half) (s : State) : Out :=
  scalar true true [d] [d.toNat] s (.next ((s.setReg d (imm ++ (s.reg d).truncate 32)).advance 8))

/-- ADDX (R88). -/
def execAddx (d a : Reg) (imm : Half) (s : State) : Out :=
  scalar true true [d, a] [a.toNat] s (.next ((s.setReg d (s.reg a + imm.signExtend 64)).advance 8))

/-! ### Transfers (R89, R90) -/

/-- A transfer of control to `x`, refused where it is misaligned (R38): `k` is the state that goes on. The fault address of the refusal, which the
spec does not state, is the target (DEDUCED, log entry 36). -/
def transfer (s : State) (x : Word) (k : State) : Out :=
  if x.toNat % 4 = 0 then .next (k.advance 0 |>.setPc x) else .next (s.streamFault { code := cALIGN, addr := x.toNat })

/-- BR (R89). -/
def execBr (cc : Cond) (a b : Reg) (off : BitVec 11) (s : State) : Out :=
  scalar true true [a, b] [a.toNat, b.toNat] s
    (if condHolds cc (s.reg a) (s.reg b) then transfer s (s.pc + 4 * off.signExtend 64) s else .next (s.advance 4))

/-- J (R89). -/
def execJ (off : BitVec 26) (s : State) : Out :=
  scalar true true [] [] s (transfer s (s.pc + 4 * off.signExtend 64) s)

/-- JAL (R89): the link goes to s31, or t31 in the matrix stream, once no earlier matrix operation writes it (R80). -/
def execJal (off : BitVec 26) (s : State) : Out :=
  scalar true true [31] [] s (transfer s (s.pc + 4 * off.signExtend 64) (s.setSreg 31 (s.pc + 4)))

/-- JR (R89): s_a is read before s_d is written. -/
def execJr (d a : Reg) (imm : BitVec 14) (s : State) : Out :=
  scalar true true [d, a] [a.toNat] s (transfer s (s.baseImm a imm) (s.setReg d (s.pc + 4)))

/-! ### Lane blocks (R91, R92, R96) -/

/-- The shared registers s32 to s63 as they stand (R92). -/
def Warp.shareds (W : Warp) : Map Word := W.s.filter fun x => decide (x.1 ≥ 32)

/-- LGO (R92): with the queue full it does not issue. -/
def execLgo (a : Reg) (imm : BitVec 14) (s : State) : Out :=
  warpOnly [a] (a.toNat :: (List.range 32).map (32 + ·)) s <|
    let x : Int := (s.reg a).toNat + imm.toInt
    if x < 0 ∨ x > 65535 then .next s.illegal
    else match s.cur with
      | .warp t w =>
        if (s.warp t w).queue.length ≥ Config.laneQueue then stay s
        else .next ((s.modWarp t w fun W =>
          { W with queue := W.queue ++ [{ start := x.toNat, snap := W.shareds, written := 0, stream := W.stream, before := W.writes }] }).advance 4)
      | _ => .next s.illegal

/-- LWAIT (R96): waits until at most n entries remain. -/
def execLwait (n : BitVec 2) (s : State) : Out :=
  warpOnly [] [] s <|
    match s.cur with
    | .warp t w => if (s.warp t w).queue.length ≤ n.toNat then .next (s.advance 4) else stay s
    | _ => .next s.illegal

/-! ### The SYS family (R98, R101 to R103) -/

/-- SYS.NOP (R98). -/
def execSysNop (s : State) : Out := warpOnly [] [] s (.next (s.advance 4))

/-- SYS.SLEEP (R101): a time of 0 is SYS.NOP; else the scalar stream waits for its nanoseconds. -/
def execSysSleep (a : Reg) (s : State) : Out :=
  warpOnly [a] [a.toNat] s <|
    match s.waiting with
    | .sleep till => if till ≤ s.now then .next (s.advance 4) else stay s
    | _ =>
      let ns := (s.reg a).toNat % 2 ^ 32
      if ns = 0 then .next (s.advance 4) else .next (s.setWait (.sleep (s.now + Config.nsCycles ns)))

/-- SLEEP_EXPIRY (R101): the sleep of a warp ends when its time has passed. -/
def execSleepExpiry (t w : Nat) (s : State) : Out :=
  match (s.warp t w).wait with
  | .sleep till => if till ≤ s.now then .next (s.modWarp t w fun W => { W with wait := .none, spc := W.spc + 4 }) else .next s
  | _ => .next s

/-- SYS.TRAP (R98): warp-level fault, cause software trap, with the code s_a[15:0]. -/
def execSysTrap (a : Reg) (s : State) : Out :=
  warpOnly [a] [a.toNat] s (.next (s.streamFault { code := cSWTRAP, swcode := (s.reg a).toNat % 2 ^ 16 }))

/-- SYS.BRK (R98): warp-level fault, cause breakpoint. -/
def execSysBrk (s : State) : Out := warpOnly [] [] s (.next (s.streamFault { code := cBREAK }))

/-- SYS.CLOCK (R102): core cycles since the die's last reset. -/
def execSysClock (d : Reg) (s : State) : Out :=
  warpOnly [d] [] s (.next (s.result d (BitVec.ofNat 64 (s.die (s.team s.me).die).cycles)))

/-- SYS.PTPREAD (R103): both results come from one reading of the clock. -/
def execSysPtpread (d a : Reg) (s : State) : Out :=
  warpOnly [d, a] [] s
    (.next (((s.setReg d (BitVec.ofNat 64 s.time)).setReg a (BitVec.ofNat 64 (s.ptpNs / 10 ^ 9 / 2 ^ 32 % 2 ^ 16))).advance 4))

/-! ### Control registers (R81 to R83) -/

/-- MSTAT from its stored fields (R258). -/
def Team.mstat (T : Team) : Nat :=
  T.badcols * 2 ^ 40 + T.badrows * 2 ^ 32 + T.mq.length * 2 ^ 28 + T.fcause * 2 ^ 24 + T.ftile * 2 ^ 16 + T.frozen.toNat * 2 ^ 8 + T.retry

/-- What SGET reads at an index; none for a reserved index (R81, R82). `w` is the warp, 32 for the sequencer. TEAMID is the whole linear index,
though R81 gives it 32 bits and R375 allows grids of more teams (DEDUCED, log entry 36). -/
def State.crGet (s : State) (t w idx : Nat) : Option Nat :=
  let T := s.team t
  match idx with
  | 0x00 => some T.teamid
  | 0x01 => some T.xyz
  | 0x02 => some T.grid
  | 0x03 => some w
  | 0x04 => some T.nwarps
  | 0x05 => some (T.die * 256 + T.core)
  | 0x06 => some T.subidx
  | 0x07 => some T.part
  | 0x08 => some T.lanebase
  | 0x09 => some T.asid
  | 0x0A => some T.prio
  | 0x0B => some (if w = 32 then 0 else (T.warp w).dead.toNat)
  | 0x10 => some (if w = 32 then T.seq.stream else (T.warp w).stream)
  | 0x11 => some ((s.die T.origin).space.get (T.asid % 4096 * 64) 0).toNat
  | 0x20 => some T.mstat
  | 0x21 => some T.mretry
  | 0x22 => some T.mtol8
  | 0x23 => some T.mtol4
  | 0x24 => some T.minj.toNat
  | _ =>
    if 0x40 ≤ idx ∧ idx < 0x60 ∧ idx % 4 ≠ 3 then some ((s.die T.origin).space.get (T.asid % 4096 * 64 + (idx - 0x40) + 1) 0).toNat else none

/-- Access is RW for STREAM, MRETRY, MTOL_BI8, MTOL_BI4 and MINJ (R81); reserved bits of MINJ read zero (R9, R259). SPUT to MINJ leaves
the operation that holds the injection with its captured state (R259). -/
def State.crPut (s : State) (t w idx : Nat) (x : Word) : State :=
  match idx with
  | 0x10 => if w = 32 then s.modSeq t fun q => { q with stream := x.toNat % 2 ^ 16 } else s.modWarp t w fun W => { W with stream := x.toNat % 2 ^ 16 }
  | 0x21 => s.modTeam t fun T => { T with mretry := x.toNat % 256 }
  | 0x22 => s.modTeam t fun T => { T with mtol8 := x.toNat % 256 }
  | 0x23 => s.modTeam t fun T => { T with mtol4 := x.toNat % 256 }
  | 0x24 => s.modTeam t fun T => { T with minj := x &&& 0xFFFFFFFFFF3F3F33, mq := T.mq.map fun o => { o with detachedInj := o.detachedInj || o.inj.isSome } }
  | _ => s

/-- A warp that may execute the PRIV family (R49). -/
def State.mayPriv (s : State) : Bool :=
  match s.cur with
  | .warp t _ => (s.team t).pmgr || (s.team t).handler
  | _ => false

/-- TRAPVEC and the SWINk registers of an address space, written by a warp that may execute PRIV (R82). -/
def State.spacePut (s : State) (t idx : Nat) (x : Word) : State :=
  let T := s.team t
  let v : Word := if idx ≠ 0x11 ∧ idx % 4 = 2 then x &&& 3 else x
  let k := if idx = 0x11 then 0 else idx - 0x40 + 1
  s.modDie T.origin fun D => { D with space := D.space.put 0 (T.asid % 4096 * 64 + k) v }

/-- A register of an address space (R81). -/
def spaceReg (idx : Nat) : Bool := idx == 0x11 || (decide (0x40 ≤ idx) && decide (idx < 0x60) && idx % 4 != 3)

/-- SGET (R83). -/
def execSget (d : Reg) (idx : BitVec 14) (s : State) : Out :=
  scalar true true [d] [] s <|
    match s.cur.ids with
    | some (t, w) => match s.crGet t w idx.toNat with
      | some x => .next (s.result d (BitVec.ofNat 64 x))
      | none => .next s.illegal
    | none => .fault .noIssuer

/-- SPUT (R82, R83). -/
def execSput (a : Reg) (idx : BitVec 14) (s : State) : Out :=
  scalar true true [a] [a.toNat] s <|
    match s.cur.ids with
    | some (t, w) => match s.crGet t w idx.toNat with
      | some _ =>
        if spaceReg idx.toNat then .next ((if s.mayPriv then s.spacePut t idx.toNat (s.reg a) else s).advance 4)
        else .next ((s.crPut t w idx.toNat (s.reg a)).advance 4)
      | none => .next s.illegal
    | none => .fault .noIssuer

end Sys2Proof.Machine
end

