-- ==== Sys2Proof/Machine/LaneArith.lean ====
section
/-! DEFINITION. Lane arithmetic, conversion and quantisation: OP8 0x01 to 0x3A (R117 to R131). -/

namespace Sys2Proof.Machine

/-- The packed types F16x2, BF16x2 and I16x2 (R57). -/
def packed (ty : BitVec 4) : Bool := ty == 6 || ty == 7 || ty == 8

/-- Work element by element: two 16-bit elements under a packed type, else one. -/
def elem3 (ty : BitVec 4) (g : Nat → Nat → Nat → Nat) (a b c : Nat) : Nat :=
  if packed ty then
    g (a % 2 ^ 16) (b % 2 ^ 16) (c % 2 ^ 16) % 2 ^ 16 + 2 ^ 16 * (g (a / 2 ^ 16 % 2 ^ 16) (b / 2 ^ 16 % 2 ^ 16) (c / 2 ^ 16 % 2 ^ 16) % 2 ^ 16)
  else g a b c

/-- Registers read through a, through a and b, and through a, b and c. -/
def rdA (f : LaneWord) : List Nat := regs1 (Lane.wide f.ty) f.va
def rdAB (f : LaneWord) : List Nat := rdA f ++ regsB f (Lane.wide f.ty)
def rdABC (f : LaneWord) : List Nat := rdAB f ++ regsC f (Lane.wide f.ty)
/-- As rdAB, with only the low word of b (R119, R124). -/
def rdALow (f : LaneWord) : List Nat := rdA f ++ regsB f false

/-- A lane instruction that writes vd element by element from a, b and c (R66, R113). -/
def laneElem (f : LaneWord) (reads : List Nat) (g : Nat → Nat → Nat → Nat) (s : State) : Out :=
  let w := Lane.wide f.ty
  laneWrites f reads (fun W l => out1 w f.vd (elem3 f.ty g (W.opa f w l) (W.opb f w l) (W.opc f w l))) s

/-- An integer instruction: the exact result is fitted (R115). -/
def laneInt (f : LaneWord) (reads : List Nat) (g : Int → Int → Int → Int) (s : State) : Out :=
  laneElem f reads (fun a b c => fit f.ty f.sat (g (readTy f.ty a) (readTy f.ty b) (readTy f.ty c))) s

/-- A count under a pair type goes to vd with zero in vd+1, as any 64-bit result below 2^32 does. -/
def laneBits (f : LaneWord) (reads : List Nat) (g : Nat → Nat → Nat → Nat) (s : State) : Out :=
  laneElem f reads (fun a b c => g a b c % 2 ^ widthTy f.ty) s

/-- VADD (R117). -/
def execVadd (f : LaneWord) (s : State) : Out := laneInt f (rdAB f) (fun a b _ => a + b) s

/-- VSUB (R117). -/
def execVsub (f : LaneWord) (s : State) : Out := laneInt f (rdAB f) (fun a b _ => a - b) s

/-- VMUL (R117). -/
def execVmul (f : LaneWord) (s : State) : Out := laneInt f (rdAB f) (fun a b _ => a * b) s

/-- VMULH (R117). -/
def execVmulh (f : LaneWord) (s : State) : Out := laneInt f (rdAB f) (fun a b _ => a * b / 2 ^ widthTy f.ty) s

/-- VMAD (R117). -/
def execVmad (f : LaneWord) (s : State) : Out := laneInt f (rdABC f) (fun a b c => a * b + c) s

/-- VADDC (R118): the carry-in mask is read before the carry-out mask is written. -/
def execVaddc (f : LaneWord) (s : State) : Out :=
  lane s fun t w b =>
    let W := s.warp t w
    let e := s.eff t w b f
    let bad := W.badLanes e (rdAB f)
    let ls := lanesOf (e &&& ~~~bad)
    let ci := bits f.sub.toNat 5 3
    let co := bits f.sub.toNat 2 0
    let sum (l : Nat) : Nat := sumC (W.opa f false l) (W.opb f false l) (ci != 0 && W.mbit b ci l)
    let s := s.modWarp t w fun V =>
      let V := ls.foldl (fun V l => V.setV f.vd.toNat l (BitVec.ofNat 32 (sum l))) V
      if co = 0 then V else V.writeMask b co (maskOf ls) (maskOf (ls.filter fun l => bitOf (sum l) 32))
    .next (s.laneEnd t w b bad)

/-- VAND (R117). -/
def execVand (f : LaneWord) (s : State) : Out := laneBits f (rdAB f) (fun a b _ => a &&& b) s

/-- VOR (R117). -/
def execVor (f : LaneWord) (s : State) : Out := laneBits f (rdAB f) (fun a b _ => a ||| b) s

/-- VXOR (R117). -/
def execVxor (f : LaneWord) (s : State) : Out := laneBits f (rdAB f) (fun a b _ => a ^^^ b) s

/-- VSHL (R117). -/
def execVshl (f : LaneWord) (s : State) : Out := laneElem f (rdAB f) (fun a b _ => fit f.ty f.sat (readTy f.ty a * 2 ^ min b 64)) s

/-- VSHR (R117). -/
def execVshr (f : LaneWord) (s : State) : Out := laneBits f (rdAB f) (fun a b _ => a / 2 ^ min b 64) s

/-- VSAR (R117). -/
def execVsar (f : LaneWord) (s : State) : Out := laneElem f (rdAB f) (fun a b _ => wrap (sext a (widthTy f.ty) / 2 ^ min b 64) (widthTy f.ty)) s

/-- VMIN (R117). -/
def execVmin (f : LaneWord) (s : State) : Out := laneInt f (rdAB f) (fun a b _ => min a b) s

/-- VMAX (R117). -/
def execVmax (f : LaneWord) (s : State) : Out := laneInt f (rdAB f) (fun a b _ => max a b) s

/-- VABS (R117). -/
def execVabs (f : LaneWord) (s : State) : Out := laneInt f (rdA f) (fun a _ _ => |a|) s

/-- VCLZ (R117). -/
def execVclz (f : LaneWord) (s : State) : Out := laneBits f (rdA f) (fun a _ _ => clzNat (widthTy f.ty) a) s

/-- VPOPC (R117). -/
def execVpopc (f : LaneWord) (s : State) : Out := laneBits f (rdA f) (fun a _ _ => popNat (widthTy f.ty) a) s

/-- VBFX (R119). -/
def execVbfx (f : LaneWord) (s : State) : Out :=
  laneElem f (rdALow f) (fun a b _ =>
    let q := bits b 13 8
    let x := a / 2 ^ bits b 5 0 % 2 ^ q
    if signedTy f.ty && q != 0 then wrap (sext x q) (widthTy f.ty) else x % 2 ^ widthTy f.ty) s

/-- VBFI (R119): inserts into operand c. -/
def execVbfi (f : LaneWord) (s : State) : Out :=
  laneBits f (rdALow f ++ regsC f (Lane.wide f.ty)) (fun a b c => insertField c a (bits b 5 0) (bits b 13 8)) s

/-- VICMP (R120): md is the condition, sub[2:0] the mask. -/
def execVicmp (f : LaneWord) (s : State) : Out :=
  let w := Lane.wide f.ty
  laneMask f (rdAB f) (bits f.sub.toNat 2 0)
    (fun W _ l => icond f.md.toNat (readTy f.ty (W.opa f w l)) (readTy f.ty (W.opb f w l))) s

/-- VSEL (R121): the whole pair is chosen under a 64-bit type. -/
def execVsel (f : LaneWord) (s : State) : Out :=
  let w := Lane.wide f.ty
  laneWrites f (rdAB f) (fun W l =>
    out1 w f.vd (if (W.m.get (bits f.sub.toNat 2 0) 0).getLsbD l then W.opa f w l else W.opb f w l)) s

/-- The value that VMOV takes from imm32 (R121). -/
def vmovImm (ty : Nat) (imm : Half) : Nat :=
  if ty = 2 then (imm.signExtend 64).toNat
  else if ty = 5 then f64.enc 0 (f32.dec imm.toNat)
  else imm.toNat

/-- VMOV (R121): sub[0] chooses the immediate. -/
def execVmov (f : LaneWord) (s : State) : Out :=
  let w := Lane.wide f.ty
  if f.sub.getLsbD 0 then laneWrites f [] (fun _ _ => out1 w f.vd (vmovImm f.ty.toNat f.imm)) s
  else laneWrites f (regsB f w) (fun W l => out1 w f.vd (W.opb f w l)) s

/-- Quotient and remainder of R122 on exact integers; `w` is the width, `sg` the type's sign. -/
def divInt (sg : Bool) (w : Nat) (x y : Int) : Int := if y = 0 then (if sg then -1 else 2 ^ w - 1) else x.tdiv y
def remInt (x y : Int) : Int := if y = 0 then x else x - y * x.tdiv y

/-- VDIV (R122). -/
def execVdiv (f : LaneWord) (s : State) : Out := laneInt f (rdAB f) (fun a b _ => divInt (signedTy f.ty) (widthTy f.ty) a b) s

/-- VREM (R122). -/
def execVrem (f : LaneWord) (s : State) : Out := laneInt f (rdAB f) (fun a b _ => remInt a b) s

/-- Byte `j` of a word. -/
def byteOf (x j : Nat) : Nat := x / 2 ^ (8 * j) % 256

/-- VSAD (R117): unsigned bytes. -/
def execVsad (f : LaneWord) (s : State) : Out :=
  laneElem f (rdABC f) (fun a b c => fit f.ty f.sat (readTy f.ty c +
    ((List.range 4).map fun j => |((byteOf a j : Nat) : Int) - (byteOf b j : Nat)|).sum)) s

/-- VDOT4 (R117): bytes are signed under I32, unsigned under N32. -/
def execVdot4 (f : LaneWord) (s : State) : Out :=
  let g (x j : Nat) : Int := if signedTy f.ty then sext (byteOf x j) 8 else (byteOf x j : Nat)
  laneElem f (rdABC f) (fun a b c => fit f.ty f.sat (readTy f.ty c + ((List.range 4).map fun j => g a j * g b j).sum)) s

/-- VSREG (R123): the lowest lane with effect gives the value; when none has effect nothing is written. Only that lane's word is read, and may be
found uncorrectable (DESIGN CHOICE, log entry 37). -/
def execVsreg (f : LaneWord) (s : State) : Out :=
  lane s fun t w b =>
    let W := s.warp t w
    match lowest (s.eff t w b f) with
    | none => .next (s.nextIdx t w b)
    | some l =>
      let bad := W.badLanes (maskOf [l]) (rdA f)
      if bad = 0 then
        .next ((s.modWarp t w fun V => V.setSnap (32 + f.sub.toNat % 32) (BitVec.ofNat 64 (W.opa f (Lane.wide f.ty) l))).nextIdx t w b)
      else .next (s.laneEnd t w b bad)

/-! ### Floating point (R124 to R127) -/

/-- An operand after abs and negation (R116). -/
def fmods (abs neg : Bool) (v : FV) : FV := let v := if abs then v.abs else v; if neg then v.neg else v

/-- The rounding direction (R59). -/
def rmode (f : LaneWord) : Nat := bits f.md.toNat 1 0

/-- A floating instruction: operands are read and modified, the result's bits saturated where asked (R116). -/
def laneFloat (f : LaneWord) (reads : List Nat) (g : Fmt → Nat → FV → FV → FV → Nat) (s : State) : Out :=
  let t := fmtOf f.ty.toNat
  laneElem f reads (fun a b c =>
    let r := g t (rmode f) (fmods f.abs f.na (t.dec a)) (fmods f.abs f.nb (t.dec b)) (t.dec c)
    if f.sat then t.sat r else r) s

/-- VFADD (R124). -/
def execVfadd (f : LaneWord) (s : State) : Out := laneFloat f (rdAB f) (fun t m a b _ => t.enc m (a.add m b)) s

/-- VFSUB (R124). -/
def execVfsub (f : LaneWord) (s : State) : Out := laneFloat f (rdAB f) (fun t m a b _ => t.enc m (a.add m b.neg)) s

/-- VFMUL (R124). -/
def execVfmul (f : LaneWord) (s : State) : Out := laneFloat f (rdAB f) (fun t m a b _ => t.enc m (a.mul b)) s

/-- VFMA (R124). -/
def execVfma (f : LaneWord) (s : State) : Out := laneFloat f (rdABC f) (fun t m a b c => t.enc m ((a.mul b).add m c)) s

/-- VFMIN (R124). -/
def execVfmin (f : LaneWord) (s : State) : Out := laneFloat f (rdAB f) (fun t _ a b _ => t.enc 0 (FV.pick false a b)) s

/-- VFMAX (R124). -/
def execVfmax (f : LaneWord) (s : State) : Out := laneFloat f (rdAB f) (fun t _ a b _ => t.enc 0 (FV.pick true a b)) s

/-- VFRCP (R127). -/
def execVfrcp (f : LaneWord) (s : State) : Out := laneFloat f (rdA f) (fun _ _ a _ _ => rcp32 a) s

/-- VFRSQ (R127). -/
def execVfrsq (f : LaneWord) (s : State) : Out := laneFloat f (rdA f) (fun _ _ a _ _ => rsq32 a) s

/-- VFSQRT (R124). -/
def execVfsqrt (f : LaneWord) (s : State) : Out := laneFloat f (rdA f) (fun t m a _ _ => t.sqrt m a) s

/-- VFDIV (R124). -/
def execVfdiv (f : LaneWord) (s : State) : Out := laneFloat f (rdAB f) (fun t m a b _ => t.div m a b) s

/-- VFEXP2 (R127). -/
def execVfexp2 (f : LaneWord) (s : State) : Out := laneFloat f (rdA f) (fun _ _ a _ _ => exp2_32 a) s

/-- VFLOG2 (R127). -/
def execVflog2 (f : LaneWord) (s : State) : Out := laneFloat f (rdA f) (fun _ _ a _ _ => log2_32 a) s

/-- VFSIN (R127). -/
def execVfsin (f : LaneWord) (s : State) : Out := laneFloat f (rdA f) (fun _ _ a _ _ => sin32 a) s

/-- VFCOS (R127). -/
def execVfcos (f : LaneWord) (s : State) : Out := laneFloat f (rdA f) (fun _ _ a _ _ => cos32 a) s

/-- VFRND (R124). -/
def execVfrnd (f : LaneWord) (s : State) : Out := laneFloat f (rdA f) (fun t m a _ _ => t.rint m a) s

/-- VFGETEXP (R124). -/
def execVfgetexp (f : LaneWord) (s : State) : Out := laneFloat f (rdA f) (fun t _ a _ _ => t.logb a) s

/-- Conditions of VFCMP (R125). -/
def fcond (k : Nat) (a b : FV) : Bool :=
  match a.cmp b with
  | none => k == 1 || k == 6
  | some o => match k with
    | 0 => o == .eq
    | 1 => o != .eq
    | 2 => o == .lt
    | 3 => o != .gt
    | 4 => o == .gt
    | 5 => o != .lt
    | 6 => false
    | _ => true

/-- VFCMP (R125). -/
def execVfcmp (f : LaneWord) (s : State) : Out :=
  let w := Lane.wide f.ty
  let t := fmtOf f.ty.toNat
  laneMask f (rdAB f) (bits f.sub.toNat 2 0)
    (fun W _ l => fcond f.md.toNat (fmods f.abs f.na (t.dec (W.opa f w l))) (fmods f.abs f.nb (t.dec (W.opb f w l)))) s

/-- Bits after the modifiers; a NaN keeps its kind (R116, R126). -/
def bitMods (t : Fmt) (abs neg : Bool) (x : Nat) : Nat :=
  let x := if abs then x % t.sign else x
  if neg then (if x < t.sign then x + t.sign else x - t.sign) else x

/-- VFCLASS (R126): one class word per element, zero in vd+1 under F64. -/
def execVfclass (f : LaneWord) (s : State) : Out :=
  let t := fmtOf f.ty.toNat
  laneElem f (rdA f) (fun a _ _ => t.cls (bitMods t f.abs f.na a)) s

/-- VFLDEXP (R124): the count is the low word of operand b, or its 16-bit element; abs acts on a only. -/
def execVfldexp (f : LaneWord) (s : State) : Out :=
  let t := fmtOf f.ty.toNat
  laneElem f (rdALow f) (fun a b _ =>
    let n := max (-10000) (min 10000 (sext b (if packed f.ty then 16 else 32)))
    match fmods f.abs f.na (t.dec a) with
    | .fin g m e => t.enc (rmode f) (.fin g m (e + n))
    | v => t.enc 0 v) s

/-! ### Conversion (R128, R129) -/

/-- A floating type code. -/
def isFloat (ty : Nat) : Bool := ty == 4 || ty == 5 || ty == 6 || ty == 7

/-- One element converted, a floating one after its modifiers (R116, R129). -/
def convElem (dst src : BitVec 4) (mode : Nat) (sat abs neg : Bool) (x : Nat) : Nat :=
  if isFloat src.toNat then
    let v := fmods abs neg ((fmtOf src.toNat).dec x)
    if isFloat dst.toNat then
      if dst = src then (if v = .nan then (fmtOf dst.toNat).nan else bitMods (fmtOf src.toNat) abs neg x) else (fmtOf dst.toNat).enc mode v
    else
      let w := widthTy dst
      let lo : Int := if signedTy dst then -(2 ^ (w - 1) : Int) else 0
      let hi : Int := if signedTy dst then (2 ^ (w - 1) : Int) - 1 else (2 ^ w : Int) - 1
      wrap (floatToInt mode lo hi v) w
  else if isFloat dst.toNat then (fmtOf dst.toNat).enc mode (intVal (readTy src x))
  else fit dst sat (readTy src x)

/-- Element `i` of a packed word. -/
def half16 (x : Nat) (i : Bool) : Nat := if i then x / 2 ^ 16 % 2 ^ 16 else x % 2 ^ 16

/-- VCVT (R128): sub[3:0] is the source type, sub[4] the element when exactly one type is packed. -/
def execVcvt (f : LaneWord) (s : State) : Out :=
  let src : BitVec 4 := BitVec.ofNat 4 (bits f.sub.toNat 3 0)
  let h := f.sub.getLsbD 4
  let cv := convElem f.ty src (rmode f) f.sat f.abs f.na
  let keep := packed f.ty && !packed src
  laneWrites f (regs1 (Lane.wide src) f.va ++ if keep then [f.vd.toNat] else []) (fun W l =>
    let a := W.opa f (Lane.wide src) l
    out1 (Lane.wide f.ty) f.vd
      (if packed f.ty && packed src then cv (half16 a false) % 2 ^ 16 + 2 ^ 16 * (cv (half16 a true) % 2 ^ 16)
       else if packed src then cv (half16 a h)
       else if packed f.ty then
         let old := (W.vw f.vd.toNat l).toNat
         if h then old % 2 ^ 16 + 2 ^ 16 * (cv a % 2 ^ 16) else cv a % 2 ^ 16 + 2 ^ 16 * (old / 2 ^ 16)
       else cv a)) s

/-! ### Quantisation (R130, R131) -/

/-- VQNT (R130): blocks of L elements over the lanes with effect. A lane that dies of an uncorrectable word (R108) takes no part: the
instruction leaves all its elements out (DEDUCED, log entry 36). -/
def execVqnt (f : LaneWord) (s : State) : Out :=
  lane s fun t w b =>
    let W := s.warp t w
    let e := s.eff t w b f
    let bad := W.badLanes e ((List.range 4).map (f.va.toNat + ·))
    let ls := lanesOf (e &&& ~~~bad)
    let per := 4 * 2 ^ bits f.md.toNat 3 2
    let wd := if f.sub.getLsbD 0 then 4 else 8
    let val (l i : Nat) : FV := f32.dec (W.vw (f.va.toNat + i) l).toNat
    let ex (l : Nat) : Nat := blockE ((ls.filter fun k => k / per == l / per).flatMap fun k => (List.range 4).map (val k))
    let sg (l i : Nat) : Nat := if ex l = 255 then 0 else wrap (blockSig (val l i) (ex l) wd) wd
    let word (l : Nat) : Nat := ((List.range 4).map fun i => sg l i * 2 ^ (wd * i)).sum
    .next ((s.modWarp t w fun V => ls.foldl (fun V l =>
      (V.setV f.vd.toNat l (BitVec.ofNat 32 (word l))).setV (f.vd.toNat + 1) l (BitVec.ofNat 32 (ex l))) V).laneEnd t w b bad)

/-- VDQNT (R131); the one element value outside F32 is a free value (log entry 8). -/
def execVdqnt (f : LaneWord) (s : State) : Out :=
  let wd := if f.sub.getLsbD 0 then 4 else 8
  laneWrites f (regs1 false f.va ++ regsB f false) (fun W l =>
    let e8 := W.opb f false l % 256
    (List.range 4).map fun i =>
      let sig := sext (W.opa f false l / 2 ^ (wd * i)) wd
      (f.vd.toNat + i, BitVec.ofNat 32 (if blockOpen sig e8 wd then Config.freeBits (s.ctr + 4 * l + i) else f32.enc 0 (blockVal sig e8 wd))))
    { s with ctr := s.ctr + 128 }

end Sys2Proof.Machine
end

