-- ==== Sys2Proof/Machine/Memory.lean ====
section
/-! DEFINITION. Scalar and lane loads and stores (R175 to R204), and the events that answer them: filter replies, load returns,
register fills, demand pages, retirement. -/

namespace Sys2Proof.Machine

/-! ### Checks of an issuing stream (R182, R183, R199) -/

/-- The pages still to be asked are added to those of the issuing stream, which waits (R182) (DEDUCED, log entry 11). -/
def State.askFor (s : State) (l : List Ask) : State :=
  s.setAsks (l.foldl (fun as a => if as.any fun b => b.space == a.space && b.page == a.page && b.store == a.store then as else as ++ [a]) s.asks)

/-- A check of a scalar or matrix instruction failed: ABSENT suspends the stream, every other cause is its fault (R199, R279). -/
def State.streamFail (s : State) (code addr : Nat) : State :=
  if code = cABSENT then (s.setAsks []).setWait (.absent (s.team s.me).space (addr / 4096))
  else s.streamFault { code := code, addr := addr }

/-- One access of a scalar or matrix instruction after its checks: `here` for local memory, `away` for a remote access. -/
def State.scalarAccess (s : State) (x n : Nat) (k : Acc) (here : Page → Nat → State → State) (away : Nat → State → State) : State :=
  match s.check s.view x n k with
  | (.ask a, s) => s.askFor [a]
  | (.fail c a, s) => s.streamFail c a
  | (.local page pa, s) => here page pa s
  | (.remote e, s) => away e s

/-- The owner of a remote request of the issuing stream. -/
def State.owner (s : State) : Owner := match s.cur.ids with | some (t, w) => .scalar t w | none => .scalar 0 0

/-- The issuing warp remembers a remote write of its scalar stream (R221). -/
def State.posted (s : State) (id : Nat) : State :=
  match s.cur with
  | .warp t w => s.modWarp t w fun W => { W with writes := W.writes ++ [id] }
  | _ => s

/-- Remote data that has come for the scalar instruction at this address (R340). -/
def State.fetched (s : State) (x : Nat) : Option (Option Nat) :=
  match s.cur with
  | .warp t w => ((s.warp t w).got.find? fun g => g.1 == x).map (·.2)
  | _ => none

/-- The scalar stream waits for the answer to a remote request. -/
def State.await (s : State) (x : Nat) (p : TwillPacket) : State :=
  let (id, s) := s.remote s.owner (s.team s.me).space p false [] 0 0
  { s with reqs := s.reqs.mod id fun r => { r with addr := x } }.setWait (.remote id)

/-- A read of local memory by the issuing stream, by way of its core's L1 (R175, R206); `na` asks the L1 not to allocate (R200). -/
def State.loadL1 (s : State) (x n : Nat) (page : Page) (pa : Nat) (na : Bool) : Option Nat × State :=
  let T := s.team s.me
  let (v, s) := s.load T.space x n page pa
  (v, s.l1Use T.die T.core T.space x pa page.a na)

/-- A load of the issuing scalar stream: the value goes to `k`; poisoned data kills the warp (R177). While the answer of another die is
out the stream waits. -/
def State.scalarLoad (s : State) (x n : Nat) (k : Nat → State → State) : State :=
  match s.fetched x, s.waiting with
  | some (some v), _ => k v s
  | some none, _ => s.streamPoison 2 3 x
  | none, .remote _ => s
  | none, _ => s.scalarAccess x n .read
      (fun page pa s => match s.loadL1 x n page pa false with
        | (some v, s) => k v s
        | (none, s) => s.streamPoison 2 3 x)
      (fun e s => s.await x (s.packetOf (s.team s.me).origin e (x % 2 ^ 32) n .read []))

/-- Loads of `n` bytes at several addresses for one scalar instruction: the values, or none when the stream asks a page, waits, or has
taken its fault. -/
def State.readPieces (s : State) (n : Nat) : List Nat → Option (List Nat) × State
  | [] => (some [], s)
  | x :: r =>
    let go (v : Nat) (s : State) : Option (List Nat) × State :=
      let (vs, s) := s.readPieces n r
      (vs.map (v :: ·), s)
    match s.fetched x, s.waiting with
    | some (some v), _ => go v s
    | some none, _ => (none, s.streamPoison 2 3 x)
    | none, .remote _ => (none, s)
    | none, _ => match s.check s.view x n .read with
      | (.ask a, s) => (none, s.askFor [a])
      | (.fail c a, s) => (none, s.streamFail c a)
      | (.local page pa, s) => match s.loadL1 x n page pa false with
        | (some v, s) => go v s
        | (none, s) => (none, s.streamPoison 2 3 x)
      | (.remote e, s) => (none, s.await x (s.packetOf (s.team s.me).origin e (x % 2 ^ 32) n .read []))

/-- SLD and SLDZ (R198): `g` extends the value. -/
def scalarLd (d a : Reg) (sz : BitVec 2) (imm : BitVec 12) (g : Nat → Nat → Word) (s : State) : Out :=
  warpOnly [d, a] [a.toNat] s <|
    let n := 2 ^ sz.toNat
    .next (s.scalarLoad (s.memAddr a imm) n fun v s => s.result d (g v (8 * n)))

/-- SLD (R198): the value is sign-extended. -/
def execSld (d a : Reg) (sz : BitVec 2) (imm : BitVec 12) (s : State) : Out := scalarLd d a sz imm (fun v n => toWord (sext v n)) s

/-- SLDZ (R198): the value is zero-extended. -/
def execSldz (d a : Reg) (sz : BitVec 2) (imm : BitVec 12) (s : State) : Out := scalarLd d a sz imm (fun v _ => BitVec.ofNat 64 v) s

/-- SST (R198): a remote store is posted (R332). -/
def execSst (d a : Reg) (sz : BitVec 2) (imm : BitVec 12) (s : State) : Out :=
  warpOnly [d, a] [a.toNat, d.toNat] s <|
    let n := 2 ^ sz.toNat
    let x := s.memAddr a imm
    let bs := bytesLE n (s.reg d).toNat
    .next (s.scalarAccess x n .write
      (fun page pa s => (s.store (s.team s.me).space x page pa bs).advance 4)
      (fun e s =>
        let (id, s) := s.remote s.owner (s.team s.me).space (s.packetOf (s.team s.me).origin e (x % 2 ^ 32) n .write bs) false [] 0 0
        (s.posted id).advance 4))

/-- Steps 1 and 2 of R183 for a scratchpad access. -/
def Team.spCheck (T : Team) (x n : Nat) : Option Nat :=
  if x % n ≠ 0 then some cALIGN else if x + n > T.spad then some cSPAD else none

/-- SLDP (R198). -/
def execSldp (d a : Reg) (sz : BitVec 2) (imm : BitVec 12) (s : State) : Out :=
  warpOnly [d, a] [a.toNat] s <|
    let n := 2 ^ sz.toNat
    let x := s.memAddr a imm
    match (s.team s.me).spCheck x n with
    | some c => .next (s.streamFault { code := c, addr := x })
    | none => match s.spRead s.me x n with
      | (some v, s) => .next (s.result d (toWord (sext v (8 * n))))
      | (none, s) => .next (s.streamPoison 2 3 x)

/-- SSTP (R198). -/
def execSstp (d a : Reg) (sz : BitVec 2) (imm : BitVec 12) (s : State) : Out :=
  warpOnly [d, a] [a.toNat, d.toNat] s <|
    let n := 2 ^ sz.toNat
    let x := s.memAddr a imm
    match (s.team s.me).spCheck x n with
    | some c => .next (s.streamFault { code := c, addr := x })
    | none => .next ((s.spWrite s.me x (bytesLE n (s.reg d).toNat)).advance 4)

/-! ### Lane accesses (R182, R183, R200 to R204) -/

/-- The checks of the lanes of one instruction, in lane order: lane, address, outcome. -/
def State.checkLanes (s : State) (n : Nat) (k : Acc) : List (Nat × Nat) → List (Nat × Nat × Chk) × State
  | [] => ([], s)
  | (l, x) :: r =>
    let (c, s) := s.check s.view x n k
    let (cs, s) := s.checkLanes n k r
    ((l, x, c) :: cs, s)

/-- Outcomes that ask a page. -/
def asksOf (cs : List (Nat × Nat × Chk)) : List Ask := cs.filterMap fun (_, _, c) => match c with | .ask a => some a | _ => none

/-- Outcomes that fail. -/
def failsOf (cs : List (Nat × Nat × Chk)) : List Fail := cs.filterMap fun (l, _, c) => match c with | .fail c a => some ⟨l, c, a, false⟩ | _ => none

/-- A load of a lane goes onto its path's scoreboard (R137, R201). -/
def State.board (s : State) (t w : Nat) (b : Bool) (x : Load) : State := s.modPath t w b fun p => { p with board := p.board ++ [x] }

/-- The issuing warp remembers a remote write of a lane of the running block (R221). -/
def State.laneWrote (s : State) (t w id : Nat) : State := s.modWarp t w fun W => { W with blockWrites := W.blockWrites ++ [id] }

/-- The end of a lane access: lanes that failed park, lanes that read uncorrectable registers die, the others go on (R158, R204). -/
def State.accessEnd (s : State) (t w : Nat) (b : Bool) (fs : List Fail) (bad : Half) : State :=
  let (s, whole) := s.park t w b fs
  let s := if bad = 0 then s else s.laneDeath t w bad 1
  if whole then (s.nextIdx t w b).settle t else s

/-- A release among lane accesses, by the order field (R54, R213). -/
def releases (f : LaneWord) (k : Acc) : Bool := k ≠ .read && decide (Lane.order f ≥ 2)

/-- Some lane has remote writes before this instruction that are not performed yet: a release waits for them (R213, R329). -/
def State.unperformed (s : State) (t w : Nat) (ls : Half) : Bool := (lanesOf ls).any fun l => !(s.writesBefore (.lane t w l)).isEmpty

/-- The frame of a global lane access of `n` bytes: a release waits for what precedes it; while a page is to be asked the path waits; then the
lanes that passed act, as `act` says of all of them, and the others park. -/
def laneGlobal (f : LaneWord) (reads : List Nat) (n : Nat) (k : Acc) (addr : Warp → Nat → Nat)
    (act : Nat → Nat → Bool → List (Nat × Nat × Chk) → State → State) (s : State) : Out :=
  lane s fun t w b =>
    let W := s.warp t w
    let e := s.eff t w b f
    let bad := W.badLanes e reads
    let (cs, s') := s.checkLanes n k ((lanesOf (e &&& ~~~bad)).map fun l => (l, addr W l))
    if releases f k && s.unperformed t w (e &&& ~~~bad) then stay s
    else if !(asksOf cs).isEmpty then .next (s'.askFor (asksOf cs))
    else .next ((act t w b cs s').accessEnd t w b (failsOf cs) bad)

/-- Poison of the lines that the lanes of one instruction wrote whole (R177). -/
def State.wroteLines (n d : Nat) (cs : List (Nat × Nat × Chk)) (s : State) : State :=
  s.filled d (cs.filterMap fun (_, _, c) => match c with | .local _ pa => some (pa, n) | _ => none)

/-- Accesses of lanes: lane, address, and the import entry of a remote one. -/
abbrev LaneAt := Nat × Nat × Nat

/-- The remote accesses among those of the lanes of one instruction. -/
def remoteOf (cs : List (Nat × Nat × Chk)) : List LaneAt := cs.filterMap fun (l, x, c) => match c with | .remote e => some (l, x, e) | _ => none

/-- Accesses by line, in the order of their first lanes: each line is served by one transaction (R176). -/
def byLine : Nat → List LaneAt → List (List LaneAt)
  | 0, _ => []
  | _, [] => []
  | n + 1, g :: r => (g :: r.filter fun y => y.2.1 / 128 == g.2.1 / 128) :: byLine n (r.filter fun y => y.2.1 / 128 != g.2.1 / 128)

/-- The lanes of some accesses. -/
def lanesAt (g : List LaneAt) : Half := maskOf (g.map (·.1))

/-- A lane's load from local memory (R201): the data goes to the scoreboard at once; poisoned data kills the lane. -/
def loadLane (f : LaneWord) (k : Nat) (t w : Nat) (b : Bool) (l x : Nat) (c : Chk) (s : State) : State :=
  let n := sizeOf' k
  let sp := (s.team t).space
  match c with
  | .local page pa => match s.load sp x n page pa with
    | (some v, s) => s.board t w b { lane := l, regs := loadRegs k f.vd.toNat v, line := if page.a then none else some (sp, x, pa, f.sub.getLsbD 3) }
    | (none, s) => s.laneDeath t w (maskOf [l]) 1
  | _ => s

/-- The load of the lanes that read one line of a peer: one request, from which each takes its data when it has come (R176, R201). -/
def loadLine (f : LaneWord) (k : Nat) (after : List Nat) (t w : Nat) (b : Bool) (s : State) (g : List LaneAt) : State :=
  match g with
  | [] => s
  | (l, x, e) :: _ =>
    let n := sizeOf' k
    let sp := (s.team t).space
    let lo := g.foldl (fun m y => min m y.2.1) x
    let hi := g.foldl (fun m y => max m (y.2.1 + n)) x
    let (id, s) := s.remote (.lane t w l) sp (s.packetOf (sp / 4096) e (lo % 2 ^ 32) (hi - lo) .read []) false after f.vd.toNat k (lanesAt g)
    g.foldl (fun s (l, x, _) => s.board t w b { lane := l, req := some id, off := x - lo }) s

/-- The loads of the lanes of one instruction (R201). -/
def State.loadLanes (s : State) (f : LaneWord) (k : Nat) (after : List Nat) (t w : Nat) (b : Bool) (cs : List (Nat × Nat × Chk)) : State :=
  let s := cs.foldl (fun s (l, x, c) => loadLane f k t w b l x c s) s
  (byLine 32 (remoteOf cs)).foldl (loadLine f k after t w b) s

/-- A lane's store to local memory (R201). -/
def storeLane (f : LaneWord) (k : Nat) (t w l x : Nat) (c : Chk) (s : State) : State :=
  let n := sizeOf' k
  match c with
  | .local page pa => s.store (s.team t).space x page pa ((s.warp t w).storeBytes f.vd.toNat n l)
  | _ => s

/-- A byte of a line after the stores of some lanes, in their order (R201). -/
def lastByte (k n : Nat) (W : Warp) (f : LaneWord) (g : List LaneAt) (x : Nat) : Option Byte :=
  g.foldl (fun r (l, y, _) => if y ≤ x ∧ x < y + n then (W.storeBytes f.vd.toNat (sizeOf' k) l)[x - y]? else r) none

/-- The stretches of bytes that the stores fill: where each begins, and its bytes. -/
def stretches : Nat → List (Option Byte) → List (Nat × List Byte)
  | _, [] => []
  | i, none :: r => stretches (i + 1) r
  | i, some b :: r => match r, stretches (i + 1) r with
    | some _ :: _, (_, bs) :: q => (i, b :: bs) :: q
    | _, q => (i, [b]) :: q

/-- The store of the lanes that write one line of a peer: a packet for each stretch of bytes (R176, R331); `tag` and `after` are VSTR's stream
binding. -/
def storeLine (f : LaneWord) (k tag : Nat) (after : List Nat) (t w : Nat) (s : State) (g : List LaneAt) : State :=
  match g with
  | [] => s
  | (l, x, e) :: _ =>
    let sp := (s.team t).space
    let line := x / 128 * 128
    let W := s.warp t w
    (stretches 0 ((List.range 128).map fun i => lastByte k (sizeOf' k) W f g (line + i))).foldl (fun s (i, bs) =>
      let (id, s) := s.remote (.lane t w l) sp (s.packetOf (sp / 4096) e ((line + i) % 2 ^ 32) bs.length .write bs) (Lane.order f ≥ 2) after 0 0 (lanesAt g)
      { s with reqs := s.reqs.mod id fun r => { r with tag := tag } }.laneWrote t w id) s

/-- VLD (R201). -/
def execVld (f : LaneWord) (s : State) : Out :=
  let k := bits f.sub.toNat 2 0
  laneGlobal f (regs1 true f.va) (sizeOf' k) .read (fun W l => W.gaddr f l) (fun t w b cs s => s.loadLanes f k [] t w b cs) s

/-- The frame of a scratchpad lane access of `n` bytes; a release waits for what precedes it (R213). -/
def laneScratch (f : LaneWord) (reads : List Nat) (n : Nat) (k : Acc) (act : Nat → Nat → Bool → Nat → Nat → State → State) (s : State) : Out :=
  lane s fun t w b =>
    let W := s.warp t w
    let T := s.team t
    let e := s.eff t w b f
    let bad := W.badLanes e reads
    let ls := (lanesOf (e &&& ~~~bad)).map fun l => (l, W.saddr f l)
    if releases f k && s.unperformed t w (e &&& ~~~bad) then stay s
    else
    let s := ls.foldl (fun s (l, x) => if (T.spCheck x n).isNone then act t w b l x s else s) s
    let fs := ls.filterMap fun (l, x) => (T.spCheck x n).map fun c => (⟨l, c, x, false⟩ : Fail)
    .next (s.accessEnd t w b fs bad)

/-- VLDP (R201). -/
def execVldp (f : LaneWord) (s : State) : Out :=
  let k := bits f.sub.toNat 2 0
  laneScratch f [f.va.toNat] (sizeOf' k) .read (fun t w b l x s => match s.spRead t x (sizeOf' k) with
    | (some v, s) => s.board t w b { lane := l, regs := loadRegs k f.vd.toNat v }
    | (none, s) => s.laneDeath t w (maskOf [l]) 1) s

/-- VSTP (R201). -/
def execVstp (f : LaneWord) (s : State) : Out :=
  let k := bits f.sub.toNat 2 0
  laneScratch f (f.va.toNat :: dataRegs k f.vd.toNat) (sizeOf' k) .write
    (fun t w _ l x s => s.spWrite t x ((s.warp t w).storeBytes f.vd.toNat (sizeOf' k) l)) s

/-! ### VLDF (R197, R202) -/

/-- The scale address of the element at `x` of a BI8 or BI4 page: none below the window's origin (R197). -/
def State.scaleAddr (s : State) (space swi : Nat) (bi4 : Bool) (x : Nat) : Option Nat :=
  let D := s.die (space / 4096)
  let r (k : Nat) : Nat := (D.space.get (space % 4096 * 64 + 4 * swi + k + 1) 0).toNat
  let org := r 0 / 128 * 128
  let bb := 16 * 2 ^ bits (r 2) 1 0 / (if bi4 then 2 else 1)
  if x < org then none else some ((r 1 + (x - org) / bb) % 2 ^ 64)

/-- The elements of VLDF as F32 bits, from the format, the data and the scale (R202); an element that has no F32 value is free. -/
def State.vldfElems (s : State) (fmt n d e8 : Nat) : List Nat × State :=
  if fmt ≥ 3 then
    ((List.range (n / 2)).map fun j => f32.enc 0 ((if fmt = 3 then f16 else bf16).dec (d / 2 ^ (16 * j) % 2 ^ 16)), s)
  else
    let w := if fmt = 2 then 4 else 8
    (List.range (8 * n / w)).foldl (fun (xs, s) j =>
      let sig := sext (d / 2 ^ (w * j)) w
      if blockOpen sig e8 w then let (x, s) := s.draw 32; (xs ++ [x], s)
      else (xs ++ [f32.enc 0 (blockVal sig e8 w)], s)) ([], s)

/-- What VLDF finds for a lane. -/
inductive Vldf where
  | ask (a : Ask)
  | fail (code addr : Nat)
  | poison
  /-- The scale byte at this address comes from the peer of this import entry (R197, R324). -/
  | away (e addr : Nat)
  /-- Registers to write, and the lines of data and scale that came by way of the L1 (R206, R208). -/
  | regs (rs : List (Nat × Half)) (lines : List (Nat × Nat × Nat × Bool))
  deriving DecidableEq, Repr

/-- The line of a load by way of the L1, which holds no line of an alias page (R179). -/
def l1Line (page : Page) (x pa : Nat) : List (Nat × Nat × Nat × Bool) := if page.a then [] else [(page.space, x, pa, false)]

/-- The data read of VLDF (step 6 and poison after the scale). -/
def State.vldfData (s : State) (f : LaneWord) (x n : Nat) (page : Page) (pa e8 : Nat) (scale : List (Nat × Nat × Nat × Bool)) : Vldf × State :=
  match s.load page.space x n page pa with
  | (none, s) => (.poison, s)
  | (some d, s) =>
    let (xs, s) := s.vldfElems page.fmt n d e8
    (.regs (xs.mapIdx fun j v => (f.vd.toNat + j, BitVec.ofNat 32 v)) (l1Line page x pa ++ scale), s)

/-- The access of one lane of VLDF: steps 1 to 4, the format, the scale byte with its checks, then the data. `got` holds the scale bytes that
have come from other dies for the lane. -/
def State.vldfLane (s : State) (f : LaneWord) (x n : Nat) (got : List Scale) : Vldf × State :=
  let sp := (s.team s.me).space
  match s.check s.view x n .read with
  | (.ask a, s) => (.ask a, s)
  | (.fail c a, s) => match s.translate sp x with
    -- the tail is checked after the format (R183 steps 5 and 6)
    | (.ok t, s) =>
      if c ≠ cTAIL then (.fail c a, s)
      else if t.page.fmt = 0 then (.fail cNOFMT x, s)
      else if t.page.fmt ≥ 3 then (if n = 1 then (.fail cSIZE x, s) else (.fail c a, s))
      else match s.scaleAddr sp t.page.swi (t.page.fmt = 2) x with
        | none => (.fail cSCALE x, s)
        | some sa => match s.check s.view sa 1 .read with
          | (.ask q, s) => (.ask q, s)
          | (.fail c' a', s) => (.fail c' a', s)
          | (_, s) => (.fail c a, s)
    | (.error _, s) => (.fail c a, s)
  | (.remote _, s) => (.fail cNOFMT x, s)
  | (.local page pa, s) =>
    if page.fmt = 0 then (.fail cNOFMT x, s)
    else if page.fmt ≥ 3 then (if n = 1 then (.fail cSIZE x, s) else s.vldfData f x n page pa 0 [])
    else match s.scaleAddr sp page.swi (page.fmt = 2) x with
      | none => (.fail cSCALE x, s)
      | some sa => match s.check s.view sa 1 .read with
        | (.ask q, s) => (.ask q, s)
        | (.fail c a, s) => (.fail c a, s)
        | (.remote e, s) => match got.find? fun g => g.addr == sa with
          | none => (.away e sa, s)
          | some g => match g.val with
            | none => (.poison, s)
            | some e8 => s.vldfData f x n page pa e8 []
        | (.local pg sp', s) => match s.load sp sa 1 pg sp' with
          | (none, s) => (.poison, s)
          | (some e8, s) => s.vldfData f x n page pa e8 (l1Line pg sa sp')

/-- The lanes of VLDF in order. -/
def State.vldfLanes (s : State) (f : LaneWord) (n : Nat) (got : List Scale) : List (Nat × Nat) → List (Nat × Vldf) × State
  | [] => ([], s)
  | (l, x) :: r =>
    let (v, s) := s.vldfLane f x n (got.filter fun g => g.lane == l)
    let (vs, s) := s.vldfLanes f n got r
    ((l, v) :: vs, s)

/-- The path sends for the scale bytes that lanes read in one line of a peer, as one relaxed load (R176, R197). -/
def State.fetchScales (s : State) (t w : Nat) (b : Bool) (g : List LaneAt) : State :=
  match g with
  | [] => s
  | (l, x, e) :: _ =>
    let sp := (s.team t).space
    let lo := g.foldl (fun m y => min m y.2.1) x
    let hi := g.foldl (fun m y => max m (y.2.1 + 1)) x
    let (id, s) := s.remote (.scale t w l lo) sp (s.packetOf (sp / 4096) e (lo % 2 ^ 32) (hi - lo) .read []) false [] 0 0
    s.modPath t w b fun p => { p with scales := p.scales ++ g.map fun (l, x, _) => { lane := l, addr := x, req := some id } }

/-- VLDF (R202): while scale bytes come from other dies the path waits. -/
def execVldf (f : LaneWord) (s : State) : Out :=
  lane s fun t w b =>
    let W := s.warp t w
    let e := s.eff t w b f
    let bad := W.badLanes e (regs1 true f.va)
    let (vs, s) := s.vldfLanes f (sizeOf' (bits f.sub.toNat 2 0)) (s.path t w b).scales ((lanesOf (e &&& ~~~bad)).map fun l => (l, W.gaddr f l))
    let asks := vs.filterMap fun (_, v) => match v with | .ask a => some a | _ => none
    let away := vs.filterMap fun (l, v) => match v with | .away e x => some (l, x, e) | _ => none
    if (s.path t w b).scales.any fun g => g.req.isSome then stay s
    else if !asks.isEmpty then .next (s.askFor asks)
    else if !away.isEmpty then .next ((byLine 32 away).foldl (fun s g => s.fetchScales t w b g) s)
    else
      let s := vs.foldl (fun s (l, v) => match v with
        | .regs rs ls => ls.foldl (fun s x => s.board t w b { lane := l, line := some x }) (s.board t w b { lane := l, regs := rs })
        | .poison => s.laneDeath t w (maskOf [l]) 1
        | _ => s) s
      .next (s.accessEnd t w b (vs.filterMap fun (l, v) => match v with | .fail c a => some ⟨l, c, a, false⟩ | _ => none) bad)

/-- The page's filter entry, newest first; the filter holds 512, and the oldest leaves a full one (R181) (DESIGN CHOICE, log entry 37). -/
def State.fillFilter (s : State) (d c : Nat) (p : Page) : State :=
  s.modDie d fun D => { D with filters := D.filters.ins c ((p :: (D.filters.get c []).filter fun q =>
    !(q.space == p.space && decide (q.base < p.base + p.size) && decide (p.base < q.base + q.size))).take Config.filterEntries) }

/-- The line of a prefetch is brought in (R203); that of an alias page is not. -/
def State.bring (s : State) (t x : Nat) (dc : Bool) (page : Page) (pa : Nat) : State :=
  let T := s.team t
  if page.a then s
  else if dc then (s.place T.space x page pa false).2
  else let (p, s) := s.place T.space x page pa false; s.l1Use T.die T.core T.space x p false false

/-- The prefetch of one lane (R203): a request whose checks fail is dropped. A page that misses in the filter is asked of the base die (R182), for
which the path does not wait. -/
def State.prefetch (s : State) (t x : Nat) (dc : Bool) : State :=
  let T := s.team t
  match s.check { s.view with asks := [] } x 1 .read with
  | (.local page pa, s) => s.bring t x dc page pa
  | (.ask _, s) => match s.translate T.space x with
    | (.ok y, s) =>
      let s := s.fillFilter T.die T.core y.page
      if !y.page.r || !tailOk y x then s else s.bring t x dc y.page (y.pa x)
    | (.error _, s) => s
  | (_, s) => s

/-- VPREF (R203): the lines are brought into the L1 or the die cache; no register is written, and nothing faults. -/
def execVpref (f : LaneWord) (s : State) : Out :=
  lane s fun t w b =>
    let W := s.warp t w
    let e := s.eff t w b f
    let bad := W.badLanes e (regs1 true f.va)
    .next (((lanesOf (e &&& ~~~bad)).foldl (fun s l => s.prefetch t (W.gaddr f l) (f.sub.getLsbD 0)) s).laneEnd t w b bad)

/-! ### Events -/

/-- The streams' asks of a team, changed by `g`. -/
def Team.modAsks (T : Team) (g : List Ask → List Ask) : Team :=
  let path (p : Path) : Path := { p with asks := g p.asks }
  { T with
      warps := T.warps.each fun _ W => { W with asks := g W.asks, a := W.a.map path, b := W.b.map path }
      seq := { T.seq with asks := g T.seq.asks } }

/-- All asks of a team's streams. -/
def Team.allAsks (T : Team) : List Ask :=
  T.seq.asks ++ (T.warps.map fun (_, W) => W.asks ++ ((W.a.map (·.asks)).getD []) ++ ((W.b.map (·.asks)).getD [])).flatten

/-- The base die of the stack answers one ask (R182, R187, R190): a good translation enters the filter, a failing one never does (R181). -/
def State.reply (s : State) (d c : Nat) (a : Ask) : State :=
  let (ans, s) : Nat × State := match s.translate a.space (a.page * 4096 + 128 * a.stack) with
    | (.ok t, s) => (0, s.fillFilter d c t.page)
    | (.error e, s) => (e, s)
  { s with teams := s.teams.each fun _ T =>
      if T.die = d ∧ T.core = c then
        T.modAsks (·.map fun b => if b.space = a.space ∧ b.page = a.page ∧ b.store = a.store then { b with answer := some ans } else b)
      else T }

/-- TRANSLATION_REPLY (R182): the base die that line bits [8:7] of the address name answers the asks of a core for one page of an ASID (R187). -/
def execTranslationReply (die core asid va : Nat) (store : Bool) (s : State) : Out :=
  let asks := (s.teams.map fun (_, T) => if T.die = die ∧ T.core = core then T.allAsks else []).flatten
  let mine := asks.filter fun a => a.answer.isNone && a.space % 4096 == asid && a.page == va / 4096 && a.store == store
  .next ((sortSet' (mine.map (·.space))).foldl (fun s sp => s.reply die core { space := sp, page := va / 4096, store := store, stack := stackOf va }) s)
where
  /-- A set of numbers as a rising list. -/
  sortSet' (l : List Nat) : List Nat := l.foldl (fun a x => setIns x a) []

/-- Registers that a lane word may name, its groups included (R57, R58, R60) (DESIGN CHOICE, log entry 17). -/
def LaneNamed (f : LaneWord) : List Nat :=
  (List.range 8).map (f.vd.toNat + ·) ++ (List.range 4).map (f.va.toNat + ·) ++ regsB f true ++ regsC f true

/-- Register lines that the team's register cache holds (R20, R22, R107). -/
def Team.regLines (T : Team) : Nat := bits T.part 7 0 * 256

/-- Lines of a team's warps that are present, but for those that the running instruction of warp `w` names. -/
def Team.present (T : Team) (w : Nat) (keep : List Nat) : List (Nat × Nat) :=
  T.warps.flatMap fun (k, W) => if W.life = .ended then [] else ((List.range 256).filter fun v => !W.cold.contains v && !(k == w && keep.contains v)).map fun v => (k, v)

/-- A line comes into the register cache (R107); where the cache is full another leaves it, chosen by the part: dirty data goes back to the context
image, and the program sees the same values (DESIGN CHOICE, log entry 17). -/
def State.fillReg (s : State) (t w v : Nat) (keep : List Nat) : State :=
  let T := s.team t
  let out := T.present w (v :: keep)
  let s := s.modWarp t w fun W => { W with cold := W.cold.filter (· != v) }
  if out.length + keep.length < T.regLines ∨ T.regLines = 0 then s
  else
    let (k, s) := s.choose out.length
    match out[k]? with
    | some (u, x) => s.modWarp t u fun W => { W with cold := x :: W.cold }
    | none => s

/-- REGCACHE_FILL_DONE (R107): a line comes into the register cache (DESIGN CHOICE, log entry 17). -/
def execRegcacheFillDone (t w v : Nat) (s : State) : Out :=
  if !(s.warp t w).cold.contains v then .next s
  else
    let word (b : Bool) : List Nat := match (s.warp t w).path b with
      | none => []
      | some p => match (({ s with cur := .path t w b } : State).fetchWords t ((s.team t).laneAddr p.pc) 3).1 with
        | .words ws => LaneNamed (Dec.laneFields (ws.getD 0 0).toNat (ws.getD 1 0).toNat (ws.getD 2 0).toNat)
        | _ => []
    .next (s.fillReg t w v (word false ++ word true))

/-- The loads of a path whose data has come are written (R201). -/
def Warp.landed (W : Warp) (p : Path) : Warp :=
  p.board.foldl (fun W x => if x.req.isNone then W.setVs x.lane x.regs else W) W

/-- LOAD_DATA_RETURN (R201): the data of a path's loads is written to the destination registers; it has come by way of the core's L1, whose line
is refetched where its parity fails (R206). -/
def execLoadDataReturn (t w : Nat) (slotB : Bool) (s : State) : Out :=
  match (s.warp t w).path slotB with
  | none => .next s
  | some p =>
    let T := s.team t
    let s := p.board.foldl (fun s x => match x.req, x.line with
      | none, some (space, va, pa, na) => s.l1Use T.die T.core space va pa false na
      | _, _ => s) s
    .next ((s.modWarp t w (·.landed p)).modPath t w slotB fun p => { p with board := p.board.filter fun x => x.req.isSome })

/-- A wait for a page that is present ends (R199). -/
def Wait.present (space page : Nat) : Wait → Wait
  | .absent sp p => if sp = space ∧ p = page then .none else .absent sp p
  | x => x

/-- The fragment's cluster has a Tin leaf that runs: while it restarts its fragments are not resolved (R403). -/
def State.leafRuns (s : State) (F : Frag) : Bool :=
  let T := s.team F.team
  let (d, c) := if T.phase = .away then (T.ran / 8, T.ran % 8) else (T.die, T.core / 8)
  !((s.die d).fw.get (1 + c) {}).restarting

/-- DEMAND_PAGE_RESOLVED (R159, R199): once the walk no longer ends ABSENT, what waits for the page resumes, but no fragment of a halted warp
(R410). -/
def execDemandPageResolved (die asid page : Nat) (s : State) : Out :=
  let sp := die * 4096 + asid
  match walk (s.die die) sp (page * 4096) (s.txn sp (page * 4096)) with
  | .error 0x101 => .next s
  | _ =>
    let wakes := s.teams.filterMap fun (t, T) => if T.seq.restart.isSome ∧ T.seq.wait = .absent sp page then some t else none
    let clear (l : List Ask) : List Ask := l.filter fun a => !(a.space == sp && a.page == page && a.answer == some cABSENT)
    let s := { s with
      teams := s.teams.each fun _ T =>
        let T := if T.space = sp then T.modAsks clear else T
        { T with warps := T.warps.each fun _ W => { W with wait := W.wait.present sp page }, seq := { T.seq with wait := T.seq.wait.present sp page } }
      frags := s.frags.each fun k F =>
        if F.state = .parked ∧ s.fragLive k ∧ s.leafRuns F ∧ (F.cause = 1 ∨ F.cause = 11) ∧ F.detail = 1 ∧ F.addr / 4096 = page ∧ (s.team F.team).space = sp then
          { F with state := .ready, resume := F.pc }
        else F
      copies := s.copies.each fun _ c => if c.die = die ∧ c.asid = asid ∧ c.absent = some page then { c with absent := none } else c }
    .next (wakes.foldl State.seqRestart s)

/-- The line in a way leaves, a dirty one of the die cache to its recorded address (R178). -/
def State.dropWay (s : State) (struct set way : Nat) : State :=
  let n := struct % 65536
  let drop (l : List CLine) : List CLine := l.filter fun x => !x.at_ struct set way
  match struct / 65536 with
  | 0 => s.modDie (n / 64) fun D => { D with l1 := D.l1.each fun _ l => drop l }
  | 1 => s.evict (n / 16) fun l => l.at_ struct set way
  | _ => s.modDie (n / 4) fun D => { D with msb := D.msb.each fun _ l => drop l }

/-- WAY_DISABLE (R207): a way that has had three corrected errors within 24 hours is never allocated again, and the line in it leaves. Where the set
is left with fewer than two usable ways, every line of it leaves: the set is bypassed (PRESUMED, log entry 12). -/
def execWayDisable (struct set way : Nat) (s : State) : Out :=
  if struct / 65536 > 2 || !s.worn struct set way || s.ways.contains (struct, set, way) then .next s
  else
    let s := { s.dropWay struct set way with ways := (struct, set, way) :: s.ways }
    let left := s.usable (struct / 65536) (struct % 65536) set
    let s := if left.length < 2 then left.foldl (fun s w => s.dropWay struct set w) s else s
    .next (s.event 2 (structSocket struct set) (struct * 2 ^ 64 + set * 2 ^ 32 + way))

/-- The structure number of a die's memory, whose sets are its groups (R195, R205). -/
def memStruct (die : Nat) : Nat := structOf 6 die

/-- GROUP_RETIRE (R195): a group in which an uncorrectable error has been detected, or three corrected ones within 24 hours, is retired: every read
of it is uncorrectable, writes to it are discarded. -/
def execGroupRetire (die frame group : Nat) (s : State) : Out :=
  let k := frame * 2048 + group
  if (s.die die).retired.contains k || !((s.die die).detected.contains k || s.worn (memStruct die) k 0) then .next s
  else .next ((s.modDie die fun D => { D with retired := setIns k D.retired, detected := D.detected.filter (· != k) }).event 3 (stackSocket die (group / 512 % 4)) k)

/-- An upset of the hardware, as a check finds it (R108, R175, R177, R195, R205, R206, R263, R429). -/
def State.upset (s : State) (u : Upset) : State :=
  match u with
  | .corrected struct set way => s.corrects struct set way
  | .parity die core space va => s.modDie die fun D => { D with l1 := D.l1.mod core fun l => l.map fun x => if x.holds space va then { x with bad := true } else x }
  | .line die pa => s.modDie die fun D => { D with poison := setIns (pa / 128) D.poison }
  | .dram die pa => s.modDie die fun D =>
      if D.poison.contains (pa / 128) then D else { D with poison := setIns (pa / 128) D.poison, detected := setIns (groupOf pa) D.detected }
  | .scalarReg t w r => s.modWarp t w fun W => { W with badS := setIns r W.badS }
  | .laneReg t w r l => s.modWarp t w fun W => { W with badV := setIns (32 * r + l) W.badV }
  | .seqReg t r => s.modSeq t fun q => { q with badT := setIns r q.badT }
  | .scratch t word => s.modTeam t fun T => { T with spBad := setIns word T.spBad }
  | .tile t i => s.modTeam t fun T => { T with tiles := T.tiles.ins i { T.tiles.get i {} with bad := true } }
  | .slot t i => s.modTeam t fun T => { T with slots := T.slots.mod i fun x => { x with bad := true } }
  | .trailer t w r l =>
    let (x, s) := s.draw 32
    s.modTeam t fun T => { T with trailers := T.trailers.mod w fun R => { R with v := R.v.put 0 (32 * r + l) (BitVec.ofNat 32 x) } }
  | .trailerScalar t w r =>
    let (x, s) := s.draw 64
    s.modTeam t fun T => { T with trailers := T.trailers.mod w fun R => { R with s := R.s.put 0 r (BitVec.ofNat 64 x) } }

end Sys2Proof.Machine
end

