-- ==== Sys2Proof/Machine/Atomics.lean ====
section
/-! DEFINITION. Atomics and fences (R220 to R229), and the stream sequencer's acceptance (R232). -/

namespace Sys2Proof.Machine

/-- A base-die atomic acts after any die-cache copy of the line has been written back and dropped (R224): scope S on a local page. -/
def State.dropLine (s : State) (space va : Nat) : State := s.evict (space / 4096) (·.holds (space % 4096) va)

/-- One atomic on local memory, one indivisible step (R224): the old value, none when it is poisoned and nothing is written (R225). In a released slot of
a receive ring the old value is free (R5, R367). -/
def State.atomHere (s : State) (space x n : Nat) (page : Page) (pa : Nat) (sys : Bool) (op : Nat) (uns : Bool) (b c : Nat) : Option Nat × State :=
  let s := if sys && !page.a then s.dropLine space x else s
  let (p, s) := s.place space x page pa false sys
  let (v, s) := if s.releasedSlot space x then (let (y, s) := s.draw (8 * n); (some y, s)) else s.readAt space x n page p
  match v with
  | none => (none, s)
  | some old => (some old, match atomNew op uns n old b c with
    | some v => (if sys then s.buffer (space / 4096) p true else s.toWrite space x page p).storeTo space x page p (bytesLE n v)
    | none => s)

/-- The packet of a remote atomic (R337): the operand, and for CAS the operand and then the compare value (DEDUCED, log entry 14). It goes to
the owner's base-die unit at scope S and in another package, else to the line's home slice on the owning die (R224). -/
def State.atomPacket (s : State) (space e x n op : Nat) (sys uns : Bool) (b c : Nat) : TwillPacket :=
  { s.packetOf (space / 4096) e (x % 2 ^ 32) (if op = 11 then 2 * n else n) .atomic (bytesLE n b ++ (if op = 11 then bytesLE n c else [])) with
      atom := op + (if n = 8 then 16 else 0), uns := uns, sys := sys || bits e 63 52 != s.pkg }

/-- A remote scalar atomic: a remote write that the stream waits for (R221). -/
def State.awaitAtom (s : State) (x : Nat) (p : TwillPacket) : State :=
  let s := s.await x p
  match s.waiting with
  | .remote id => s.posted id
  | _ => s

/-- The frame of SATOM (R226): `op` as in R227 with 11 CAS, `uns` for the unsigned forms. -/
def satom (op : Nat) (uns : Bool) (d a b : Reg) (scope : Scope) (wide : Bool) (s : State) : Out :=
  warpOnly [d, a, b] ([a.toNat, b.toNat] ++ (if op = 11 then [d.toNat] else [])) s <|
    let n := if wide then 8 else 4
    let x := (s.reg a).toNat
    let v := (s.reg b).toNat % 2 ^ (8 * n)
    let (p, c) := if op = 11 then ((s.reg d).toNat % 2 ^ (8 * n), v) else (v, 0)
    let sp := (s.team s.me).space
    match s.fetched x, s.waiting with
    | some (some v), _ => .next (s.result d (BitVec.ofNat 64 v))
    | some none, _ => .next (s.streamPoison 2 3 x)
    | none, .remote _ => stay s
    | none, _ => .next (s.scalarAccess x n .atomic
        (fun page pa s => match s.atomHere sp x n page pa (scope = .s) op uns p c with
          | (some old, s) => s.result d (BitVec.ofNat 64 old)
          | (none, s) => s.streamPoison 2 3 x)
        (fun e s => s.awaitAtom x (s.atomPacket sp e x n op (scope = .s) uns p c)))

/-- SATOM.ADD (R226). -/
def execSatomAdd (d a b : Reg) (scope : Scope) (wide : Bool) (s : State) : Out := satom 0 false d a b scope wide s

/-- SATOM.AND (R226). -/
def execSatomAnd (d a b : Reg) (scope : Scope) (wide : Bool) (s : State) : Out := satom 2 false d a b scope wide s

/-- SATOM.OR (R226). -/
def execSatomOr (d a b : Reg) (scope : Scope) (wide : Bool) (s : State) : Out := satom 3 false d a b scope wide s

/-- SATOM.XOR (R226). -/
def execSatomXor (d a b : Reg) (scope : Scope) (wide : Bool) (s : State) : Out := satom 4 false d a b scope wide s

/-- SATOM.MIN (R226). -/
def execSatomMin (d a b : Reg) (scope : Scope) (wide : Bool) (s : State) : Out := satom 5 false d a b scope wide s

/-- SATOM.MAX (R226). -/
def execSatomMax (d a b : Reg) (scope : Scope) (wide : Bool) (s : State) : Out := satom 6 false d a b scope wide s

/-- SATOM.MINU (R226). -/
def execSatomMinu (d a b : Reg) (scope : Scope) (wide : Bool) (s : State) : Out := satom 5 true d a b scope wide s

/-- SATOM.MAXU (R226). -/
def execSatomMaxu (d a b : Reg) (scope : Scope) (wide : Bool) (s : State) : Out := satom 6 true d a b scope wide s

/-- SATOM.XCHG (R226). -/
def execSatomXchg (d a b : Reg) (scope : Scope) (wide : Bool) (s : State) : Out := satom 7 false d a b scope wide s

/-- SATOM.CAS (R226): compares with s_b, swaps in s_d. -/
def execSatomCas (d a b : Reg) (scope : Scope) (wide : Bool) (s : State) : Out := satom 11 true d a b scope wide s

/-! ### Lane atomics (R227 to R229) -/

/-- The operand and the compare value of a lane atomic: VCAS compares with b and swaps in c. -/
def atomArgs (f : LaneWord) (cas : Bool) (W : Warp) (l : Nat) : Nat × Nat :=
  let wd := Lane.wide f.ty
  if cas then (W.opc f wd l, W.opb f wd l) else (W.opb f wd l, 0)

/-- What a lane's atomic leaves on the scoreboard: the old value, when the form returns it. -/
def State.atomOld (s : State) (f : LaneWord) (ret : Bool) (t w : Nat) (b : Bool) (l old : Nat) : State :=
  if ret then s.board t w b { lane := l, regs := out1 (Lane.wide f.ty) f.vd old } else s

/-- One lane's global atomic; `tag` and `after` are VATOMR's stream binding. -/
def atomLane (f : LaneWord) (op : Nat) (ret : Bool) (args : Warp → Nat → Nat × Nat) (tag : Nat) (after : List Nat)
    (t w : Nat) (b : Bool) (l x : Nat) (c : Chk) (s : State) : State :=
  let n := if Lane.wide f.ty then 8 else 4
  let uns := f.ty = 1 ∨ f.ty = 3
  let sp := (s.team t).space
  let (v, q) := args (s.warp t w) l
  match c with
  | .local page pa => match s.atomHere sp x n page pa (Lane.scope f = 4) op uns v q with
    | (some old, s) => s.atomOld f ret t w b l old
    | (none, s) => s.laneDeath t w (maskOf [l]) 1
  | .remote e =>
    let (id, s) := s.remote (.lane t w l) sp (s.atomPacket sp e x n op (Lane.scope f = 4) uns v q) (Lane.order f ≥ 2) after f.vd.toNat (if n = 8 then 5 else 4)
    let s := { s with reqs := s.reqs.mod id fun r => { r with tag := tag } }.laneWrote t w id
    if ret then s.board t w b { lane := l, req := some id } else s
  | _ => s

/-- One lane's scratchpad atomic, at the bank (R224). -/
def atomScratch (f : LaneWord) (op : Nat) (ret : Bool) (args : Warp → Nat → Nat × Nat) (t w : Nat) (b : Bool) (l x : Nat) (s : State) : State :=
  let n := if Lane.wide f.ty then 8 else 4
  let (v, q) := args (s.warp t w) l
  match s.spRead t x n with
  | (none, s) => s.laneDeath t w (maskOf [l]) 1
  | (some old, s) =>
    let s := match atomNew op (f.ty = 1 ∨ f.ty = 3) n old v q with
      | some y => s.spWrite t x (bytesLE n y)
      | none => s
    s.atomOld f ret t w b l old

/-! ### Fences (R220 to R223) -/

/-- A CPYR that an issuer of a team issued has writes not acknowledged, or to come (R221). -/
def State.cpyrOpen (s : State) (t issuer : Nat) : Bool :=
  s.copies.any fun (k, c) => c.kind == 5 && c.team == some t && c.issuer == issuer && s.pending k

/-- The issuing party's remote writes are acknowledged (R221). -/
def State.ackDone (s : State) : Bool :=
  match s.cur with
  | .warp t w => (s.warp t w).writes.isEmpty && !s.cpyrOpen t w
  | .seq t =>
    !s.cpyrOpen t 32 && !(s.reqs.any fun (_, r) => r.owner.drains t) &&
    !((s.team t).mOps.any fun o => match o.op with | .mdrain g _ _ _ _ _ _ _ => g | _ => false)
  | _ => true

/-- A release of the sequencer waits for its matrix operations (R276). -/
def State.seqBusy (s : State) : Bool :=
  match s.cur with
  | .seq t => !(s.team t).mOps.isEmpty
  | _ => false

/-- Writes that an earlier SC fence's party had in flight are not performed yet: a later SC fence waits for them (R219) (DESIGN CHOICE, log entry 4). -/
def State.scOpen (s : State) : Bool := s.scWrites.any fun k => (s.reqs.find k).isSome

/-- An SC fence remembers its party's own writes that are in flight (R219). -/
def State.scFence (s : State) (ws : List Nat) : State :=
  { s with scWrites := (s.scWrites ++ ws).filter fun k => (s.reqs.find k).isSome }

/-- Remote writes of the issuing scalar or matrix stream that are not acknowledged. -/
def State.ownWrites (s : State) : List Nat :=
  match s.cur with
  | .warp t w => (s.warp t w).writes
  | .seq t => Map.keys (s.reqs.filter fun (_, r) => r.owner.drains t)
  | _ => []

/-- FENCE (R220 to R222): OPR only in the matrix stream, and not with REL; operand reads that follow it find no older bytes (DESIGN CHOICE, log entry 4). -/
def execFence (order : FOrder) (_scope : Scope) (ack opr : Bool) (s : State) : Out :=
  scalar true true [] [] s <|
    let inSeq := match s.cur with | .seq _ => true | _ => false
    if opr && (!inSeq || order == .rel) then .next s.illegal
    else if (order != .acq && s.seqBusy) || (ack && !s.ackDone) || (order == .sc && s.scOpen) then stay s
    else
      let s := if order = .sc then s.scFence s.ownWrites else s
      let s := if opr then s.modTeam s.me fun T => { T with spOld := [] } else s
      .next (s.advance 4)

/-- A lane's own remote writes are acknowledged (R223). -/
def State.laneAcked (s : State) (t w l : Nat) : Bool := !(s.reqs.any fun (_, r) => r.serves (.lane t w l) && isWrite r.packet.type)

/-- VFENCE (R223) (DESIGN CHOICE, log entry 4). -/
def execVfence (f : LaneWord) (s : State) : Out :=
  lane s fun t w b =>
    let ls := lanesOf (s.eff t w b f)
    let sc := decide (bits f.sub.toNat 1 0 = 3) && !ls.isEmpty
    if !(s.path t w b).board.isEmpty || (f.sub.getLsbD 2 && !(ls.all (s.laneAcked t w))) || (sc && s.scOpen) then stay s
    else .next ((if sc then s.scFence (ls.flatMap fun l => s.writesBefore (.lane t w l)) else s).nextIdx t w b)

/-- STREAM_SLOT_ACCEPT (R232): the stream that has waited longest gets a free slot. -/
def execStreamSlotAccept (die : Nat) (s : State) : Out :=
  let s := s.freeSlots die
  .next (s.modDie die fun D => match D.slotQ with
    | k :: q => if D.slots.length < Config.streamSlots then { D with slots := setIns k D.slots, slotQ := q } else D
    | [] => D)

end Sys2Proof.Machine
end

