-- ==== Sys2Proof/Machine/Gauze.lean ====
section
/-! DEFINITION. Phasers (R286 to R320): handles, nodes, phases at the root, delivery to membership records, and the Gauze messages. -/

namespace Sys2Proof.Machine

/-! ### Handles and messages (R291, R292) -/

/-- A handle from its fields. -/
def mkHandle (home scope kind entry serial : Nat) : Word :=
  BitVec.ofNat 64 (home % 2 ^ 12 * 2 ^ 52 + scope % 8 * 2 ^ 49 + kind % 4 * 2 ^ 47 + entry % 2 ^ 15 * 2 ^ 32 + serial % 2 ^ 32)

def hHome (h : Word) : Nat := bits h.toNat 63 52
def hScope (h : Word) : Nat := bits h.toNat 51 49
def hKind (h : Word) : Nat := bits h.toNat 48 47
def hEntry (h : Word) : Nat := bits h.toNat 46 32
def hSerial (h : Word) : Nat := bits h.toNat 31 0

/-- The handle that a message names. -/
def msgHandle (m : GauzeMsg) : Word := mkHandle m.home m.scope m.kind m.entry m.serial

/-- A message of a phaser, other fields zero (DEDUCED, log entry 15). -/
def msgOf (h : Word) (cls : Nat) : GauzeMsg :=
  { cls := cls, kind := hKind h, home := hHome h, entry := hEntry h, scope := hScope h, serial := hSerial h }

/-- TYPE codes of R291. -/
def gSIGNAL : Nat := 1
def gCOMPLETE : Nat := 2
def gJOIN : Nat := 3
def gLEAVE : Nat := 4
def gCREATE : Nat := 5
def gCREATEREPLY : Nat := 6
def gFREE : Nat := 7
def gLATE : Nat := 8
def gBROKEN : Nat := 9
def gJOINREPLY : Nat := 11

/-- The phaser entry of a handle at a node, with its index. -/
def Node.look (N : Node) (h : Word) : Option (Nat × Phaser) := N.entries.find? fun (_, p) => p.handle == h

/-- The status word of R302. -/
def phStatus (code : Nat) (phase : Half) (done late nan : Bool) : Word :=
  if code ≠ 0 then BitVec.ofNat 64 code
  else BitVec.ofNat 64 (phase.toNat * 2 ^ 32 + nan.toNat * 2 ^ 10 + late.toNat * 2 ^ 9 + done.toNat * 2 ^ 8)

/-- PHNEW's failure value (R303). -/
def phFailure (code : Nat) : Word := BitVec.ofNat 64 (0xFFFE * 2 ^ 48 + code)

/-- The finder identity (R308): of a warp slot, or of a cluster's copy engine. -/
def State.finder (s : State) (die : Nat) (engine : Bool) (core slot : Nat) : Half :=
  BitVec.ofNat 32 (s.pkg * 2 ^ 20 + die * 2 ^ 17 + engine.toNat * 2 ^ 16 + core % 64 * 2 ^ 10 + slot % 64 * 2 ^ 4)

/-- The socket and the package of a finder identity. -/
def finderDie (x : Half) : Nat := bits x.toNat 19 17
def finderPkg (x : Half) : Nat := bits x.toNat 31 20

/-- Put a message on its way to a node of the package. -/
def State.flit (s : State) (node type : Nat) (m : GauzeMsg) : State := { s with flits := s.flits ++ [(node, type, { m with sent := s.now })] }

/-- TYPE of a CREDIT flit (R291). -/
def gCREDIT : Nat := 10

/-- Queue a message for a Gauze port (R290). -/
def State.toPort (s : State) (port type : Nat) (m : GauzeMsg) : State :=
  { s with gqueue := s.gqueue.ins port (s.gqueue.get port [] ++ [(type, m)]),
           gstall := if (s.gstall.find port).isSome then s.gstall else s.gstall.ins port s.now }

/-- Take a message off the wires, where it stands there; a message that a Gauze port has brought gives its credit back (R290). -/
def State.takeFlit (s : State) (node type : Nat) (m : GauzeMsg) : State :=
  let s := { s with flits := s.flits.erase (node, type, m) }
  if node = 4 ∧ 4 ≤ m.port ∧ m.port < 8 ∧ m.sent = 0 ∧ type ≠ gCREDIT then s.toPort (m.port - 4) gCREDIT { cls := m.cls, count := 1 } else s

/-- One step of CRC-32 with the IEEE 802.3 polynomial (R291). -/
def crcByte (c b : Nat) : Nat := (List.range 8).foldl (fun c _ => if c % 2 = 1 then c / 2 ^^^ 0xEDB88320 else c / 2) (c ^^^ b)

/-- CRC-32 of bytes, as IEEE 802.3 computes a frame's (PRESUMED, log entry 15). -/
def crc32 (bs : List Nat) : Nat := bs.foldl crcByte 0xFFFFFFFF ^^^ 0xFFFFFFFF

/-- The 256-bit flit of a message (R291); the CRC takes bits [255:32] byte by byte, the highest first (PRESUMED, log entry 15). -/
def gauzeFlit (type : Nat) (m : GauzeMsg) : Nat :=
  let x := type % 16 * 2 ^ 252 + m.cls % 4 * 2 ^ 250 + m.kind % 4 * 2 ^ 248 + m.home % 2 ^ 12 * 2 ^ 236 + m.entry % 2 ^ 15 * 2 ^ 221 + m.scope % 8 * 2 ^ 218 +
    m.serial % 2 ^ 32 * 2 ^ 186 + m.phase.toNat * 2 ^ 154 + m.value.toNat * 2 ^ 122 + m.ident.toNat * 2 ^ 90 + m.count % 2 ^ 24 * 2 ^ 66 +
    m.late.toNat * 2 ^ 58 + m.nan.toNat * 2 ^ 59
  x + crc32 ((List.range 28).map fun i => x / 2 ^ (248 - 8 * i) % 256)

/-- The message that a port can send next: of class 0 before the others, in order within a class, where it has a credit; CREDIT flits need none
(R290) (DESIGN CHOICE, log entry 15). -/
def State.portHead (s : State) (port : Nat) : Option (Nat × GauzeMsg) :=
  let q := s.gqueue.get port []
  let head (c : Nat) : Option (Nat × GauzeMsg) := (q.find? fun x => x.2.cls == c).filter fun x => x.1 == gCREDIT || s.credits.get (4 * port + c) 0 != 0
  if s.gports.contains port then none else (List.range 4).findSome? head

/-- A Gauze port sends a flit and spends its credit (R290). -/
def State.portSend (s : State) (port : Nat) : State :=
  match s.portHead port with
  | none => s
  | some (type, m) =>
    let k := 4 * port + m.cls
    let q := (s.gqueue.get port []).erase (type, m)
    { s.send (.gauze port type (gauzeFlit type m) m) with
        gqueue := if q.isEmpty then s.gqueue.del port else s.gqueue.ins port q
        gstall := if q.isEmpty then s.gstall.del port else s.gstall.ins port s.now
        retries := s.retries.del (32 + port)
        credits := if type = gCREDIT then s.credits else s.credits.ins k (s.credits.get k 0 - 1) }

/-- Towards the root: a die node's parent is the package node, its parent a pod node through the tree's port (R286). -/
def State.flitUp (s : State) (node : Nat) (P : Phaser) (type : Nat) (m : GauzeMsg) : State :=
  if node < 4 then s.flit 4 type { m with port := node } else s.toPort P.port type m

/-- The dies of a span. -/
def spanDies (m : Nat) : List Nat := (List.range 4).filter fun c => bitOf m c

/-- Away from the root: a package node reaches the die nodes of the span; at a die node the message is for its own members. -/
def State.flitDown (s : State) (node : Nat) (P : Phaser) (type : Nat) (m : GauzeMsg) : State :=
  if node < 4 then s.flit node type m else (spanDies P.span).foldl (fun s c => s.flit c type m) s

/-- To the die that a finder identity names. -/
def State.flitTo (s : State) (P : Phaser) (type : Nat) (m : GauzeMsg) : State :=
  if finderPkg m.ident = s.pkg then s.flit (finderDie m.ident) type m else s.toPort P.port type m

def State.modPhaser (s : State) (node i : Nat) (f : Phaser → Phaser) : State :=
  s.modNode node fun N => { N with entries := N.entries.mod i f }

/-! ### Delivery to membership records (R299, R304, R316, R317) -/

/-- What a record takes from a COMPLETE; none when the record is freed (R299). A value phaser's MISSING travels in IDENT. -/
def Member.complete (r : Member) (m : GauzeMsg) : Option Member :=
  let value := m.kind == 2
  let r := { r with doneph := m.phase, latecnt := m.count,
                    result := some (m.value, if value then 0 else m.ident, if value then m.ident.toNat else 0, m.late, m.nan) }
  let r := if reached m.phase r.lp then { r with lp := m.phase + 1, given := 0 } else r
  if r.lastph = some m.phase then none else some r

/-- A COMPLETE, FREE or BROKEN message reaches a warp. -/
def Warp.phaserMsg (W : Warp) (type : Nat) (m : GauzeMsg) : Warp :=
  let h := msgHandle m
  let mine (r : Member) : Bool := r.handle == h
  if !W.members.any mine then W
  else if type = gFREE then
    { W with members := W.members.filter fun r => !mine r, wait := if W.wait = .phase h then .reply (phStatus 7 0 false false false) else W.wait }
  else if type = gBROKEN then { W with members := W.members.map fun r => if mine r then { r with broken := true } else r }
  else { W with members := W.members.filterMap fun r => if mine r then r.complete m else some r }

/-- Append to a suspended team's log; a message for a record replaces the record's earlier entry in its place (R316). A full log takes no other: the
message goes to the saved record at once (R433). -/
def Team.logPhaser (T : Team) (w type : Nat) (m : GauzeMsg) : Team :=
  let same (e : LogEntry) : Bool := match e with | .phaser w' _ m' => w' == w && msgHandle m' == msgHandle m | _ => false
  if T.log.any same then { T with log := T.log.map fun e => if same e then .phaser w type m else e }
  else if T.log.length < Config.logEntries then { T with log := T.log ++ [.phaser w type m] }
  else { T with warps := T.warps.mod w (·.phaserMsg type m) }

/-- A message is delivered to the member location of a die: to records of resident teams at once, to others through their logs. -/
def State.deliver (s : State) (die type : Nat) (m : GauzeMsg) : State :=
  let h := msgHandle m
  { s with teams := s.teams.each fun _ T =>
      if T.die ≠ die then T
      else if T.phase = .resident then { T with warps := T.warps.each fun _ W => W.phaserMsg type m }
      else if T.phase = .away then
        T.warps.foldl (fun T (w, W) => if W.members.any fun r => r.handle == h then T.logPhaser w type m else T) T
      else T }

/-- A round trip ends with a value for the instruction that waits (R303 to R306). -/
def State.endTrip (s : State) (tr : Trip) (v : Word) : State :=
  { s.modWarp tr.team tr.warp fun W => { W with wait := if W.wait = .tree then .reply v else W.wait } with trips := s.trips.filter (· != tr) }

/-- End the round trips of a phaser on a die. -/
def State.endTrips (s : State) (die : Nat) (h : Word) (v : Trip → Word) : State :=
  (s.trips.filter fun tr => tr.handle == h && tr.type != gCREATE && (s.team tr.team).die == die).foldl (fun s tr => s.endTrip tr (v tr)) s

/-! ### The root (R296, R298, R311 to R313) -/

/-- One combination of two values under COMB (R312). -/
def combineValues (comb : Nat) (x y : Half) : Half :=
  match comb with
  | 0 => x + y
  | 1 => if x.ult y then y else x
  | 2 => if y.ult x then y else x
  | 3 => x &&& y
  | 4 => x ||| y
  | 5 => BitVec.ofNat 32 (f32.enc 0 (FV.pick true (f32.dec x.toNat) (f32.dec y.toNat)))
  | _ => BitVec.ofNat 32 (f32.enc 0 (FV.pick false (f32.dec x.toNat) (f32.dec y.toNat)))

/-- The identity of COMB (R312). -/
def combIdentity (comb : Nat) : Half :=
  match comb with
  | 2 => 0xFFFFFFFF
  | 3 => 0xFFFFFFFF
  | 5 => 0xFF800000
  | 6 => 0x7F800000
  | _ => 0

/-- The tally takes a message (R296, R311, R312). -/
def Tally.take (t : Tally) (kind comb now : Nat) (m : GauzeMsg) : Tally :=
  let nan := m.nan || (kind == 2 && comb ≥ 5 && f32.dec m.value.toNat == .nan)
  { count := t.count + m.count
    value := if kind = 2 ∧ (t.nan || nan) then 0x7FC00000 else if t.count = 0 then m.value else if kind = 2 then combineValues comb t.value m.value else t.value
    ident := if t.count = 0 then m.ident else t.ident
    nan := t.nan || (kind == 2 && nan)
    first := if t.count = 0 then now else t.first }

/-- A signal at the root (R296, R311, R313): counted for the open phase, held for the next, or late. -/
def Phaser.signal (P : Phaser) (now : Nat) (m : GauzeMsg) : Phaser :=
  let kind := hKind P.handle
  let late : Phaser := { P with latecnt := min (P.latecnt + m.count) (2 ^ 24 - 1) }
  if m.phase = P.phase then { P with open_ := P.open_.take kind P.comb now m }
  else if m.phase = P.phase + 1 then
    if kind = 1 ∧ P.next.count ≠ 0 then late else { P with next := P.next.take kind P.comb now m }
  else late

/-- The open phase is complete (R296). -/
def Phaser.full (P : Phaser) : Bool :=
  if hKind P.handle = 1 then P.open_.count != 0 else P.expected != 0 && P.open_.count == P.expected

/-- The COMPLETE of the open phase (R299, R312, R313). -/
def Phaser.completion (P : Phaser) (late : Bool) : GauzeMsg :=
  let kind := hKind P.handle
  let t := P.open_
  { msgOf P.handle P.cls with
      phase := P.phase, count := P.latecnt, late := late, nan := t.nan
      value := if kind = 0 then 0 else if t.nan then 0x7FC00000 else t.value
      ident := if kind = 1 then t.ident else if kind = 2 then BitVec.ofNat 32 (P.expected - t.count) else 0 }

/-- The next phase opens (R296, R298, R313). -/
def Phaser.advance (P : Phaser) (now : Nat) : Phaser :=
  { P with phase := P.phase + 1, open_ := P.next, next := {}, expected := ((P.expected : Int) + P.delta).toNat, delta := 0, opened := now }

/-- Phases complete while they are full, at most `n` of them. -/
def State.progress (s : State) (node i : Nat) : Nat → State
  | 0 => s
  | n + 1 => match (s.node node).entries.find i with
    | some P =>
      if P.root && !P.broken && P.full then
        ((s.modPhaser node i (·.advance s.now)).flitDown node P gCOMPLETE (P.completion false)).progress node i n
      else s
    | none => s

/-- Registrations of `n` signals come or go from the next phase, or from the open one while it has counted nothing (R298): the first
phase that the change covers. -/
def Phaser.register (P : Phaser) (n : Int) : Half × Phaser :=
  if P.open_.count = 0 then (P.phase, { P with expected := ((P.expected : Int) + n).toNat }) else (P.phase + 1, { P with delta := P.delta + n })

/-! ### Freeing (R292, R304) -/

/-- The serial of an entry; after a reset of the die it is a free value (R292) (DESIGN CHOICE, log entry 7). -/
def State.serialOf (s : State) (node i : Nat) : Nat × State :=
  match (s.node node).serials.find i with
  | some x => (x, s)
  | none =>
    let (x, s) := s.draw 32
    (x, s.modNode node fun N => { N with serials := N.serials.ins i x })

/-- The node frees the entry of a handle; the home node increments its serial. -/
def State.freeEntry (s : State) (node : Nat) (h : Word) : State :=
  match (s.node node).look h with
  | none => s
  | some (i, P) =>
    let (x, s) := if P.home then s.serialOf node i else (0, s)
    s.modNode node fun N =>
      { N with entries := N.entries.del i, serials := if P.home then N.serials.ins i ((x + 1) % 2 ^ 32) else N.serials }

/-- FREE at a die node: its entry is freed and its records go; a PHFREE that waits returns OK. -/
def State.freeDie (s : State) (d : Nat) (m : GauzeMsg) : State :=
  let h := msgHandle m
  ((s.freeEntry d h).deliver d gFREE m).endTrips d h fun tr => if tr.type = gFREE then phStatus 0 0 false false false else phStatus 1 0 false false false

/-- A phaser whose home node cannot be reached any more is freed where the package still holds it. -/
def State.freeHere (s : State) (h : Word) (m : GauzeMsg) : State := ((List.range 4).foldl (fun s d => s.freeDie d m) s).freeEntry 4 h

/-! ### Breaking (R317) -/

/-- The home node of a phaser cannot be reached: it has failed, or the port that leads to it is lost. -/
def State.homeLost (s : State) (node : Nat) (P : Phaser) : Bool :=
  if hHome P.handle = s.pkg then !(s.node (if hScope P.handle ≤ 2 then node else 4)).up else s.gports.contains P.port

/-- A phaser goes BROKEN at a node; the message goes on to the other nodes of its tree. A PHFREE under way still waits for the home node, or frees
what this package holds where that cannot be reached (R304). -/
def State.breakAt (s : State) (node : Nat) (h : Word) : State :=
  match (s.node node).look h with
  | none => s
  | some (i, P) =>
    if P.broken then s
    else
      let m := msgOf h P.cls
      let s := s.modPhaser node i fun P => { P with broken := true }
      if node < 4 then
        let freeing := s.trips.any fun tr => tr.handle == h && tr.type == gFREE && (s.team tr.team).die == node
        let s := s.deliver node gBROKEN m
        let s := (s.trips.filter fun tr => tr.handle == h && tr.type != gCREATE && tr.type != gFREE && (s.team tr.team).die == node).foldl
          (fun s tr => s.endTrip tr (phStatus 6 0 false false false)) s
        let s := if freeing && s.homeLost node P then s.freeHere h m else s
        if hScope h ≥ 3 then s.flit 4 gBROKEN { m with port := node } else s
      else
        let s := (spanDies P.span).foldl (fun s c => s.flit c gBROKEN m) s
        if P.pod then s.toPort P.port gBROKEN m else s

/-- Every phaser of a node that `f` picks goes BROKEN. -/
def State.breakAll (s : State) (node : Nat) (f : Phaser → Bool) : State :=
  ((s.node node).entries.filterMap fun (_, P) => if f P then some P.handle else none).foldl (fun s h => s.breakAt node h) s

/-! ### Creation (R287, R294, R295) -/

/-- Entries of a node (R286). -/
def nodeCap (node : Nat) : Nat := if node < 4 then Config.dieEntries else Config.pkgEntries

/-- The k-th free index. -/
def nthFree (used : List Nat) (k : Nat) : Nat := used.foldl (fun i u => if u ≤ i then i + 1 else i) k

/-- The failure that a set of nodes gives, in the order of R295. -/
def State.createFlaw (s : State) (nodes : List Nat) (value : Bool) : Option Nat :=
  if nodes.any fun n => !(s.node n).up then some 13
  else if nodes.any fun n => decide ((s.node n).entries.length ≥ nodeCap n) then some 11
  else if value && nodes.any fun n => decide (((s.node n).entries.filter fun (_, P) => P.slot).length ≥ Config.combSlots) then some 12
  else none

/-- The lowest-numbered Gauze port whose link is up (R287). -/
def State.gauzePort (s : State) : Option Nat := (List.range 4).find? fun p => !s.gports.contains p

/-- Allocate an entry at each node that is not the home node. -/
def State.allocRest (s : State) (nodes : List Nat) (P : Phaser) : State :=
  nodes.foldl (fun s n => s.modNode n fun N => { N with entries := N.entries.ins (nthFree (Map.keys N.entries) 0) P }) s

/-- PHNEW at the home node (R287, R295): a handle and its tree in this package, or the failure's code. -/
def State.create (s : State) (node : Nat) (tr : Trip) : Except Nat Word × State :=
  let w := tr.param.toNat
  let scope := bits w 2 0
  let kind := bits w 4 3
  let nodes := if scope ≤ 2 then [node] else 4 :: spanDies tr.span
  let far := !tr.pkgs.isEmpty
  if far && (!s.pkgValid || s.gauzePort.isNone) then (.error 13, s)
  else match s.createFlaw nodes (kind == 2) with
    | some c => (.error c, s)
    | none =>
      let N := s.node node
      let (k, s) := s.choose (nodeCap node - N.entries.length)
      let i := nthFree (Map.keys N.entries) k
      let (ser, s) := s.serialOf node i
      let h := mkHandle s.pkg scope kind i ser
      let P : Phaser := { handle := h, cls := bits w 17 16, comb := bits w 23 20, timeout := bits w 47 32, span := tr.span, pod := far, port := s.gauzePort.getD 0, team := tr.team, slot := kind == 2, opened := s.now }
      let s := s.modNode node fun N => { N with entries := N.entries.ins i { P with root := !far, home := true } }
      (.ok h, s.allocRest (nodes.filter (· != node)) P)

/-- The first of two failures in the order of R295: UNREACHABLE, NOENTRY, NOSLOT. -/
def firstCode (x y : Nat) : Nat := if x = 13 ∨ y = 13 then 13 else if x = 11 ∨ y = 11 then 11 else max x y

/-- The handle under which a creation that has failed at home still asks the other packages, so that an unreachable one is reported first
(R295) (DEDUCED, log entry 15). -/
def failedHandle (pkg : Nat) (tr : Trip) : Word := mkHandle pkg (bits tr.param.toNat 2 0) (bits tr.param.toNat 4 3) 0x7FFF tr.ident.toNat

/-- The CREATE messages to the other packages of a span (R287); the trip waits for all their replies (R303). Their COUNT names the package, their
VALUE holds its die mask and COMB, their PHASE the timeout (DEDUCED, log entry 15). -/
def State.createFar (s : State) (tr : Trip) (h : Word) (cls code : Nat) : State :=
  let r := { msgOf h cls with ident := tr.ident }
  let port := s.gauzePort.getD 0
  let s := { s with trips := s.trips.map fun x => if x = tr then { x with handle := h, left := tr.pkgs.length, code := code } else x }
  tr.pkgs.foldl (fun s (p, mask) => s.toPort port gCREATE
    { r with count := p, value := BitVec.ofNat 32 (mask + 16 * bits tr.param.toNat 23 20), phase := BitVec.ofNat 32 (bits tr.param.toNat 47 32) }) s

/-- GAUZE_CREATE (R287, R295, R303): a PHNEW of this package reaches its home node, or a CREATE from the pod asks for this package's part
of a tree, which uses this package's lowest-numbered port whose link is up (R287) (log entry 15). -/
def execGauzeCreate (node : Nat) (m : GauzeMsg) (s : State) : Out :=
  let s := s.takeFlit node gCREATE m
  if !(s.node node).up then .next s
  else match s.trips.find? fun tr => tr.type == gCREATE && tr.ident == m.ident with
  | some tr => match s.create node tr with
    | (.error c, s) =>
      if tr.pkgs.isEmpty ∨ c = 13 then .next (s.flit (s.team tr.team).die gCREATEREPLY { m with count := c, value := 0, phase := 0 })
      else .next (s.createFar tr (failedHandle s.pkg tr) m.cls c)
    | (.ok h, s) =>
      if tr.pkgs.isEmpty then .next (s.flit (s.team tr.team).die gCREATEREPLY { msgOf h m.cls with ident := m.ident })
      else .next (s.createFar tr h m.cls 0)
  | none =>
    let h := msgHandle m
    let mask := bits m.value.toNat 3 0
    let nodes := 4 :: spanDies mask
    let back := { m with value := 0, phase := 0 }
    if node ≠ 4 ∨ ((s.node 4).look h).isSome then .next s
    else match s.createFlaw nodes (m.kind == 2) with
      | some c => .next (s.toPort (m.port - 4) gCREATEREPLY { back with count := c })
      | none =>
        let P : Phaser := { handle := h, cls := m.cls, comb := bits m.value.toNat 7 4, timeout := m.phase.toNat, span := mask, pod := true, port := s.gauzePort.getD (m.port - 4), slot := m.kind == 2, opened := s.now }
        .next ((s.allocRest nodes P).toPort (m.port - 4) gCREATEREPLY { back with count := 0 })

/-- A creation in several packages has all its replies: the handle, or nothing is held anywhere (R295). -/
def State.createEnd (s : State) (tr : Trip) (m : GauzeMsg) : State :=
  let die := (s.team tr.team).die
  let r := { msgOf tr.handle m.cls with ident := tr.ident, count := tr.code }
  if tr.code = 0 then s.flit die gCREATEREPLY r
  else
    let s := match (s.node 4).look tr.handle with
      | some (_, P) => (4 :: spanDies P.span).foldl (fun (s : State) n => s.freeEntry n tr.handle) s
      | none => s
    let s := match s.gauzePort with
      | some p => s.toPort p gFREE (msgOf tr.handle m.cls)
      | none => s
    s.flit die gCREATEREPLY r

/-- GAUZE_CREATE_REPLY (R295, R303): at the package node one of the pod's answers, at a die node the answer to the creating warp (DEDUCED, log
entry 15). -/
def execGauzeCreateReply (node : Nat) (m : GauzeMsg) (s : State) : Out :=
  let s := s.takeFlit node gCREATEREPLY m
  match s.trips.find? fun tr => tr.type == gCREATE && tr.ident == m.ident with
  | none => .next s
  | some tr =>
    if node = 4 then
      if tr.left = 0 then .next s
      else
        let tr' := { tr with left := tr.left - 1, code := firstCode tr.code m.count }
        let s := { s with trips := s.trips.map fun x => if x = tr then tr' else x }
        .next (if tr'.left = 0 then s.createEnd tr' m else s)
    else .next (s.endTrip tr (if m.count = 0 then msgHandle m else phFailure m.count))

/-! ### Messages at a node -/

/-- A node below the root adds a signal to what it has received for the phase since its last forward (R312). -/
def Phaser.collect (P : Phaser) (now : Nat) (m : GauzeMsg) : List (Half × Tally) :=
  let kind := hKind P.handle
  if P.acc.any fun x => x.1 == m.phase then P.acc.map fun x => if x.1 = m.phase then (x.1, x.2.take kind P.comb now m) else x
  else P.acc ++ [(m.phase, ({} : Tally).take kind P.comb now m)]

/-- The SIGNAL that a node below the root forwards: the combination and the count of what it has received (R312). -/
def Phaser.forward (P : Phaser) (phase : Half) (t : Tally) : GauzeMsg :=
  { msgOf P.handle P.cls with phase := phase, count := t.count, value := if hKind P.handle = 2 then t.value else 0, nan := t.nan }

/-- Every node below the root forwards, at the end of the cycle, what it has received (R312). -/
def State.forwardAll (s : State) : State :=
  s.nodes.foldl (fun s (n, N) => N.entries.foldl (fun s (i, P) =>
    if P.acc.isEmpty || P.broken || !N.up then s
    else P.acc.foldl (fun s (p, t) => s.flitUp n P gSIGNAL (P.forward p t)) (s.modPhaser n i fun P => { P with acc := [] })) s) s

/-- GAUZE_SIGNAL (R296, R311 to R313, R468): counted at the root, collected below it and forwarded; a later signal of an any-of phase, and a signal of
a phase complete, become LATE. -/
def execGauzeSignal (node : Nat) (m : GauzeMsg) (s : State) : Out :=
  let s := s.takeFlit node gSIGNAL m
  match (s.node node).look (msgHandle m) with
  | none => .next s
  | some (i, P) =>
    if P.broken || !(s.node node).up then .next s
    else if P.root then .next ((s.modPhaser node i (·.signal s.now m)).progress node i 3)
    else
      let late := (P.completed.any fun c => reached c m.phase) || (hKind P.handle == 1 && P.seen.any fun c => reached c m.phase)
      if late then .next (s.flitUp node P gLATE { msgOf P.handle P.cls with count := m.count })
      else if hKind P.handle = 1 then .next ((s.modPhaser node i fun P => { P with seen := some m.phase }).flitUp node P gSIGNAL m)
      else .next (s.modPhaser node i fun P => { P with seen := some m.phase, acc := P.collect s.now m })

/-- GAUZE_COMPLETE (R299): forwarded down the tree, then delivered to the records of a die. -/
def execGauzeComplete (node : Nat) (m : GauzeMsg) (s : State) : Out :=
  let s := s.takeFlit node gCOMPLETE m
  match (s.node node).look (msgHandle m) with
  | none => .next s
  | some (i, P) =>
    if P.broken then .next s
    else
      let s := s.modPhaser node i fun P => { P with completed := some m.phase }
      .next (if node < 4 then s.deliver node gCOMPLETE m else s.flitDown node P gCOMPLETE m)

/-- GAUZE_JOIN (R298, R305): the root's reply names the first phase of membership, or FULL in VALUE (DEDUCED, log entry 15). -/
def execGauzeJoin (node : Nat) (m : GauzeMsg) (s : State) : Out :=
  let s := s.takeFlit node gJOIN m
  match (s.node node).look (msgHandle m) with
  | none => .next s
  | some (i, P) =>
    if P.broken || !(s.node node).up then .next s
    else if !P.root then .next (s.flitUp node P gJOIN m)
    else
      let r := { msgOf P.handle P.cls with ident := m.ident, count := P.latecnt }
      if (P.expected : Int) + P.delta + m.count > 16777215 then .next (s.flitTo P gJOINREPLY { r with value := 3 })
      else .next ((s.modPhaser node i fun P => (P.register m.count).2).flitTo P gJOINREPLY { r with phase := (P.register m.count).1 })

/-- GAUZE_LEAVE (R298, R306): the reply names the last phase of membership (DEDUCED, log entry 15). -/
def execGauzeLeave (node : Nat) (m : GauzeMsg) (s : State) : Out :=
  let s := s.takeFlit node gLEAVE m
  match (s.node node).look (msgHandle m) with
  | none => .next s
  | some (i, P) =>
    if P.broken || !(s.node node).up then .next s
    else if !P.root then .next (s.flitUp node P gLEAVE m)
    else
      let (q, Q) := P.register (-(m.count : Int))
      let r := { msgOf P.handle P.cls with ident := m.ident, phase := q - 1 }
      .next (((s.modPhaser node i fun _ => Q).flitTo P gJOINREPLY r).progress node i 3)

/-- A join's reply fills the record; a leave's sets LASTPH (R297, R305, R306). -/
def Warp.joined (W : Warp) (tr : Trip) (m : GauzeMsg) : Warp :=
  if tr.type = gJOIN then
    if m.value ≠ 0 then W
    else { W with members := W.members ++ [{ handle := tr.handle, sig := bits tr.param.toNat 15 0, wait := bitOf tr.param.toNat 16, lp := m.phase, doneph := m.phase - 1, latecnt := m.count }] }
  else
    { W with members := W.members.map fun r => if r.handle = tr.handle then { r with lastph := some m.phase } else r }

/-- GAUZE_JOIN_REPLY (R305, R306): the reply to a PHJOIN or a PHLEAVE reaches its warp (DEDUCED, log entry 15). -/
def execGauzeJoinReply (node : Nat) (m : GauzeMsg) (s : State) : Out :=
  let s := s.takeFlit node gJOINREPLY m
  if node = 4 then .next (s.flit (finderDie m.ident) gJOINREPLY m)
  else match s.trips.find? fun tr => (tr.type == gJOIN || tr.type == gLEAVE) && tr.ident == m.ident && tr.handle == msgHandle m with
    | some tr => .next ((s.modWarp tr.team tr.warp (·.joined tr m)).endTrip tr (phStatus m.value.toNat m.phase false false false))
    | none => .next s

/-- The dies of this package that a FREE goes to from the package node: those of the span, and those whose PHFREE of the handle waits (R304). -/
def State.freeDies (s : State) (h : Word) (span : Nat) : List Nat :=
  (List.range 4).filter fun d => bitOf span d || s.trips.any fun tr => tr.handle == h && tr.type == gFREE && (s.team tr.team).die == d

/-- GAUZE_FREE (R304): the home node frees its entry and tells the tree, and the dies outside it where a PHFREE waits; a FREE below another package's
home goes up to it, also where this package has no part in the tree (DEDUCED, log entry 22). -/
def execGauzeFree (node : Nat) (m : GauzeMsg) (s : State) : Out :=
  let s := s.takeFlit node gFREE m
  let h := msgHandle m
  let down (span : Nat) (s : State) : State := (s.freeDies h span).foldl (fun s d => s.flit d gFREE { m with port := 4 }) s
  let up (port : Nat) (s : State) : State := s.toPort port gFREE m
  if node < 4 then .next (s.freeDie node m)
  else match (s.node 4).look h with
    | none =>
      if hHome h ≠ s.pkg ∧ m.port < 4 then .next (match s.gauzePort with | some p => up p s | none => down 0 s) else .next (down 0 s)
    | some (_, P) =>
      if !P.home && m.port < 4 && !s.gports.contains P.port then .next (up P.port s)
      else
        let s := down P.span (s.freeEntry 4 h)
        .next (if P.pod && P.home then up P.port s else s)

/-- GAUZE_LATE (R311): the root adds it to LATECNT. -/
def execGauzeLate (node : Nat) (m : GauzeMsg) (s : State) : Out :=
  let s := s.takeFlit node gLATE m
  match (s.node node).look (msgHandle m) with
  | none => .next s
  | some (i, P) =>
    if P.root then .next (s.modPhaser node i fun P => { P with latecnt := min (P.latecnt + m.count) (2 ^ 24 - 1) })
    else .next (s.flitUp node P gLATE m)

/-- GAUZE_BROKEN (R317). -/
def execGauzeBroken (node : Nat) (m : GauzeMsg) (s : State) : Out := .next ((s.takeFlit node gBROKEN m).breakAt node (msgHandle m))

/-- GAUZE_CREDIT (R290): credits of a class come back; what Gauze port p brings comes to the package node by its port 4 + p. -/
def execGauzeCredit (node : Nat) (m : GauzeMsg) (s : State) : Out :=
  let s := s.takeFlit node gCREDIT m
  let k := 4 * (m.port - 4) + m.cls
  .next { s with credits := s.credits.ins k (s.credits.get k 0 + m.count) }

/-- GAUZE_RESERVED_FLIT (R291): discarded and logged. -/
def execGauzeReservedFlit (node : Nat) (m : GauzeMsg) (s : State) : Out := .next ((s.takeFlit node 12 m).event 9 node m.port)

/-- GAUZE_PORT_LOST (R290, R317): every phaser whose tree uses the port goes BROKEN. -/
def State.portLost (s : State) (port : Nat) : State :=
  let s := { s with gports := setIns port s.gports, gqueue := s.gqueue.del port, gstall := s.gstall.del port }
  let s := (s.breakAll 4 fun P => P.pod && P.port == port).event 8 (4 + port / 2) port
  -- creations that wait for replies through the port find their packages unreachable (R295)
  (s.trips.filter fun tr => tr.type == gCREATE && tr.left != 0 && (((s.node 4).look tr.handle).map fun x => x.2.port).getD port == port).foldl
    (fun s tr => s.createEnd { tr with left := 0, code := 13 } {}) s

/-- GAUZE_PORT_LOST (R290, R317). -/
def execGauzePortLost (port : Nat) (s : State) : Out := .next (if s.gports.contains port then s else s.portLost port)

/-- Ports that have accepted no flit for 20 microseconds while messages wait are lost (R290). -/
def State.stalledPorts (s : State) : List Nat :=
  (List.range 4).filter fun p => !s.gports.contains p && (s.gstall.find p).any fun t => decide (s.now ≥ t + Config.usCycles 20)

/-- A PHNEW under way whose tree needs a node that has failed ends with UNREACHABLE and holds nothing (R295): at home it has not begun, or it waits
for other packages. -/
def State.createLost (s : State) (node : Nat) (tr : Trip) : State :=
  let home := if bits tr.param.toNat 2 0 ≤ 2 then (s.team tr.team).die else 4
  if tr.left ≠ 0 ∧ (node = 4 ∨ bitOf tr.span node) then s.createEnd { tr with left := 0, code := 13 } {}
  else if home = node ∧ s.flits.any fun x => x.1 == node && x.2.1 == gCREATE && x.2.2.ident == tr.ident then
    State.endTrip { s with flits := s.flits.filter fun x => !(x.1 == node && x.2.1 == gCREATE && x.2.2.ident == tr.ident) } tr (phFailure 13)
  else s

/-- GAUZE_NODE_FAILURE (R317): every phaser whose tree uses the node goes BROKEN at the surviving nodes; a PHNEW under way there fails. -/
def State.nodeFails (s : State) (node : Nat) : State :=
  let s := s.modNode node fun N => { N with up := false }
  let hs := (s.node node).entries.map fun (_, P) => P.handle
  let s := (List.range 5).foldl (fun s n => s.breakAll n fun P => hs.contains P.handle) s
  (s.trips.filter fun tr => tr.type == gCREATE).foldl (fun s tr => s.createLost node tr) s

/-- GAUZE_NODE_FAILURE (R317). -/
def execGauzeNodeFailure (node : Nat) (s : State) : Out := .next ((s.nodeFails node).event 8 node node)

/-- The instant from which an open value phase may expire (R313): none while it has no contribution or no timeout. -/
def Phaser.expiry (P : Phaser) : Option Nat :=
  if P.root && !P.broken && hKind P.handle == 2 && P.timeout != 0 && P.open_.count != 0 then
    some (max P.open_.first P.opened + Config.usCycles P.timeout)
  else none

/-- The instant by which an open value phase has expired (R313). -/
def Phaser.expired (P : Phaser) : Option Nat := P.expiry.map (· + Config.usCycles 1)

/-- VALUE_PHASE_TIMEOUT (R313): the phase completes with what it has, LATE and MISSING. -/
def execValuePhaseTimeout (node entry : Nat) (s : State) : Out :=
  match (s.node node).entries.find entry with
  | some P =>
    if P.expiry.any fun t => decide (t ≤ s.now) then
      .next (((s.modPhaser node entry (·.advance s.now)).flitDown node P gCOMPLETE (P.completion true)).progress node entry 2)
    else .next s
  | none => .next s

end Sys2Proof.Machine
end

