-- ==== Sys2Proof/Machine/Phasers.lean ====
section
/-! DEFINITION. The PH family (R301 to R310), the signals of copies (R300), and signals held for acknowledgements (R307). -/

namespace Sys2Proof.Machine

/-- What a warp's die knows of a handle (R292, R305). -/
inductive Seen where
  /-- Stale. -/
  | stale
  /-- Live or BROKEN at its home node, whose span leaves the die out. -/
  | outside (P : Phaser)
  | here (P : Phaser)
  deriving DecidableEq, Repr

/-- The handle as the die's node has it; a phaser of another die's node, or of the package node whose span leaves the die out, lies outside. Of a
handle of another package's home that this package holds nothing of, the package cannot tell whether it is stale: either may be so (R4)
(DESIGN CHOICE, log entry 22). -/
def State.see (s : State) (die : Nat) (h : Word) : Seen × State :=
  match (s.node die).look h with
  | some (_, P) => (.here P, s)
  | none => match [4, 0, 1, 2, 3].findSome? fun n => (s.node n).look h with
    | some (_, P) => (.outside P, s)
    | none =>
      if hHome h = s.pkg ∨ hScope h = 0 ∨ hScope h > 4 ∨ hKind h = 3 ∨ hEntry h ≥ (if hScope h ≤ 2 then Config.dieEntries else Config.pkgEntries) then (.stale, s)
      else let (k, s) := s.choose 2; (if k = 0 then .stale else .outside { handle := h }, s)

/-- The handle as a warp sees it: a record that has been told that its phaser is BROKEN says so, also when the die's node has lost the entry (R317). -/
def State.seeFor (s : State) (t w : Nat) (h : Word) : Seen × State :=
  match s.see (s.team t).die h with
  | (.here P, s) => (.here P, s)
  | (x, s) => if (s.warp t w).members.any fun r => r.handle == h && r.broken then (.here { handle := h, team := t, broken := true }, s) else (x, s)

/-- The code of an instruction on a handle that the warp's die holds nothing of: `out` where the phaser lives elsewhere. -/
def Seen.code (x : Seen) (out : Nat) : Nat := match x with | .stale => 1 | _ => out

/-- The warp's record of a handle. -/
def Warp.member (W : Warp) (h : Word) : Option Member := W.members.find? fun r => r.handle == h

def Warp.modMember (W : Warp) (h : Word) (f : Member → Member) : Warp :=
  { W with members := W.members.map fun r => if r.handle == h then f r else r }

/-- The frame of the PH family (R301): it runs in a warp's scalar stream, the answer of a round trip is the result. -/
def phInstr (d a b : Reg) (useB : Bool) (s : State) (k : Nat → Nat → Word → State → State) : Out :=
  warpOnly [d, a, b] (a.toNat :: if useB then [b.toNat] else []) s <|
    match s.cur with
    | .warp t w => match s.waiting with
      | .reply v => .next (s.result d v)
      | .tree => stay s
      | _ => .next (k t w (s.reg a) s)
    | _ => .next s.illegal

/-- A status without further effect (R302) (DEDUCED, log entry 22). -/
def State.phCode (s : State) (d : Reg) (code : Nat) : State := s.result d (phStatus code 0 false false false)

/-- A round trip starts: the message goes to a node, and the stream waits for the reply. -/
def State.startTrip (s : State) (tr : Trip) (node : Nat) (m : GauzeMsg) : State :=
  ({ s with trips := s.trips ++ [tr] }.flit node tr.type m).setWait .tree

/-- The finder identity of a warp. -/
def State.warpIdent (s : State) (t w : Nat) : Half := s.finder (s.team t).die false (s.team t).core (s.warp t w).slot

/-! ### PHNEW (R293 to R295, R303) -/

/-- A parameter word that keeps R293. -/
def paramOk (w : Nat) : Bool :=
  let scope := bits w 2 0
  let kind := bits w 4 3
  bits w 63 48 == 0 && bits w 31 24 == 0 && bits w 19 18 == 0 && bits w 15 5 == 0 && decide (1 ≤ scope) && decide (scope ≤ 4) && kind != 3 &&
  (if kind = 2 then decide (bits w 23 20 ≤ 6) else bits w 23 20 == 0 && bits w 47 32 == 0)

/-- A span list's entries are valid (R294): the mask of this package's dies, and the other packages. -/
def spanOf (pkg scope : Nat) (es : List Nat) : Option (Nat × List (Nat × Nat)) :=
  let ps := es.map fun e => bits e 11 0
  if es.any fun e => bits e 31 16 != 0 || bits e 15 12 == 0 then none
  else if !ps.Nodup || (scope == 3 && ps.any (· != pkg)) then none
  else match es.find? fun e => bits e 11 0 == pkg with
    | none => none
    | some e => some (bits e 15 12, (es.filter fun e => bits e 11 0 != pkg).map fun e => (bits e 11 0, bits e 15 12))

/-- PHNEW goes on once its span is known. -/
def State.phnewGo (s : State) (t w scope p : Nat) (h0 : GauzeMsg) (mask : Nat) (pkgs : List (Nat × Nat)) (d : Reg) : State :=
  let die := (s.team t).die
  let home := if scope ≤ 2 then die else 4
  let id := s.warpIdent t w
  if !(s.node home).up then s.result d (phFailure 13)
  else s.startTrip { team := t, warp := w, type := gCREATE, ident := id, param := BitVec.ofNat 64 p, span := mask, pkgs := pkgs } home
    { h0 with ident := id, port := if scope ≤ 2 then (s.team t).core else die }

/-- PHNEW (R303). -/
def execPhnew (d a b : Reg) (s : State) : Out :=
  phInstr d a b true s fun t w sa s =>
    let p := (s.reg b).toNat
    let scope := bits p 2 0
    let die := (s.team t).die
    let m : GauzeMsg := { cls := bits p 17 16, kind := bits p 4 3, home := s.pkg, scope := scope }
    if !paramOk p then s.result d (phFailure 10)
    else if scope ≤ 2 then (if sa ≠ 0 then s.result d (phFailure 14) else s.phnewGo t w scope p m (2 ^ die) [] d)
    else if sa = 0 then s.phnewGo t w scope p m 15 [] d
    else match s.readPieces 8 [sa.toNat] with
      | (none, s) => s
      | (some hd, s) =>
        let n := hd.headD 0 % 2 ^ 16
        if hd.headD 0 ≥ 2 ^ 16 ∨ n < 1 ∨ n > 256 then s.result d (phFailure 14)
        else match s.readPieces 4 ((List.range n).map fun i => (sa + 8 + BitVec.ofNat 64 (4 * i)).toNat) with
          | (none, s) => s
          | (some es, s) => match spanOf s.pkg scope es with
            | none => s.result d (phFailure 14)
            | some (mask, pkgs) => s.phnewGo t w scope p m mask pkgs d

/-! ### PHFREE, PHJOIN, PHLEAVE (R304 to R306) -/

/-- PHFREE (R304): any warp in the phaser's scope may free it, its die in the span or not (DEDUCED, log entry 22). -/
def execPhfree (d a : Reg) (s : State) : Out :=
  phInstr d a 0 false s fun t w h s =>
    let die := (s.team t).die
    let go (P : Phaser) (s : State) : State :=
      let m := { msgOf h P.cls with port := if hScope h ≤ 2 then (s.team t).core else die }
      if hScope h ≥ 3 ∧ (!(s.node 4).up || s.homeLost 4 P || (hHome h ≠ s.pkg && s.gauzePort.isNone)) then (s.freeHere h m).phCode d 0
      else s.startTrip { team := t, warp := w, type := gFREE, handle := h, ident := s.warpIdent t w } (if hScope h ≤ 2 then die else 4) m
    match s.seeFor t w h with
    | (.stale, s) => s.phCode d 1
    | (.outside P, s) => if hScope h = 4 ∨ (hScope h = 3 ∧ ((s.node 4).look h).isSome) then go P s else s.phCode d 4
    | (.here P, s) => if hScope h = 1 ∧ P.team ≠ t then s.phCode d 4 else go P s

/-- PHJOIN (R305) (DEDUCED, log entry 22). -/
def execPhjoin (d a b : Reg) (s : State) : Out :=
  phInstr d a b true s fun t w h s =>
    let r := (s.reg b).toNat
    let die := (s.team t).die
    if r ≥ 2 ^ 17 ∨ r = 0 then s.phCode d 10
    else match s.seeFor t w h with
      | (.stale, s) => s.phCode d 1
      | (.outside P, s) => s.phCode d (if P.broken then 6 else 4)
      | (.here P, s) =>
        if P.broken then s.phCode d 6
        else if hScope h = 1 ∧ P.team ≠ t then s.phCode d 4
        else if ((s.warp t w).member h).isSome ∨ (s.warp t w).members.length ≥ 8 then s.phCode d 3
        else
          let id := s.warpIdent t w
          s.startTrip { team := t, warp := w, type := gJOIN, handle := h, ident := id, param := s.reg b } die
            { msgOf h P.cls with port := (s.team t).core, ident := id, count := bits r 15 0 }

/-- PHLEAVE (R306). -/
def execPhleave (d a : Reg) (s : State) : Out :=
  phInstr d a 0 false s fun t w h s =>
    let die := (s.team t).die
    match s.seeFor t w h with
    | (.here P, s) => match (s.warp t w).member h with
      | none => s.phCode d 2
      | some r =>
        if P.broken ∨ r.broken then s.phCode d 6
        else match r.lastph with
          | some p => s.result d (phStatus 0 p false false false)
          | none =>
            let id := s.warpIdent t w
            s.startTrip { team := t, warp := w, type := gLEAVE, handle := h, ident := id } die
              { msgOf h P.cls with port := (s.team t).core, ident := id, count := r.sig }
    | (x, s) => s.phCode d (x.code 2)

/-- SYS.EXIT leaves each membership as PHLEAVE does, without waiting for the reply (R306): the record stays until the COMPLETE of its last phase, so
that copies still signal through it. -/
def State.leaveAll (s : State) (t w : Nat) : State :=
  (s.warp t w).members.foldl (fun s r => match s.see (s.team t).die r.handle with
    | (.here P, s) =>
      if P.broken || r.lastph.isSome then s
      else
        let id := s.warpIdent t w
        let s : State := { s with trips := s.trips ++ [{ team := t, warp := w, type := gLEAVE, handle := r.handle, ident := id }] }
        s.flit (s.team t).die gLEAVE
          { msgOf r.handle P.cls with port := (s.team t).core, ident := id, count := r.sig }
    | (_, s) => s) s

/-! ### PHSIG, PHSIGB (R300, R307) -/

/-- A record after one signal (R300, R307). -/
def Member.gave (r : Member) : Member := if r.given + 1 = r.sig then { r with lp := r.lp + 1, given := 0 } else { r with given := r.given + 1 }

/-- The operations that PHSIGB waits for at the port (R307): the remote writes of R221. -/
def State.unacked (s : State) (t w : Nat) : List Nat :=
  (s.warp t w).writes ++ Map.keys (s.copies.filter fun (k, c) => c.kind == 5 && c.team == some t && c.issuer == w && s.pending k)

/-- PHSIG and PHSIGB. -/
def phSignal (hold : Bool) (d a b : Reg) (s : State) : Out :=
  phInstr d a b true s fun t w h s =>
    let die := (s.team t).die
    match s.seeFor t w h with
    | (.here P, s) => match (s.warp t w).member h with
      | none => s.phCode d 2
      | some r =>
        if P.broken ∨ r.broken then s.phCode d 6
        else if r.sig = 0 ∨ beyond r.lp r.lastph then s.phCode d 9
        else if (r.lp - r.doneph).toNat > 1 then s.setWait (.phase h)
        else
          let m := { msgOf h P.cls with port := (s.team t).core, phase := r.lp, value := (s.reg b).truncate 32, ident := s.warpIdent t w, count := 1 }
          let ids := if hold then s.unacked t w else []
          let s := if ids.isEmpty then s.flit die gSIGNAL m else s.modNode die fun N => { N with held := N.held ++ [(m, ids)] }
          (s.modWarp t w fun W => W.modMember h Member.gave).result d (phStatus 0 r.lp false false false)
    | (x, s) => s.phCode d (x.code 2)

/-- PHSIG (R307). -/
def execPhsig (d a b : Reg) (s : State) : Out := phSignal false d a b s

/-- PHSIGB (R307): the port holds the signal until the warp's remote writes are acknowledged. -/
def execPhsigb (d a b : Reg) (s : State) : Out := phSignal true d a b s

/-- The quarter of a core whose warp sends a message, from its finder identity (R308). -/
def msgQuarter (m : GauzeMsg) : Nat := bits m.ident.toNat 9 4 % 4

/-- A signal held at a die's port leaves when its remote writes have been acknowledged, and its core has sent none in this cycle (R288, R307). -/
def State.releaseOne (s : State) (d : Nat) (x : GauzeMsg × List Nat) : State :=
  let busy := s.flits.any fun (n, type, m) => n == d && type == gSIGNAL && m.port == x.1.port && m.sent == s.now
  if x.2.any s.pending || busy then s
  else (s.modNode d fun N => { N with held := N.held.erase x }).flit d gSIGNAL x.1

/-- Signals whose remote writes have been acknowledged leave the ports, of a core's the lower quarter's first (R288, R307). -/
def State.releaseHeld (s : State) : State :=
  (List.range 4).foldl (fun s d => (sortBy (fun x y => decide (msgQuarter x.1 ≤ msgQuarter y.1)) (s.node d).held).foldl (fun s x => s.releaseOne d x) s) s

/-- The signal of a copy that has ended (R300): through the record of its warp, from the engine of a cluster; without a record that can
signal it is dropped and logged. It waits while the record is two phases ahead. -/
def State.copySignal (s : State) (t w : Nat) (h : Word) (serial cluster : Nat) : State :=
  let die := (s.team t).die
  match s.see die h, (s.warp t w).member h with
  | (.here P, s), some r =>
    if r.sig = 0 || beyond r.lp r.lastph then s.event 10 die h.toNat
    else if P.broken then s
    else if (r.lp - r.doneph).toNat > 1 then s.modWarp t w fun W => { W with owed := W.owed ++ [(h, serial, cluster)] }
    else
      let v : Half := if hKind h = 2 then combIdentity P.comb else BitVec.ofNat 32 serial
      let m := { msgOf h P.cls with port := 64 + cluster, phase := r.lp, value := v, ident := s.finder die true cluster 0, count := 1 }
      (s.flit die gSIGNAL m).modWarp t w fun W => W.modMember h Member.gave
  | (_, s), _ => s.event 10 die h.toNat

/-- Signals of copies that waited are sent once their condition holds (R300). -/
def State.payOwed (s : State) : State :=
  s.teams.foldl (fun s (t, T) => T.warps.foldl (fun s (w, W) =>
    if W.owed.isEmpty then s
    else W.owed.foldl (fun s (h, serial, cluster) => s.copySignal t w h serial cluster) (s.modWarp t w fun W => { W with owed := [] })) s) s

/-! ### PHWAIT, PHTEST, PHANY, PHVAL, PHREAD (R309, R310, R467) -/

/-- PHWAIT and PHTEST; `wait` for PHWAIT. -/
def phTest (wait : Bool) (d a b : Reg) (s : State) : Out :=
  phInstr d a b true s fun t w h s =>
    match s.seeFor t w h with
    | (.here P, s) => match (s.warp t w).member h with
      | none => s.phCode d 2
      | some r =>
        if !r.wait then s.phCode d 8
        else if P.broken ∨ r.broken then s.phCode d 6
        else if reached r.doneph ((s.reg b).truncate 32) then
          let (late, nan) := match r.result with | some (_, _, _, late, nan) => (late, nan) | none => (false, false)
          s.result d (phStatus 0 r.doneph true late nan)
        else if wait then s.setWait (.phase h)
        else s.result d (phStatus 0 r.doneph false false false)
    | (x, s) => s.phCode d (x.code 2)

/-- PHWAIT (R309). -/
def execPhwait (d a b : Reg) (s : State) : Out := phTest true d a b s

/-- PHTEST (R309). -/
def execPhtest (d a b : Reg) (s : State) : Out := phTest false d a b s

/-- The result of phase p in a waiter's record of a phaser of this kind; all ones in every other case (R310). -/
def phResult (kind : Nat) (d a b : Reg) (g : Half → Half → Nat → Bool → Bool → Nat) (s : State) : Out :=
  phInstr d a b true s fun t w h s =>
    let none' : Word := ~~~0
    match (s.seeFor t w h).1, (s.warp t w).member h with
    | .here P, some r => match r.result with
      | some (v, id, miss, late, nan) =>
        if r.wait ∧ !P.broken ∧ !r.broken ∧ hKind h = kind ∧ r.doneph = (s.reg b).truncate 32 then s.result d (BitVec.ofNat 64 (g v id miss late nan))
        else s.result d none'
      | none => s.result d none'
    | _, _ => s.result d none'

/-- PHANY (R310). -/
def execPhany (d a b : Reg) (s : State) : Out := phResult 1 d a b (fun v id _ _ _ => id.toNat * 2 ^ 32 + v.toNat) s

/-- PHVAL (R310). -/
def execPhval (d a b : Reg) (s : State) : Out :=
  phResult 2 d a b (fun v _ miss late nan => nan.toNat * 2 ^ 57 + late.toNat * 2 ^ 56 + miss % 2 ^ 24 * 2 ^ 32 + v.toNat) s

/-- PHREAD (R310). -/
def execPhread (d a : Reg) (s : State) : Out :=
  phInstr d a 0 false s fun t w h s =>
    match (s.seeFor t w h).1, (s.warp t w).member h with
    | .here P, some r =>
      s.result d (BitVec.ofNat 64 (r.doneph.toNat * 2 ^ 32 + r.latecnt * 2 ^ 8 + r.lastph.isSome.toNat * 8 + (P.broken || r.broken).toNat * 4 + r.wait.toNat * 2 + (r.sig != 0).toNat))
    | _, _ => s.result d 0

end Sys2Proof.Machine
end

