-- ==== Sys2Proof/Machine/Copies.lean ====
section
/-! DEFINITION. Arrival words (R250 to R253), the copy engines (R238 to R249), the CPY family, and the copies of sub-launches (R376). -/

namespace Sys2Proof.Machine

/-! ### Arrival words -/

/-- The update of R251 on an arrival word. -/
def awAdd (w n : Nat) : Nat :=
  let target := bits w 63 40
  let c := bits w 39 16 + n
  let (c, gen) := if target = 0 then (c, bits w 15 0) else (c % target, (bits w 15 0 + c / target) % 2 ^ 16)
  target * 2 ^ 40 + c % 2 ^ 24 * 2 ^ 16 + gen

/-- Apply arrivals to a word of a scratchpad; a word that holds an uncorrectable error stays as it is (DEDUCED, log entry 24). -/
def State.arriveNow (s : State) (t off n : Nat) : State :=
  match s.spRead t off 8 with
  | (some w, s) => s.spWrite t off (bytesLE 8 (awAdd w n))
  | (none, s) => s

/-- The log's entry for a word takes the arrivals, or a new entry does (R433). -/
def Team.logArrive (T : Team) (off n : Nat) : Team :=
  let same (e : LogEntry) : Bool := match e with | .arrive o _ => o == off | _ => false
  if T.log.any same then
    { T with log := T.log.map fun e => match e with | .arrive o m => if o = off then .arrive o (m + n) else e | e => e }
  else { T with log := T.log ++ [.arrive off n] }

/-- Arrivals at a word (R251); while the team is away they go to its log, or, when that is full, to the saved word at once (R433) (DEDUCED, log entry 24). -/
def State.arrive (s : State) (t off n : Nat) : State :=
  let T := s.team t
  let same (e : LogEntry) : Bool := match e with | .arrive o _ => o == off | _ => false
  if T.phase = .away ∧ (T.log.any same ∨ T.log.length < Config.logEntries) then s.modTeam t (·.logArrive off n) else s.arriveNow t off n

/-- The frame of the AW family (R253): the offset's checks, the word when it is to be read, and `rel` for the releases, which the
sequencer performs after its matrix operations (R276). -/
def awInstr (d a b : Reg) (useB rel rd : Bool) (s : State) (k : Nat → Nat → Nat → State → Out) : Out :=
  scalar true true [d, a, b] (a.toNat :: if useB then [b.toNat] else []) s <|
    let t := s.me
    let x := (s.reg a).toNat % 2 ^ 32
    match (s.team t).spCheck x 8 with
    | some c => .next (s.streamFault { code := c, addr := x })
    | none =>
      if rel && s.seqBusy then stay s
      else if !rd then k t x 0 s
      else match s.cur with
        | .seq _ => match s.spGet t x 8 with
          | some w => k t x w s
          | none => .next (s.streamPoison 2 3 x)
        | _ => match s.spRead t x 8 with
          | (some w, s) => k t x w s
          | (none, s) => .next (s.streamPoison 2 3 x)

/-- Write an arrival word as the issuing party. -/
def State.awPut (s : State) (t x w : Nat) : State :=
  match s.cur with
  | .seq _ => s.spPut t x (bytesLE 8 w)
  | _ => s.spWrite t x (bytesLE 8 w)

/-- GEN of an arrival word, as a result. -/
def awGen (w : Nat) : Word := BitVec.ofNat 64 (w % 2 ^ 16)

/-- AWINIT (R253). -/
def execAwinit (a b : Reg) (s : State) : Out :=
  awInstr 0 a b true true false s fun t x _ s =>
    let y := (s.reg b).toNat
    .next ((s.awPut t x (y % 2 ^ 24 * 2 ^ 40 + bits y 39 24)).advance 4)

/-- AWEXPECT (R253). -/
def execAwexpect (d a b : Reg) (s : State) : Out :=
  awInstr d a b true true true s fun t x w s =>
    let w := awAdd ((s.reg b).toNat % 2 ^ 24 * 2 ^ 40 + w % 2 ^ 40) 0
    .next ((s.awPut t x w).result d (awGen w))

/-- AWARRIVE (R253). -/
def execAwarrive (d a b : Reg) (s : State) : Out :=
  awInstr d a b true true true s fun t x w s => .next ((s.awPut t x (awAdd w ((s.reg b).toNat % 2 ^ 24))).result d (awGen w))

/-- AWWAIT (R253): while GEN is g it issues again. -/
def execAwwait (d a b : Reg) (s : State) : Out :=
  awInstr d a b true false true s fun _ _ w s =>
    if w % 2 ^ 16 = (s.reg b).toNat % 2 ^ 16 then stay s else .next (s.result d (awGen w))

/-- AWTEST (R253). -/
def execAwtest (d a b : Reg) (s : State) : Out :=
  awInstr d a b true false true s fun _ _ w s => .next (s.result d (BitVec.ofNat 64 w))

/-! ### Descriptors and pieces (R242 to R244) -/

/-- SRCSP, DSTSP, AWE and AWOFF (R242). -/
def Copy.srcSp (c : Copy) : Bool := bitOf c.d3.toNat 1
def Copy.dstSp (c : Copy) : Bool := bitOf c.d3.toNat 2
def Copy.awe (c : Copy) : Bool := bitOf c.d3.toNat 0
def Copy.awOff (c : Copy) : Nat := bits c.d3.toNat 23 3 * 8
def Copy.space (c : Copy) : Nat := c.die * 4096 + c.asid % 4096
/-- Length, element count, or source row pitch: D2[31:0]. -/
def Copy.len (c : Copy) : Nat := bits c.d2.toNat 31 0
/-- The weight slot of a CPYW. -/
def Copy.slot (c : Copy) : Nat := bits c.d1.toNat 36 32

/-- The descriptor breaks R243 for a team with a scratchpad of `spad` bytes: BADDESC. -/
def Copy.bad (c : Copy) (spad : Nat) : Bool :=
  let d0 := c.d0.toNat
  let d1 := c.d1.toNat
  let d2 := c.d2.toNat
  let d3 := c.d3.toNat
  let odd (x : Nat) : Bool := x % 4 != 0
  let noLen : Bool := c.len == 0 || odd c.len || d2 / 2 ^ 32 != 0
  let flat : Bool := d3 / 2 ^ 24 != 0
  (spad == 0 && (c.srcSp || c.dstSp)) || (c.awe && decide (c.awOff + 8 > spad)) ||
  (match c.kind with
   | 0 => noLen || odd d0 || odd d1 || flat
   | 1 => odd d0 || odd d1 || odd (bits d2 31 0) || odd (bits d2 63 32) || odd (bits d3 47 24) || bits d3 47 24 == 0 || bits d3 63 48 == 0
   | 2 => c.srcSp || c.dstSp || d1 / 2 ^ 37 != 0 || d2 / 2 ^ 12 != 0 || flat
   | 3 => c.srcSp || c.len == 0 || d2 / 2 ^ 32 != 0 || odd d1 || flat
   | 4 => c.srcSp || noLen || odd d1 || flat
   | _ => c.dstSp || c.len == 0 || odd c.len || d2 / 2 ^ 48 != 0 || flat)

/-- What one chunk moves: source and destination address, offset in the copy's row, length; nothing where `len` is 0. -/
structure Piece where
  src : Nat := 0
  dst : Nat := 0
  off : Nat := 0
  len : Nat := 0
  deriving DecidableEq, Repr, Inhabited

/-- Lines that `len` bytes at `dst` touch. -/
def linesOf (dst len : Nat) : Nat := (dst + len - 1) / 128 - dst / 128 + 1

/-- The piece of one destination line, before (part 0) or after (part 1) the line boundary of its source. -/
def linePiece (src dst len line part : Nat) : Piece :=
  let base := (dst / 128 + line) * 128
  let i0 := max dst base - dst
  let i1 := max i0 (min (dst + len) (base + 128) - dst)
  let cut := min i1 (i0 + (128 - (src + i0) % 128))
  if part = 0 then { src := src + i0, dst := dst + i0, off := i0, len := cut - i0 } else { src := src + cut, dst := dst + cut, off := cut, len := i1 - cut }

/-- Chunks of a copy (R238), and the piece that a chunk moves: kinds 0, 1 and 5; those of kinds 3 and 4 have
one part a line, and no source address. -/
def Copy.chunks (c : Copy) : Nat :=
  match c.kind with
  | 1 => bits c.d3.toNat 63 48 * (2 * ((bits c.d3.toNat 47 24 + 254) / 128))
  | 2 => 128
  | 3 => linesOf c.d1.toNat (4 * c.len)
  | 4 => linesOf c.d1.toNat c.len
  | _ => 2 * linesOf c.d1.toNat c.len

def Copy.piece (c : Copy) (n : Nat) : Piece :=
  match c.kind with
  | 1 =>
    let rb := bits c.d3.toNat 47 24
    let l := 2 * ((rb + 254) / 128)
    linePiece (c.d0.toNat + n / l * bits c.d2.toNat 31 0) (c.d1.toNat + n / l * bits c.d2.toNat 63 32) rb (n % l / 2) (n % l % 2)
  | 3 => linePiece c.d1.toNat c.d1.toNat (4 * c.len) n 0
  | 4 => linePiece c.d1.toNat c.d1.toNat c.len n 0
  | _ => linePiece c.d0.toNat c.d1.toNat c.len (n / 2) (n % 2)

/-- Take one chunk from those not performed: the k-th of the ranges. -/
def takeChunk : Nat → List (Nat × Nat) → Option (Nat × List (Nat × Nat))
  | _, [] => none
  | k, (a, b) :: r =>
    if k < b - a then some (a + k, (if k = 0 then [] else [(a, a + k)]) ++ (if a + k + 1 = b then [] else [(a + k + 1, b)]) ++ r)
    else (takeChunk (k - (b - a)) r).map fun (n, r) => (n, (a, b) :: r)

/-- Chunks not performed. -/
def Copy.todo (c : Copy) : Nat := (c.left.map fun (a, b) => b - a).sum

/-- The export entry of a die; none beyond the table (R321, R446). -/
def Die.export_ (D : Die) (i : Nat) : Option Nat :=
  if D.func.base.get 0x12000 0 = 0 ∨ i ≥ D.func.base.get 0x12008 0 then none else some (D.tableNum (D.func.base.get 0x12000 0 + 16 * i) 2)

/-- Where a global address of an address space lies: die and physical address. -/
def State.localPlace (s : State) (space x : Nat) : Option (Nat × Nat) :=
  if isWindow x then none
  else match (s.translate space x).1 with
    | .ok t => some (space / 4096, t.pa x)
    | .error _ => none

/-- Where the byte at an offset under an import entry lies (R321, R325); bytes of another package go by their export. -/
def State.farPlace (s : State) (e o : Nat) : Option (Nat × Nat) :=
  let d := bits e 51 50
  if bits e 63 52 ≠ s.pkg then some (peerPlace (bits e 63 52) d (bits e 49 34) o)
  else ((s.die d).export_ (bits e 49 34)).bind fun x => s.localPlace (d * 4096 + bits x 63 52) (bits x 51 12 * 4096 + o)

/-- Where a byte lies, through the peer window or not. -/
def State.placeOf (s : State) (space x : Nat) : Option (Nat × Nat) :=
  if isWindow x then (s.importOf space (bits x 47 32)).1.bind fun e => s.farPlace e (x % 2 ^ 32) else s.localPlace space x

/-- The source of a copy, as addresses and lengths (R243, R244). -/
def Copy.sources (c : Copy) : List (Nat × Nat) :=
  let d0 := c.d0.toNat
  match c.kind with
  | 1 => (List.range (bits c.d3.toNat 63 48)).map fun r => (d0 + r * bits c.d2.toNat 31 0, bits c.d3.toNat 47 24)
  | 3 => [(d0, match c.fmt with | some 1 => c.len | some 2 => (c.len + 1) / 2 | _ => 2 * c.len)]
  | 0 => [(d0, c.len)]
  | 5 => [(d0, c.len)]
  | _ => []

/-- Addresses and lengths cut at 4 KiB pages. -/
def cutPages (x n : Nat) : List (Nat × Nat) :=
  (List.range ((x + n - 1) / 4096 - x / 4096 + 1)).map fun i =>
    let a := max x ((x / 4096 + i) * 4096)
    (a, min (x + n) ((x / 4096 + i + 1) * 4096) - a)

/-- Bytes, of `n` that the copy writes from address `x` on, that its source holds too (R240), by whichever mappings: alias pages and windows
included. -/
def State.overlaps (s : State) (c : Copy) (toSp : Bool) (x n : Nat) : List Nat :=
  let meet (at_ a len : Nat) (i : Nat) : Bool := decide (a ≤ at_ + i) && decide (at_ + i < a + len)
  if c.srcSp != toSp then []
  else if toSp then (List.range n).filter fun i => c.sources.any fun (a, len) => meet x a len i
  else match s.placeOf c.space x with
    | none => []
    | some (d, pa) =>
      let src := (c.sources.flatMap fun (a, len) => cutPages a len).filterMap fun (a, len) => match s.placeOf c.space a with
        | some (e, q) => if e = d then some (q, len) else none
        | none => none
      (List.range n).filter fun i => src.any fun (q, len) => meet pa q len i

/-! ### States of copies (R246 to R249) -/

/-- CAUSE of a failing check (R248). -/
def causeOf (code : Nat) : Nat :=
  if code = cSCALE then 4
  else match code / 256 with
    | 1 => 1
    | 2 => 2
    | 3 => 3
    | 4 => 5
    | _ => 6

/-- The state of a weight slot of a team; a slot that is not granted has none. -/
def State.modSlot (s : State) (t k : Nat) (f : WSlot → WSlot) : State :=
  if k ≥ 4 then s else s.modTeam t fun T => { T with slots := T.slots.ins k (f (T.slots.get k {})) }

/-- Bytes are counted for the arrival word (R243, R251). -/
def State.counted (s : State) (k n : Nat) : State :=
  let c := s.copy k
  let s := s.modCopy k fun c => { c with bytes := c.bytes + n }
  match c.team with
  | some t => if c.awe then s.arrive t c.awOff n else s
  | none => s

/-- Requests of a copy that have not been sent are not made (R249). -/
def State.unsend (s : State) (k : Nat) : State :=
  { s with reqs := s.reqs.filter fun (_, r) => !(r.owner.copyOf == some k && !r.sent && r.stamp == 0) }

/-- A copy ends: its engine counts it, keeps the states of the last 256 and the fault address (R248), and its phaser signal is sent (R249,
R251). A CPYW that fails leaves its slot invalid, as one does that is cancelled after it has started (R246). -/
def State.endCopy (s : State) (k : Nat) (st : CopyState) (cause addr : Nat) : State :=
  let c := s.copy k
  let e := (s.engines.get c.engine {}).finished + 1
  let s := { s.unsend k with engines := s.engines.ins c.engine { s.engines.get c.engine {} with finished := e } }
  let s := s.modCopy k fun c => { c with state := st, cause := cause, left := [], absent := none, finished := e, fault := if st = .failed then addr else 0 }
  let s := if st = .failed then s.event 12 (c.engine / 8) addr else s
  let s := match c.team with
    | some t => if c.kind == 2 && (st == CopyState.failed || (c.state == CopyState.active && st != CopyState.done)) then s.modSlot t c.slot fun w => { w with state := .invalid } else s
    | none => s
  let kept (j : Nat) (x : Copy) : Bool := s.pending j || x.engine != c.engine || decide (x.finished + 256 ≥ e) || j == k
  let s := { s with copies := s.copies.filter fun (j, x) => kept j x }
  match c.phs, c.team with
  | some (h, w), some t => s.copySignal t w h c.serial (c.engine % 8)
  | _, _ => s

/-! ### Bits of sub-launches (R387, R388, R390) -/

/-- An access of the part itself to `n` bytes of an address space: none while it must wait for an absent page or a peer's answer; else the word
read, or that the access failed. `here` is what it does on local memory, `away` its packet to a peer. -/
def State.partAccess (s : State) (j : Job) (space va n : Nat) (k : Acc) (here : Page → Nat → State → Option Nat × State) (away : Nat → TwillPacket) :
    Option (Option Nat) × State :=
  match s.jobs.find? fun x => x.1 == j && x.2.1 == va with
  | some (_, _, v) => (some v, s)
  | none =>
    if s.reqs.any fun (_, r) => r.owner == .part j va then (none, s)
    else match s.checkNow space va n k with
      | (.local page pa, s) => let (v, s) := here page pa s; (some v, s)
      | (.fail c _, s) => (if c = cABSENT then none else some none, s)
      | (.remote e, s) => (none, (s.remote (.part j va) space (away e) false [] 0 0).2)
      | (.ask _, s) => (some none, s)

/-- What the part has been told for a purpose has served. -/
def State.jobDone (s : State) (j : Job) : State := if s.jobs.isEmpty then s else { s with jobs := s.jobs.filter fun x => x.1 != j }

/-- The part reads a word. -/
def State.partLoad (s : State) (j : Job) (space va : Nat) : Option (Option Nat) × State :=
  s.partAccess j space va 8 .read (fun page pa s => s.load space va 8 page pa) fun e => s.packetOf (space / 4096) e (va % 2 ^ 32) 8 .read []

/-- The part reads words of an address space for a purpose (R477): none while a page is absent or a peer has not answered; else the words, or that a
check failed. -/
def State.partRead (s : State) (j : Job) (space : Nat) : List Nat → Option (Option (List Nat)) × State
  | [] => (some (some []), s)
  | a :: r => match s.partLoad j space a with
    | (none, s) => (none, s)
    | (some none, s) => (some none, s)
    | (some (some v), s) => match s.partRead j space r with
      | (x, s) => (x.map fun l => l.map (v :: ·), s)

/-- The part ORs bits into a word, indivisibly (R388). -/
def State.partOr (s : State) (j : Job) (space va x : Nat) : Option (Option Nat) × State :=
  s.partAccess j space va 8 (if isWindow va then .atomic else .write)
    (fun page pa s => match s.load space va 8 page pa with
      | (some v, s) => (some v, s.putAt space va page pa (bytesLE 8 (v ||| x)))
      | (none, s) => (none, s))
    fun e => s.atomPacket space e va 8 3 false false x 0

/-- The part writes bytes that keep their alignment. -/
def State.partStore (s : State) (j : Job) (space va : Nat) (bs : List Byte) : Option (Option Nat) × State :=
  s.partAccess j space va bs.length .write (fun page pa s => (some 0, s.putAt space va page pa bs))
    fun e => s.packetOf (space / 4096) e (va % 2 ^ 32) bs.length .write bs

/-- Set bit `i` of a completion bitmap (R388): none while its page is absent or a peer has not answered; else whether it was set. -/
def State.setBit (s : State) (b k i : Nat) : Option Bool × State :=
  let B := s.bundle b
  match B.subs[k]? with
  | none => (some true, s)
  | some u =>
    let va := u.bitmap + 8 * (i / 64)
    if u.bitmap = 0 then (some true, s)
    else match s.partOr (.bit b k i) (B.die * 4096 + B.asid) va (2 ^ (i % 64)) with
      | (none, s) => (none, s)
      | (some (some _), s) =>
        (some true, if isWindow va then (s.jobDone (.bit b k i)).modBundle b fun B => { B with subs := B.subs.modify k fun u => { u with set := setIns i u.set } } else s)
      | (some none, s) => (some false, (s.jobDone (.bit b k i)).eventOpen B.die va)

/-- A copy entry of a sub-launch failed, was cancelled, or could not set its bit (R390, R391). -/
def State.entryFailed (s : State) (b k i : Nat) (fail : Bool) : State :=
  s.modBundle b fun B =>
    { B with copyfail := B.copyfail || fail, subs := B.subs.modify k fun u => { u with failed := setIns i u.failed } }

/-- A copy fails or is cancelled. -/
def State.breakCopy (s : State) (k : Nat) (st : CopyState) (cause addr : Nat) : State :=
  let s' := s.endCopy k st cause addr
  match (s.copy k).entry with
  | some (b, u, i) => s'.entryFailed b u i (st == .failed)
  | none => s'

/-- A copy fails (R248) (DEDUCED, log entry 23). -/
def State.failCopy (s : State) (k cause addr : Nat) : State := s.breakCopy k .failed cause addr

/-- A failing check of a copy's access: it waits for an absent page, or fails (R239) (DEDUCED, log entry 23). -/
def State.copyCheck (s : State) (k code addr : Nat) : State :=
  if code = cABSENT then s.modCopy k fun c => { c with absent := some (addr / 4096) } else s.failCopy k (causeOf code) addr

/-! ### Performing a chunk (R239, R240, R244) -/

/-- A request of a copy, for the window address `x`; ORD is a rule of its writes (R234). -/
def State.copyReq (s : State) (k n x : Nat) (p : TwillPacket) : State :=
  let c := s.copy k
  let (id, s) := s.remote (.copy k n) c.space { p with ord := c.ord && isWrite p.type } false [] 0 0
  { s with reqs := s.reqs.mod id fun r => { r with addr := x } }.modCopy k fun c => { c with reqs := c.reqs ++ [id] }

/-- A request for a scale byte in a peer window, once (R197). -/
def State.copyScale (s : State) (k e x : Nat) : State :=
  if s.reqs.any fun (_, r) => r.owner == .copyScale k x then s
  else
    let c := s.copy k
    let (id, s) := s.remote (.copyScale k x) c.space (s.packetOf c.die e (x % 2 ^ 32) 1 .read []) false [] 0 0
    { s with reqs := s.reqs.mod id fun r => { r with addr := x } }

/-- Chunk `n` is performed, or its data is on the way. -/
def Copy.drop (c : Copy) (n : Nat) : Copy :=
  { c with left := c.left.flatMap fun (a, b) => ((if a < min b n then [(a, min b n)] else []) ++ (if max a (n + 1) < b then [(max a (n + 1), b)] else [])) }

/-- A line that the copy has written whole is no longer poisoned (R177, R240). -/
def State.copyWrote (s : State) (k d pa n : Nat) : State :=
  if !(s.die d).poison.contains (pa / 128) then s
  else
    let w := (pa, n) :: (s.copy k).wrote
    let whole := (List.range 128).all fun i => w.any fun (a, m) => decide (a ≤ pa / 128 * 128 + i) && decide (pa / 128 * 128 + i < a + m)
    let s := s.modCopy k fun c => { c with wrote := w }
    if whole then s.modDie d fun D => { D with poison := D.poison.filter (· != pa / 128) } else s

/-- The window address of a CPYR's destination byte (R243, R244). -/
def Copy.peer (c : Copy) (o : Nat) : Nat := 15 * 2 ^ 48 + bits c.d2.toNat 47 32 * 2 ^ 32 + o % 2 ^ 32

/-- Write a piece's bytes; overlapping bytes are unpredictable (R240). `conf`: they come from a page with C = 1, so that a CPYR to another
package needs the keys of its channel (R324, R339). -/
def State.copyPut (s : State) (k n : Nat) (p : Piece) (conf : Bool) (bs : List Byte) : State :=
  let c := s.copy k
  let (bs, s) := s.blur bs (s.overlaps c (c.dstSp && c.kind != 5) (if c.kind = 5 then c.peer p.dst else p.dst) p.len)
  let put (va : Nat) (s : State) : State :=
    match s.checkNow c.space va 1 .write with
    | (.fail code a, s) => s.copyCheck k code a
    | (.local page pa, s) => ((s.store c.space va page pa bs).copyWrote k (c.space / 4096) pa p.len |>.modCopy k (·.drop n)).counted k p.len
    | (.remote _, s) => match s.importCheck c.space va p.len .write with
      | (none, e, s) =>
        let q := s.packetOf c.die e (va % 2 ^ 32) p.len .write bs
        let conf := conf && c.kind == 5
        if conf && q.dpkg != s.pkg && !s.keys.contains (q.part, q.dpkg) then s.failCopy k 2 va
        else (s.copyReq k n va { q with crypt := if conf then 2 else q.crypt }).modCopy k (·.drop n)
      | (some code, _, s) => s.copyCheck k code va
    | (.ask _, s) => s
  if c.kind = 5 then
    if p.dst + p.len > 2 ^ 32 then
      match s.checkNow c.space (c.peer p.dst) 1 .write with
      | (.fail code a, s) => s.copyCheck k code a
      | (_, s) => s.failCopy k 2 (c.peer p.dst)
    else put (c.peer p.dst) s
  else if c.dstSp then
    let t := c.team.getD 0
    if p.dst + p.len > (s.team t).spad then s.failCopy k 2 p.dst
    else ((s.spWrite t p.dst bs).modCopy k (·.drop n)).counted k p.len
  else put p.dst s

/-- Read a piece's source, from memory of this die at once, from another die with the data to come, and write it. -/
def State.copyMove (s : State) (k n : Nat) (p : Piece) : State :=
  let c := s.copy k
  if c.srcSp then
    let t := c.team.getD 0
    if p.src + p.len > (s.team t).spad then s.failCopy k 2 p.src
    else match s.spRead t p.src p.len with
      | (some v, s) => s.copyPut k n p false (bytesLE p.len v)
      | (none, s) => s.failCopy k 7 p.src
  else match s.checkNow c.space p.src 1 .read with
    | (.fail code a, s) => s.copyCheck k code a
    | (.local page pa, s) => match s.load c.space p.src p.len page pa with
      | (some v, s) => s.copyPut k n p page.c (bytesLE p.len v)
      | (none, s) => s.failCopy k 7 p.src
    | (.remote _, s) => match s.importCheck c.space p.src p.len .read with
      | (none, e, s) => (s.copyReq k n p.src (s.packetOf c.die e (p.src % 2 ^ 32) p.len .read [])).modCopy k (·.drop n)
      | (some code, _, s) => s.copyCheck k code p.src
    | (.ask _, s) => s

/-- What reading formatted elements gives (R244, R245). -/
inductive Elem where
  | val (sig : Int) (e8 : Nat) (start : Bool) (lcode : Nat)
  | wide (x : Nat)
  | fail (cause addr : Nat)
  | absent (addr : Nat)
  /-- The scale byte at this address is to come from the peer of this import entry (R197). -/
  | away (e addr : Nat)
  deriving DecidableEq, Repr

/-- The element stops its chunk. -/
def Elem.stops : Elem → Bool
  | .fail _ _ | .absent _ => true
  | _ => false

/-- A failing check of an element's access. -/
def Elem.ofCode (code addr : Nat) : Elem := if code = cABSENT then .absent addr else .fail (causeOf code) addr

/-- Element `k` of the formatted data that starts at `x`, on a page of format `fmt` (R197, R202, R244, R245); `got` holds the scale bytes that have
come from other dies. An element on a page of another FMT fails FORMAT, for CPYX too, where the spec is silent (DEDUCED, log entry 23). -/
def State.element (s : State) (space fmt x : Nat) (got : List (Nat × Option Nat)) (k : Nat) : Elem × State :=
  let n := if fmt ≥ 3 then 2 else 1
  let a := if fmt ≥ 3 then x + 2 * k else if fmt = 2 then x + k / 2 else x + k
  match s.checkNow space a 1 .read with
  | (.fail c y, s) => (.ofCode c y, s)
  | (.ask _, s) => (.fail 3 a, s)
  | (.remote _, s) => (.fail 3 a, s)
  | (.local page pa, s) =>
    if page.fmt ≠ fmt ∨ fmt = 0 ∨ a % n ≠ 0 then (.fail 3 a, s)
    else
      let data (g : Nat → Elem) (s : State) : Elem × State := match s.load space a n page pa with
        | (none, s) => (.fail 7 a, s)
        | (some v, s) => (g v, s)
      if fmt ≥ 3 then data .wide s
      else
        let r (j : Nat) : Nat := ((s.die (space / 4096)).space.get (space % 4096 * 64 + 4 * page.swi + j + 1) 0).toNat
        let bb := 16 * 2 ^ bits (r 2) 1 0 / (if fmt = 2 then 2 else 1)
        let elem (e8 v : Nat) : Elem :=
          .val (if fmt = 2 then sext (v / 16 ^ (k % 2)) 4 else sext v 8) e8 ((a - r 0 / 128 * 128) % bb == 0 && (fmt == 1 || k % 2 == 0)) (bits (r 2) 1 0)
        match s.scaleAddr space page.swi (fmt = 2) a with
        | none => (.fail 4 a, s)
        | some sa => match s.checkNow space sa 1 .read with
          | (.fail c y, s) => (.ofCode c y, s)
          | (.local pg sp, s) => match s.load space sa 1 pg sp with
            | (none, s) => (.fail 7 sa, s)
            | (some e8, s) => data (elem e8) s
          | (.remote e, s) => match got.find? fun g => g.1 == sa with
            | none => (.away e sa, s)
            | some (_, none) => (.fail 10 sa, s)
            | some (_, some e8) => data (elem e8) s
          | (.ask _, s) => (.fail 3 sa, s)

/-- FMT of the page at an address, for a formatted source. -/
def State.fmtAt (s : State) (space x : Nat) : Except Elem Nat × State :=
  match s.checkNow space x 1 .read with
  | (.fail c y, s) => (.error (.ofCode c y), s)
  | (.local page _, s) => (if page.fmt = 0 then .error (.fail 3 x) else .ok page.fmt, s)
  | (_, s) => (.error (.fail 3 x), s)

/-- Elements `k`, for `k` in a list; the first that fails ends the list. -/
def State.elements (s : State) (space fmt x : Nat) (got : List (Nat × Option Nat)) : List Nat → List (Nat × Elem) × State
  | [] => ([], s)
  | k :: r =>
    let (e, s) := s.element space fmt x got k
    if e.stops then ([(k, e)], s)
    else
      let (l, s) := s.elements space fmt x got r
      ((k, e) :: l, s)

/-- What keeps a chunk of elements from being performed: one that fails, or else one whose scale byte is to come. -/
def blocked (es : List (Nat × Elem)) : Option Elem :=
  match es.find? fun (_, e) => e.stops with
  | some (_, e) => some e
  | none => (es.find? fun (_, e) => match e with | .away _ _ => true | _ => false).map (·.2)

/-- A source element that cannot be read stops the chunk; while its scale byte comes from another die the chunk is left for later. -/
def State.elemStop (s : State) (k : Nat) : Elem → State
  | .fail c a => s.failCopy k c a
  | .absent a => s.modCopy k fun c => { c with absent := some (a / 4096) }
  | .away e a => s.copyScale k e a
  | _ => s

/-- The F32 bits of an element (R202); one that has no F32 value is free. -/
def State.elemF32 (s : State) (fmt : Nat) : Elem → Nat × State
  | .val sig e8 _ _ =>
    let w := if fmt = 2 then 4 else 8
    if blockOpen sig e8 w then s.draw 32 else (f32.enc 0 (blockVal sig e8 w), s)
  | .wide x => (f32.enc 0 ((if fmt = 3 then f16 else bf16).dec x), s)
  | _ => (0, s)

/-- A chunk of CPYX (R244). -/
def State.copyExpand (s : State) (k n : Nat) (p : Piece) : State :=
  let c := s.copy k
  match s.fmtAt c.space c.d0.toNat with
  | (.error e, s) => s.elemStop k e
  | (.ok fmt, s) =>
    let s := s.modCopy k fun c => { c with fmt := some fmt }
    let (es, s) := s.elements c.space fmt c.d0.toNat c.scales ((List.range (p.len / 4)).map (p.off / 4 + ·))
    match blocked es with
    | some e => s.elemStop k e
    | none =>
      let (bs, s) := es.foldl (fun (bs, s) (_, e) => let (v, s) := s.elemF32 fmt e; (bs ++ bytesLE 4 v, s)) (([] : List Byte), s)
      s.copyPut k n p false bs

/-- Bytes of a column of a CPYW (R245). -/
def Copy.colBytes (c : Copy) (fmt : Nat) : Nat := if fmt = 2 then (bits c.d2.toNat 8 0) / 2 else bits c.d2.toNat 8 0

/-- K and the N code keep R245 for a page format; 0 for what every format needs. -/
def Copy.shapeOk (c : Copy) (fmt : Nat) : Bool :=
  let kk := bits c.d2.toNat 8 0
  let nc := bits c.d2.toNat 11 9
  if nc ≥ 5 then false
  else if nc ≠ 0 then kk == 128
  else if fmt = 1 then decide (1 ≤ kk ∧ kk ≤ 96)
  else if fmt = 2 then decide (2 ≤ kk ∧ kk ≤ 192 ∧ kk % 2 = 0)
  else decide (1 ≤ kk ∧ kk ≤ 192)

/-- What chunk `n` of a CPYW stages: half a column, before or after its line boundary (R245). -/
def State.copyColumn (s : State) (c : Copy) (n : Nat) : Except Elem Copy × State :=
  let x := c.d0.toNat + n / 2 * bits c.d1.toNat 31 0
  match s.fmtAt c.space x with
  | (.error e, s) => (.error e, s)
  | (.ok fmt, s) =>
    if fmt ≥ 3 ∨ c.fmt.any (· != fmt) then (.error (.fail 3 x), s)
    else if !c.shapeOk fmt then (.error (.fail 11 x), s)
    else
      let len := c.colBytes fmt
      let cut := min len (128 - x % 128)
      let (b0, b1) := if n % 2 = 0 then (0, cut) else (cut, len)
      let m := if fmt = 2 then 2 else 1
      let (es, s) := s.elements c.space fmt x c.scales ((List.range ((b1 - b0) * m)).map (b0 * m + ·))
      match blocked es with
      | some e => (.error e, s)
      | none =>
        let cells := es.foldl (fun (m : Map Cell) (k, e) => match e with
          | .val sig e8 st _ => m.ins (64 * k + n / 2) { sig := sig, e8 := e8, start := st }
          | _ => m) c.cells
        let lc := match n, es with | 0, (_, .val _ _ _ l) :: _ => l | _, _ => c.lcode
        (.ok { c with cells := cells, fmt := some fmt, lcode := lc }, s)

/-- Some group of a sparse fill holds more than N nonzero significands (R245). -/
def Copy.tooDense (c : Copy) : Bool :=
  let nc := bits c.d2.toNat 11 9
  let lim := if nc = 4 then 96 else 2 ^ (3 + nc)
  nc != 0 && (List.range 64).any fun j => decide ((c.cells.filter fun (q, x) => q % 64 == j && x.sig != 0).length > lim)

/-- The weight slot as a completed CPYW leaves it (R245, R246). -/
def Copy.filled (c : Copy) : WSlot :=
  { state := .valid, bi4 := c.fmt == some 2, lcode := c.lcode, k := bits c.d2.toNat 8 0, ncode := bits c.d2.toNat 11 9, cells := c.cells, desc := some [c.d0, c.d1, c.d2, c.d3] }

/-- Perform chunk `n` of a copy. -/
def State.copyChunk (s : State) (k n : Nat) : State :=
  let c := s.copy k
  if c.kind = 2 then
    match s.copyColumn c n with
    | (.ok c', s) => s.modCopy k fun _ => c'.drop n
    | (.error e, s) => s.elemStop k e
  else
    let p := c.piece n
    if p.len = 0 then s.modCopy k (·.drop n)
    else if c.kind = 3 then s.copyExpand k n p
    else if c.kind = 4 then s.copyPut k n p false ((List.range p.len).map fun i => BitVec.ofNat 8 (c.d0.toNat / 256 ^ ((p.off + i) % 8)))
    else s.copyMove k n p

/-! ### Engines (R238) -/

/-- The operation names a weight slot. -/
def MOp.usesSlot (o : MOp) (k : Nat) : Bool :=
  match o.op with
  | .mma _ _ _ slot _ _ _ _ _ => slot.toNat == k
  | .mmas _ _ _ slot _ _ _ _ _ => slot.toNat == k
  | _ => false

/-- An operation of the team's engine that executes names a slot (R278). -/
def Team.usesSlot (T : Team) (k : Nat) : Bool := T.mq.any fun o => o.started && o.usesSlot k

/-- A fill begins: operations that name the slot and have not started never use it (R278). -/
def Team.staleSlot (T : Team) (k : Nat) : Team :=
  let note (o : MOp) : MOp := if o.usesSlot k then { o with stale := true } else o
  { T with mq := T.mq.map note, replay := T.replay.map note }

/-- The party that issued a request or copy, for the order of R471 and R234. -/
def State.issuedBy (s : State) (t w : Nat) : Owner → Bool
  | .scalar t' w' => t' == t && w' == w
  | .lane t' w' _ => t' == t && w' == w
  | .copy c _ => (s.copy c).team == some t && (s.copy c).issuer == w
  | _ => false

/-- An earlier CPYR has writes to come. -/
def State.moreWrites (s : State) (x : Copy) : Bool :=
  !x.state.over && (x.state == .queued || !x.left.isEmpty || x.reqs.any fun j => match s.reqs.find j with | some r => r.packet.type == .read | none => false)

/-- A CPYR with ORD may send its first packet (R234, R471): what its issuer sent before it to the target has left. -/
def State.ordReady (s : State) (k : Nat) (c : Copy) : Bool :=
  match c.team with
  | some t =>
    if c.kind ≠ 5 ∨ !c.ord ∨ c.ordSeq.isSome then true
    else
      let target (c : Copy) : Nat := (((s.die c.die).importEntry c.asid (bits c.d2.toNat 47 32)).getD 0) / 2 ^ 50 % 2 ^ 14
      !(s.copies.any fun (j, x) => decide (j < k) && x.kind == 5 && x.team == some t && x.issuer == c.issuer && target x == target c && s.moreWrites x) &&
      !(s.reqs.any fun (j, r) => (match r.owner.copyOf with | some x => decide (x < k) | none => decide (j < k)) && !r.sent && isWrite r.packet.type &&
        s.issuedBy t c.issuer r.owner && r.src == c.die && r.packet.dpkg * 4 + r.packet.dsock == target c)
  | none => true

/-- A copy may access: what precedes it is complete, no page is awaited, and a CPYW's slot is not in use. -/
def State.copyReady (s : State) (k : Nat) (c : Copy) : Bool :=
  c.absent.isNone && !c.exported && !c.after.any s.pending && s.ordReady k c &&
  !(c.kind == 2 && c.state == .queued && (match c.team with | some t => (s.team t).usesSlot c.slot | none => false))

/-- The copy that runs, or waits, under a serial of an engine. -/
def State.copyAt (s : State) (engine serial : Nat) : Option (Nat × Copy) :=
  s.copies.find? fun (_, c) => c.engine == engine && c.serial == serial && !c.state.over

/-- Copies of an engine in a state. -/
def State.inState (s : State) (engine : Nat) (st : CopyState) : Nat := (s.copies.filter fun (_, c) => c.engine == engine && c.state == st && !c.exported).length

/-- A queued copy becomes active (R238, R246). -/
def State.startCopy (s : State) (k : Nat) : State :=
  let c := s.copy k
  let s := s.modCopy k fun c => { c with state := .active, left := [(0, c.chunks)] }
  if c.kind ≠ 2 then s
  else if c.slot ≥ 4 then s.failCopy k 9 c.slot
  else
    let s := (s.modSlot (c.team.getD 0) c.slot fun w => { w with state := .filling }).modTeam (c.team.getD 0) (·.staleSlot c.slot)
    if c.shapeOk 0 then s else s.failCopy k 11 c.slot

/-- A copy enters an engine's queue (R247). -/
def State.enqueueCopy (s : State) (c : Copy) : Nat × State :=
  let e := s.engines.get c.engine {}
  let (k, s) := s.fresh
  (k, { s with engines := s.engines.ins c.engine { e with serial := (e.serial + 1) % 2 ^ 32 }, copies := s.copies.ins k { c with serial := e.serial } })

/-! ### Copy sub-launches (R376, R387) -/

/-- The grid of a sub-launch: of a copy sub-launch, COUNT by 1 by 1. -/
def Sub.dims (u : Sub) : List Nat := if u.copy then [u.dl.length, 1, 1] else [bits u.grid 15 0, bits u.grid 31 16, bits u.grid 47 32]

/-- Coordinates of "team" i of a sub-launch (R387). -/
def Sub.coords (u : Sub) (i : Nat) : List Nat :=
  let g := u.dims
  [i % g.getD 0 1, i / g.getD 0 1 % g.getD 1 1, i / (g.getD 0 1 * g.getD 1 1)]

/-- The producer's numbers lo to hi in one dimension (R387). -/
def depRange (map c g : Nat) : List Nat :=
  let a : Int := (c : Int) * (bits map 15 0 : Int) + sext (bits map 31 16) 16
  let lo := max a 0
  let hi := min (a + (bits map 47 32 : Int) - 1) ((g : Int) - 1)
  if lo > hi then [] else (List.range (hi - lo + 1).toNat).map (lo.toNat + ·)

/-- The bits of the producer that "team" i needs (R387). -/
def Sub.needs (u p : Sub) (i : Nat) : List Nat :=
  let c := u.coords i
  let g := p.dims
  let r (d : Nat) : List Nat := depRange (u.maps.getD d 0) (c.getD d 0) (g.getD d 1)
  (r 2).flatMap fun z => (r 1).flatMap fun y => (r 0).map fun x => x + g.getD 0 1 * (y + g.getD 1 1 * z)

/-- A bit of a producer's bitmap is set, as the part sees it; a bit that cannot be read is not. In a bitmap of another package the part sees the bits
that it has set (DEDUCED, log entry 31). -/
def State.bitSet (s : State) (space : Nat) (p : Sub) (i : Nat) : Bool :=
  let va := p.bitmap + 8 * (i / 64)
  match s.checkNow space va 8 .read with
  | (.local page pa, s) => match (s.load space va 8 page pa).1 with
    | some v => bitOf v (i % 64)
    | none => false
  | (.remote e, s) => match s.farPlace e (va % 2 ^ 32) with
    | some (d, pa) => if d < 4 then !(s.die d).poisoned pa && bitOf ((s.die d).rd pa 8) (i % 64) else p.set.contains i
    | none => false
  | _ => false

/-- Every bit that "team" i of sub-launch k needs is set (R387). -/
def State.depsMet (s : State) (b k i : Nat) : Bool :=
  let B := s.bundle b
  match B.subs[k]? with
  | none => false
  | some u => u.dep == 0 || match B.subs[u.dep - 1]? with
    | none => false
    | some p => (u.needs p i).all fun j => s.bitSet (B.die * 4096 + B.asid) p j

/-- Offer one entry of a copy sub-launch: an engine of the die with room takes it, unless it waits for bits or a stream slot. -/
def State.offerEntry (s : State) (b k i : Nat) : State :=
  let B := s.bundle b
  let u := B.subs.getD k {}
  let fl := (u.dl.getD i []).getD 0 0
  let ok := s.depsMet b k i
  let room := ((List.range 8).map (8 * B.die + ·)).filter fun e => decide (s.inState e .queued < Config.copyQueue)
  if !ok || room.isEmpty then s
  else
    let tag := if bitOf fl 4 then bits ((s.die B.die).rd B.qsb 64) 167 152 else 0
    match s.accept B.die B.asid tag 0 with
    | (none, s) => s
    | (some after, s) =>
      let (e, s) := s.choose room.length
      let w (j : Nat) : Word := BitVec.ofNat 64 ((u.dl.getD i []).getD (j + 1) 0)
      let c : Copy := { kind := fl % 16, ord := bitOf fl 5, d0 := w 0, d1 := w 1, d2 := w 2, d3 := w 3, die := B.die, asid := B.asid, entry := some (b, k, i), tag := tag, engine := room.getD e 0, after := after }
      let (id, s) := s.enqueueCopy c
      let s := s.modBundle b fun B => { B with subs := B.subs.modify k fun u => { u with left := u.left.filter (· != i) } }
      if c.bad 0 then s.failCopy id 11 0 else s

/-- Offer the entries of every bundle of a die that no engine has taken. -/
def State.offer (s : State) (d : Nat) : State :=
  s.bundles.foldl (fun s (b, B) =>
    if B.die ≠ d ∨ B.status.isSome ∨ !((s.die d).queues.get B.qsb {}).mapped ∨ (s.partitions.get B.part {}).stopped then s
    else (List.range B.subs.length).foldl (fun s k => (B.subs.getD k {}).left.foldl (fun s i => s.offerEntry b k i) s) s) s

/-! ### Events -/

/-- COPY_CHUNK (R238): one chunk of a copy, in an order the engine chooses; a queued copy becomes active first. -/
def execCopyChunk (engine serial : Nat) (s : State) : Out :=
  match s.copyAt engine serial with
  | none => .next s
  | some (k, c) =>
    if !s.copyReady k c || (c.state == .queued && decide (s.inState engine .active ≥ Config.copyActive)) then .next s
    else
      let s := if c.state = .queued then (s.startCopy k).offer (engine / 8) else s
      let (i, s) := s.choose (s.copy k).todo
      match takeChunk i (s.copy k).left with
      | some (n, _) => .next (s.copyChunk k n)
      | none => .next s

/-- COPY_COMPLETE (R233, R245, R251): every chunk is performed and every request answered. A sub-launch entry sets its bit, and waits
while that page is absent (R388). -/
def execCopyComplete (engine serial : Nat) (s : State) : Out :=
  match s.copyAt engine serial with
  | none => .next s
  | some (k, c) =>
    if c.state ≠ .active ∨ !c.left.isEmpty ∨ c.reqs.any fun r => (s.reqs.find r).isSome then .next s
    else if c.kind = 2 then
      let t := c.team.getD 0
      if c.tooDense then .next (s.failCopy k 8 c.d0.toNat)
      else .next (((s.modSlot t c.slot fun _ => c.filled).counted k (64 * c.colBytes (c.fmt.getD 1))).endCopy k .done 0 0)
    else match c.entry with
      | none => .next (s.endCopy k .done 0 0)
      | some (b, u, i) => match s.setBit b u i with
        | (none, s) => .next s
        | (some ok, s) => .next (((if ok then s else s.entryFailed b u i true).endCopy k .done 0 0).offer (engine / 8))

/-! ### The CPY family (R241 to R249) -/

/-- Operations that precede a copy of the issuing party and must be performed before it accesses anything (R231, R233, R276). -/
def State.copyAfter (s : State) : List Nat :=
  match s.cur with
  | .warp t w => (s.warp t w).writes
  | .seq t => (s.team t).mOps.map (·.id) ++ Map.keys (s.reqs.filter fun (_, r) => r.owner.drains t)
  | _ => []

/-- The frame of kinds 0 to 5 (R241, R247): the copy enters the queue of its cluster's engine when there is room. -/
def cpyInstr (kind : Nat) (d a b : Reg) (phs ord sto : Bool) (s : State) : Out :=
  scalar true true [d, a, b] (descRegs a ++ if phs then [b.toNat] else []) s <|
    match s.cur.ids with
    | none => .fault .noIssuer
    | some (t, w) =>
      let T := s.team t
      let e := 8 * T.die + T.core / 8
      if s.inState e .queued ≥ Config.copyQueue then stay s
      else
        let tag := if sto then s.tag else 0
        match s.accept T.origin T.asid tag t with
        | (none, s) => .next s
        | (some after, s) =>
          let ds := s.desc a
          let c : Copy :=
            { kind := kind, ord := ord, d0 := ds.getD 0 0, d1 := ds.getD 1 0, d2 := ds.getD 2 0, d3 := ds.getD 3 0, team := some t,
              phs := if phs then some (s.reg b, if w = 32 then 0 else w) else none, issuer := w, die := T.origin, asid := T.asid, tag := tag,
              engine := e, after := after ++ s.copyAfter }
          let (k, s) := s.enqueueCopy c
          let serial := (s.copy k).serial
          let s := if c.bad T.spad then s.failCopy k 11 0 else s
          .next (s.result d (BitVec.ofNat 64 (e / 8 * 2 ^ 40 + e % 8 * 2 ^ 32 + serial)))

/-- CPY (R244). -/
def execCpy (d a b : Reg) (phs sto : Bool) (s : State) : Out := cpyInstr 0 d a b phs false sto s

/-- CPY2 (R244). -/
def execCpy2 (d a b : Reg) (phs sto : Bool) (s : State) : Out := cpyInstr 1 d a b phs false sto s

/-- CPYW (R245). -/
def execCpyw (d a b : Reg) (phs sto : Bool) (s : State) : Out := cpyInstr 2 d a b phs false sto s

/-- CPYX (R244) (DEDUCED, log entry 23). -/
def execCpyx (d a b : Reg) (phs sto : Bool) (s : State) : Out := cpyInstr 3 d a b phs false sto s

/-- CPYFILL (R244). -/
def execCpyfill (d a b : Reg) (phs sto : Bool) (s : State) : Out := cpyInstr 4 d a b phs false sto s

/-- CPYR (R244, R234). -/
def execCpyr (d a b : Reg) (phs ord sto : Bool) (s : State) : Out := cpyInstr 5 d a b phs ord sto s

/-- The copy that a ticket names, while its engine keeps its state and it belongs to the address space (R247, R248). -/
def State.ticket (s : State) (space x : Nat) : Option (Nat × Copy) :=
  let e := 8 * bits x 47 40 + bits x 34 32
  let fin := (s.engines.get e {}).finished
  if bits x 63 48 ≠ 0 ∨ bits x 39 35 ≠ 0 then none
  else s.copies.find? fun (_, c) => c.engine == e && c.serial == bits x 31 0 && c.space == space && (!c.state.over || decide (fin < c.finished + 256))

/-- The code of a state (R248). -/
def CopyState.code : CopyState → Nat
  | .queued => 0
  | .active => 1
  | .done => 2
  | .cancelled => 3
  | .failed => 4

/-- The status word (R248). -/
def Copy.status (c : Copy) : Word := BitVec.ofNat 64 (min c.bytes (2 ^ 32 - 1) * 2 ^ 32 + c.cause * 2 ^ 8 + c.state.code)

/-- CPYST (R248). -/
def execCpyst (d b : Reg) (s : State) : Out :=
  scalar true true [d, b] [b.toNat] s <|
    .next (s.result d (match s.ticket (s.team s.me).space (s.reg b).toNat with | some (_, c) => c.status | none => 5))

/-- CPYCAN (R249). -/
def execCpycan (d b : Reg) (s : State) : Out :=
  scalar true true [d, b] [b.toNat] s <|
    match s.ticket (s.team s.me).space (s.reg b).toNat with
    | some (k, c) =>
      if c.state.over then .next (s.result d c.status)
      else
        let s := s.breakCopy k .cancelled 0 0
        .next (s.result d (s.copy k).status)
    | none => .next (s.result d 5)

end Sys2Proof.Machine
end

