-- ==== Sys2Proof/Machine/Cross.lean ====
section
/-! DEFINITION. Cross-lane and mask instructions: OP8 0x40 to 0x4D (R132, R165 to R171). -/

namespace Sys2Proof.Machine

/-- A valid source (R165): in m0 of the issuing path and not dead. -/
def Warp.source (W : Warp) (b : Bool) (j : Int) : Bool :=
  decide (0 ≤ j) && decide (j ≤ 31) && (((W.path b).getD {}).m0 &&& ~~~W.dead).getLsbD j.toNat

/-- A lane that reads a word of another lane: lane `l` takes vb and lane j's a, or its own c (R167). A lane that reads an uncorrectable
word dies (R108, R174). -/
def laneShuffle (f : LaneWord) (useB : Bool) (src : Warp → Half → Nat → Int) (s : State) : Out :=
  lane s fun t w b =>
    let W := s.warp t w
    let e := s.eff t w b f
    let wd := Lane.wide f.ty
    let from_ (l : Nat) : Option Nat := let j := src W e l; if W.source b j then some j.toNat else none
    let isBad (l : Nat) : Bool :=
      (useB && !f.bu && W.badV.contains (32 * f.vb.toNat + l)) ||
      (match from_ l with
        | some j => (regs1 wd f.va).any fun r => W.badV.contains (32 * r + j)
        | none => (regsC f wd).any fun r => W.badV.contains (32 * r + l))
    let bad := if W.badV.isEmpty then 0 else maskOf ((lanesOf e).filter isBad)
    let val (l : Nat) : Nat := match from_ l with | some j => W.opa f wd j | none => W.opc f wd l
    .next ((s.modWarp t w fun V => (lanesOf (e &&& ~~~bad)).foldl (fun V l => V.setVs l (out1 wd f.vd (val l))) V).laneEnd t w b bad)

/-- VSHFL (R167). -/
def execVshfl (f : LaneWord) (s : State) : Out :=
  laneShuffle f true (fun W _ l =>
    let n := W.opb f false l
    match bits f.sub.toNat 1 0 with
    | 0 => (n : Int)
    | 1 => (l : Int) - n
    | 2 => (l : Int) + n
    | _ => ((l ^^^ n : Nat) : Int)) s

/-- VBCAST (R167): one source lane for every lane; under .FIRST the lowest lane with effect. -/
def execVbcast (f : LaneWord) (s : State) : Out :=
  laneShuffle f false (fun _ e _ => if f.sub.getLsbD 0 then ((lowest e).getD 0 : Nat) else ((f.imm.toNat % 32 : Nat) : Int)) s

/-- The shared register named by sub[4:0] (R166). -/
def sk (f : LaneWord) : Nat := 32 + f.sub.toNat % 32

/-- VVOTE (R168). -/
def execVvote (f : LaneWord) (s : State) : Out :=
  laneShared f (rdA f) (sk f) (fun W _ ls =>
    let p (l : Nat) : Bool := W.opa f (Lane.wide f.ty) l != 0
    some (match bits f.imm.toNat 1 0 with
      | 0 => b2w (ls.all p)
      | 1 => b2w (ls.any p)
      | 2 => b2w (ls.all p || ls.all fun l => !p l)
      | _ => (maskOf (ls.filter p)).zeroExtend 64)) s

/-- ⊕ of a reduction on the bits of a type (R132, R169). -/
def combine (op : Nat) (ty : BitVec 4) (x y : Nat) : Nat :=
  if isFloat ty.toNat then
    let t := fmtOf ty.toNat
    match op with
    | 0 => t.enc 0 ((t.dec x).add 0 (t.dec y))
    | 1 => t.enc 0 (FV.pick false (t.dec x) (t.dec y))
    | _ => t.enc 0 (FV.pick true (t.dec x) (t.dec y))
  else match op with
    | 0 => (x + y) % 2 ^ widthTy ty
    | 1 => if readTy ty y < readTy ty x then y else x
    | 2 => if readTy ty x < readTy ty y then y else x
    | 3 => x &&& y
    | 4 => x ||| y
    | _ => x ^^^ y

/-- The identity of a reduction (R169). -/
def identity (op : Nat) (ty : BitVec 4) : Nat :=
  let w := widthTy ty
  if isFloat ty.toNat then
    let t := fmtOf ty.toNat
    match op with
    | 0 => 0
    | 1 => t.inf
    | _ => t.sign + t.inf
  else match op with
    | 1 => if signedTy ty then 2 ^ (w - 1) - 1 else 2 ^ w - 1
    | 2 => if signedTy ty then 2 ^ (w - 1) else 0
    | 3 => 2 ^ w - 1
    | _ => 0

/-- T(i, 2^k) of R132. -/
def tree (g : Nat → Nat → Nat) (x : Nat → Nat) (i : Nat) : Nat → Nat
  | 0 => x i
  | k + 1 => g (tree g x i k) (tree g x (i + 2 ^ k) k)

/-- P(l) of R132: the aligned blocks of lanes 0..l, from the highest set bit of l + 1 down, combined from left to right. -/
def prefixScan (g : Nat → Nat → Nat) (x : Nat → Nat) (l : Nat) : Nat :=
  let ks := ([5, 4, 3, 2, 1, 0] : List Nat).filter fun k => bitOf (l + 1) k
  let blk (k : Nat) : Nat := tree g x ((l + 1) / 2 ^ (k + 1) * 2 ^ (k + 1)) k
  match ks with
  | [] => 0
  | k :: r => r.foldl (fun a k => g a (blk k)) (blk k)

/-- A NaN of a floating type is canon_nan wherever values are combined (R110); other values stay as they are. -/
def quiet (ty : BitVec 4) (x : Nat) : Nat :=
  if isFloat ty.toNat && (fmtOf ty.toNat).dec x == .nan then (fmtOf ty.toNat).nan else x

/-- Lane contributions: the operand of a lane with effect, else the identity (R169). -/
def contrib (f : LaneWord) (W : Warp) (ls : List Nat) (l : Nat) : Nat :=
  if ls.contains l then quiet f.ty (W.opa f (Lane.wide f.ty) l) else identity (bits f.imm.toNat 2 0) f.ty

/-- VREDUCE (R169). -/
def execVreduce (f : LaneWord) (s : State) : Out :=
  laneShared f (rdA f) (sk f) (fun W _ ls =>
    some (BitVec.ofNat 64 (tree (combine (bits f.imm.toNat 2 0) f.ty) (contrib f W ls) 0 5))) s

/-- VSCAN (R169): sub[0] = 1 for the exclusive scan; a lane that dies of an uncorrectable word counts as one without effect (DESIGN CHOICE, log entry 37). -/
def execVscan (f : LaneWord) (s : State) : Out :=
  lane s fun t w b =>
    let W := s.warp t w
    let e := s.eff t w b f
    let bad := W.badLanes e (rdA f)
    let ls := lanesOf (e &&& ~~~bad)
    let op := bits f.imm.toNat 2 0
    let p (l : Nat) : Nat := prefixScan (combine op f.ty) (contrib f W ls) l
    let val (l : Nat) : Nat := if f.sub.getLsbD 0 then (if l = 0 then identity op f.ty else p (l - 1)) else p l
    .next ((s.modWarp t w fun V => ls.foldl (fun V l => V.setVs l (out1 (Lane.wide f.ty) f.vd (val l))) V).laneEnd t w b bad)

/-- VMATCH (R170): bitwise comparison; vd is one register; a lane that dies of an uncorrectable word counts as one without effect (DESIGN CHOICE, log
entry 37). -/
def execVmatch (f : LaneWord) (s : State) : Out :=
  lane s fun t w b =>
    let W := s.warp t w
    let e := s.eff t w b f
    let bad := W.badLanes e (rdA f)
    let ls := lanesOf (e &&& ~~~bad)
    let x (l : Nat) : Nat := W.opa f (Lane.wide f.ty) l
    .next ((s.modWarp t w fun V => ls.foldl (fun V l => V.setV f.vd.toNat l (maskOf (ls.filter fun j => x j == x l))) V).laneEnd t w b bad)

/-- Mask indices of MLOG, MPOPC, MFIRST and MGET (R166). -/
def mi (f : LaneWord) : Nat := f.va.toNat % 8
def mj (f : LaneWord) : Nat := f.vb.toNat % 8

/-- MLOG (R171). -/
def execMlog (f : LaneWord) (s : State) : Out :=
  laneMask f [] (bits f.sub.toNat 2 0) (fun W b l =>
    let x := W.mbit b (mi f) l
    let y := W.mbit b (mj f) l
    match bits f.imm.toNat 2 0 with
    | 0 => x && y
    | 1 => x || y
    | 2 => x != y
    | 3 => x && !y
    | 4 => !x
    | _ => x) s

/-- MPOPC (R171). -/
def execMpopc (f : LaneWord) (s : State) : Out :=
  laneShared f [] (sk f) (fun W b ls => some (BitVec.ofNat 64 (ls.filter (W.mbit b (mi f))).length)) s

/-- MFIRST (R171): 32 when there is no such lane. -/
def execMfirst (f : LaneWord) (s : State) : Out :=
  laneShared f [] (sk f) (fun W b ls => some (BitVec.ofNat 64 ((ls.find? (W.mbit b (mi f))).getD 32))) s

/-- MSET (R171). -/
def execMset (f : LaneWord) (s : State) : Out := laneMask f [] (bits f.sub.toNat 2 0) (fun _ _ l => f.imm.getLsbD l) s

/-- MGET (R171). -/
def execMget (f : LaneWord) (s : State) : Out :=
  laneShared f [] (sk f) (fun W b ls => some ((maskOf (ls.filter (W.mbit b (mi f)))).zeroExtend 64)) s

/-- MPUT (R171). -/
def execMput (f : LaneWord) (s : State) : Out :=
  laneMask f (regsB f false) (bits f.sub.toNat 2 0) (fun W _ l => bitOf (W.opb f false l) l) s

end Sys2Proof.Machine
end

