-- ==== Sys2Proof/Machine/LaneControl.lean ====
section
/-! DEFINITION. Lane control flow: branches, calls, joins, barriers, and the events of blocks and slots (R134 to R164, R172). -/

namespace Sys2Proof.Machine

/-- Free entries of a divergence stack (R138). -/
def Warp.stackFree (W : Warp) : Nat := Config.stackEntries - W.stack.length

/-- Warp-level fault DSTACK at a lane instruction, which changes nothing (R140, R410). -/
def State.dstack (s : State) (t w : Nat) (b : Bool) : State :=
  s.warpFault t w { code := cDSTACK, pc := (s.path t w b).pc, lane := true }

/-- The join and target indices of imm32 (R141). -/
def target (f : LaneWord) : Nat := f.imm.toNat % 2 ^ 16
def joinIdx (f : LaneWord) : Nat := f.imm.toNat / 2 ^ 16

/-- The scoreboard of the lanes that stay (R134). -/
def Path.boardOf (p : Path) (ls : Half) : List Load := p.board.filter fun x => ls.getLsbD x.lane

/-- Give the paths of a split their places: the other slot when it is empty, else PART entries, the first of the list topmost. -/
def Warp.parts (W : Warp) (b : Bool) (ps : List Path) : Warp :=
  match ps with
  | [] => W
  | p :: r =>
    if (W.path (!b)).isNone then { W.setPath (!b) (some p) with stack := r.map .part ++ W.stack }
    else { W with stack := (p :: r).map .part ++ W.stack }

/-- Push a JOIN entry (R142, R144). -/
def Warp.pushJoin (W : Warp) (j : Nat) (e : Half) (outer : Option Nat) : Warp :=
  { W with stack := .join W.joins j e 0 outer none 0 :: W.stack, joins := W.joins + 1 }

/-- LBR (R142). -/
def execLbr (f : LaneWord) (s : State) : Out :=
  lane s fun t w b =>
    let W := s.warp t w
    let p := s.path t w b
    let m := W.m.get (bits f.sub.toNat 2 0) 0
    let tk := s.eff t w b f &&& (if f.sub.getLsbD 3 then ~~~m else m)
    let fl := p.mem &&& ~~~tk
    if tk = 0 ∨ target f = p.pc + 1 then .next (s.nextIdx t w b)
    else if fl = 0 then .next (s.goto t w b (target f))
    else if W.stackFree < (if (W.path (!b)).isNone then 1 else 2) then .next (s.dstack t w b)
    else
      .next (s.modWarp t w fun W =>
        let id := W.joins
        let fall : Path := { pc := p.pc + 1, m0 := p.m0 &&& ~~~tk, mem := fl, join := some id, board := p.boardOf fl, issued := s.now }
        let take : Path := { pc := target f, m0 := tk, mem := tk, join := some id, board := p.boardOf tk, issued := s.now }
        ((W.pushJoin (joinIdx f) p.mem p.join).setPath b (some take)).parts b [fall])

/-- LJMP (R143): not taken on an empty execution mask. -/
def execLjmp (f : LaneWord) (s : State) : Out :=
  lane s fun t w b => .next (if (s.path t w b).m0 = 0 then s.nextIdx t w b else s.goto t w b (target f))

/-- LPAD reached in sequence or by a direct transfer acts as LNOP (R143). -/
def execLpad (_f : LaneWord) (s : State) : Out := lane s fun t w b => .next (s.nextIdx t w b)

/-- LNOP (R143). -/
def execLnop (_f : LaneWord) (s : State) : Out := lane s fun t w b => .next (s.nextIdx t w b)

/-- What the landing-pad check says of a target (R144). -/
inductive Pad where
  | good | bad | poison
  | unfetched (detail addr : Nat) (straddle : Bool)
  deriving DecidableEq, Repr

/-- The check of one target: the instruction there must be LPAD with the tag. -/
def State.padCheck (s : State) (t tgt tag : Nat) : Pad × State :=
  if tgt ≥ 2 ^ 16 then (.bad, s)
  else match s.fetchWords t ((s.team t).laneAddr tgt) 3 with
    | (.words ws, s) => match decodeLane (ws.getD 0 0) (ws.getD 1 0) (ws.getD 2 0) with
      | .ok (.lpad g) => (if g.imm.toNat % 2 ^ 16 = tag then .good else .bad, s)
      | _ => (.bad, s)
    | (.fail d a st, s) => (.unfetched d a st, s)
    | (.poison, s) => (.poison, s)

/-- The checks of the distinct targets. -/
def State.padChecks (s : State) (t tag : Nat) : List Nat → List (Nat × Pad) × State
  | [] => ([], s)
  | x :: r =>
    let (p, s) := s.padCheck t x tag
    let (l, s) := s.padChecks t tag r
    ((x, p) :: l, s)

/-- A set of numbers as a rising list. -/
def sortSet (l : List Nat) : List Nat := l.foldl (fun a x => setIns x a) []

/-- LJMPI and LCALLI (R144, R145). The RET entry is pushed before lanes park or die, which leave it then (R162); where every lane of G fails the
check, none is counted or pushed (DESIGN CHOICE, log entry 37). When the table of fragments is full, the lanes that passed every check go on from
the path, which stays at the instruction with the rest (R410): their groups take the other slot and PART entries, which the DSTACK check has not
counted (DESIGN CHOICE, log entry 37). -/
def indirect (call : Bool) (f : LaneWord) (s : State) : Out :=
  lane s fun t w b =>
    let W := s.warp t w
    let e := s.eff t w b f
    let dying := W.badLanes e [f.va.toNat]
    let gl := lanesOf (e &&& ~~~dying)
    let p := s.path t w b
    let tgt (l : Nat) : Nat := (W.vw f.va.toNat l).toNat
    let (cks, s) := s.padChecks t (target f) (sortSet (gl.map tgt))
    let pad (l : Nat) : Pad := ((cks.find? fun x => x.1 == tgt l).map (·.2)).getD .good
    let bad := gl.filter fun l => pad l == .bad
    let unf := gl.filter fun l => match pad l with | .unfetched _ _ _ => true | _ => false
    let poi := maskOf (gl.filter fun l => pad l == .poison)
    let ok := gl.filter fun l => pad l == .good
    let rest := p.mem &&& ~~~maskOf gl &&& ~~~dying
    let keys := sortSet ((if rest = 0 then [] else [p.pc + 1]) ++ ok.map tgt)
    let mem (x : Nat) : Half := maskOf (ok.filter fun l => tgt l == x) ||| (if x = p.pc + 1 then rest else 0)
    let n := keys.length
    let free := (W.path (!b)).isNone
    let rets := gl.filter fun l => !bad.contains l
    let need := (if call ∧ !rets.isEmpty then 1 else 0) + (if n ≥ 2 then 1 + (n - 1) - (if free then 1 else 0) else 0)
    if W.stackFree < need then .next (s.dstack t w b)
    else
      let low := (bad.map tgt).foldl min (2 ^ 32)
      let gBad : List (List Fail) := if bad.isEmpty then [] else [bad.map fun l => ⟨l, cLPAD, low, false⟩]
      let gUnf : List (List Fail) := (sortSet (unf.map tgt)).map fun x => (unf.filter fun l => tgt l == x).map fun l =>
        match pad l with | .unfetched d a st => ⟨l, 0xB00 + d, a, st⟩ | _ => ⟨l, 0, 0, false⟩
      let gs := sortBy (fun x y => decide ((x.map (·.lane)).foldl min 32 ≤ (y.map (·.lane)).foldl min 32)) (gBad ++ gUnf)
      let s := if call ∧ !rets.isEmpty then s.modWarp t w fun W => { W with stack := .ret (p.pc + 1) (maskOf rets) :: W.stack } else s
      let (s, stuck) := s.parkAll t w p gs 0
      let s := if poi ||| dying = 0 then s else s.laneDeath t w (poi ||| dying) 1
      if stuck.isEmpty then
        match keys with
        | [] => .next (s.settle t)
        | [x] => .next ((s.goto t w b x).settle t)
        | x :: ys =>
          .next ((s.modWarp t w fun W =>
            let id := W.joins
            let part (y : Nat) : Path := { pc := y, m0 := p.m0 &&& mem y, mem := mem y, join := some id, board := p.boardOf (mem y), issued := s.now }
            let e := keys.foldl (fun m y => m ||| mem y) 0
            ((W.pushJoin (joinIdx f) e p.join).setPath b (some (part x))).parts b (ys.map part)).settle t)
      else
        let left := maskOf (stuck.flatten.map (·.lane))
        .next (s.modWarp t w fun W =>
          let id := W.joins
          let part (y : Nat) : Path := { pc := y, m0 := p.m0 &&& mem y, mem := mem y, join := if n ≥ 2 then some id else p.join, board := p.boardOf (mem y), issued := s.now }
          let W := if n ≥ 2 then W.pushJoin (joinIdx f) (keys.foldl (fun m y => m ||| mem y) 0) p.join else W
          (W.setPath b (some { p with m0 := p.m0 &&& left, mem := left, board := p.boardOf left })).parts b (keys.map part))

/-- LJMPI (R144). -/
def execLjmpi (f : LaneWord) (s : State) : Out := indirect false f s

/-- LCALLI (R145). -/
def execLcalli (f : LaneWord) (s : State) : Out := indirect true f s

/-- LCALL (R145): on an empty execution mask it acts as LNOP. -/
def execLcall (f : LaneWord) (s : State) : Out :=
  lane s fun t w b =>
    let p := s.path t w b
    if p.m0 = 0 then .next (s.nextIdx t w b)
    else if (s.warp t w).stackFree < 1 then .next (s.dstack t w b)
    else .next ((s.modWarp t w fun W => { W with stack := .ret (p.pc + 1) p.mem :: W.stack }).goto t w b (target f))

/-- The topmost RET entry whose lanes include `ls`: its index, and the stack with `ls` taken out of it (R146). -/
def takeRet (ls : Half) : List Entry → Option (Nat × List Entry)
  | [] => none
  | .ret i r :: k =>
    if ls &&& ~~~r = 0 then some (i, if r &&& ~~~ls = 0 then k else .ret i (r &&& ~~~ls) :: k)
    else (takeRet ls k).map fun (j, k) => (j, .ret i r :: k)
  | x :: k => (takeRet ls k).map fun (j, k) => (j, x :: k)

/-- LRET (R146). -/
def execLret (_f : LaneWord) (s : State) : Out :=
  lane s fun t w b =>
    let p := s.path t w b
    if p.m0 = 0 then .next (s.nextIdx t w b)
    else match takeRet p.mem (s.warp t w).stack with
      | some (i, st) => .next ((s.modWarp t w fun W => { W with stack := st }).goto t w b i)
      | none =>
        let (s, whole) := s.park t w b ((lanesOf p.m0).map fun l => ⟨l, cILLEGAL, 0, false⟩)
        .next (if whole then (s.nextIdx t w b).settle t else s)

/-- Arrive at a JOIN entry: lanes, bound and flag mask of the LJOIN (R147). -/
def Entry.arrive (id : Nat) (ls : Half) (dl : Option Nat) (k : Nat) : Entry → Entry
  | .join i j e ar o d k' =>
    if i = id then .join i j e (ar ||| ls) o (if ar = 0 ∧ d.isNone then dl else d) (if ar = 0 then k else k')
    else .join i j e ar o d k'
  | x => x

/-- The join index of a JOIN entry. -/
def Warp.joinAt (W : Warp) (id : Nat) : Option Nat :=
  W.stack.findSome? fun x => match x with | .join i j _ _ _ _ _ => if i = id then some j else none | _ => none

/-- LJOIN (R137, R147): it acts by membership, and only with an empty scoreboard. -/
def execLjoin (f : LaneWord) (s : State) : Out :=
  lane s fun t w b =>
    let W := s.warp t w
    let p := s.path t w b
    let k := bits f.sub.toNat 2 0
    if !p.board.isEmpty then stay s
    else if p.join.isSome ∧ (p.join.bind W.joinAt) = some p.pc then
      let dl := if f.imm = 0 then none else some ((s.die (s.team t).die).cycles + f.imm.toNat)
      .next ((s.modWarp t w fun W =>
        { W.setPath b none with stack := W.stack.map (Entry.arrive (p.join.getD 0) p.mem dl k) }).settle t)
    else .next ((s.modWarp t w fun W => W.setMask k p.mem W.detached).nextIdx t w b)

/-- LEND (R137, R152). -/
def execLend (_f : LaneWord) (s : State) : Out :=
  lane s fun t w b =>
    let p := s.path t w b
    if !p.board.isEmpty then stay s
    else .next ((s.modWarp t w fun W =>
      { W.setPath b none with arrived := W.arrived ||| p.mem, stack := W.stack.map (Entry.unexpect p.mem) }).settle t)

/-- Lanes leave the block and count as arrived at LEND (R151). -/
def State.exitLanes (s : State) (t w : Nat) (b : Bool) (ls : Half) : State :=
  s.modWarp t w fun W =>
    let W := W.leave b ls
    { W with arrived := W.arrived ||| ls, stack := W.stack.map (Entry.unexpect ls) }

/-- LEXIT (R151). -/
def execLexit (f : LaneWord) (s : State) : Out :=
  lane s fun t w b => .next (((s.exitLanes t w b (s.eff t w b f)).nextIdx t w b).settle t)

/-- LBAR (R137, R164): .ARRIVE goes on, .SYNC waits; a waiting path does not arrive again. -/
def execLbar (f : LaneWord) (s : State) : Out :=
  lane s fun t w b =>
    let p := s.path t w b
    let n := f.imm.toNat % 16
    if !p.board.isEmpty || p.bar.isSome then stay s
    else
      let s := s.modTeam t fun T => { T with barriers := T.barriers.ins n (T.barriers.get n 0 + count p.mem) }
      if f.sub.getLsbD 0 then .next ((s.nextIdx t w b).settle t)
      else .next ((s.modPath t w b fun p => { p with bar := some n }).settle t)

/-- Lanes of a warp's fragments in any state (R172). -/
def State.parked (s : State) (t w : Nat) : Half :=
  s.frags.foldl (fun m (_, F) => if F.team = t ∧ F.warp = w then m ||| F.mask else m) 0

/-- LFRAG (R172): one bitmap of the warp. -/
def execLfrag (f : LaneWord) (s : State) : Out :=
  match s.cur with
  | .path t w b =>
    let W := s.warp t w
    let x : Half := match bits f.sub.toNat 1 0 with
      | 0 => s.parked t w
      | 1 => W.dead
      | 2 => ((W.path (!b)).getD {}).mem
      | _ => W.detached
    laneWrites f [] (fun _ _ => [(f.vd.toNat, x)]) s
  | _ => laneWrites f [] (fun _ _ => []) s

/-! ### Events of blocks, slots and joins -/

/-- LANE_BLOCK_START (R93, R135): the next block of the queue starts as one path in slot A. -/
def execLaneBlockStart (t w : Nat) (s : State) : Out :=
  let W := s.warp t w
  match W.queue with
  | blk :: _ =>
    if W.life = .running ∧ !W.started ∧ (s.team t).phase = .resident then
      let p : Path := { pc := blk.start, m0 := ~~~W.dead, mem := ~~~W.dead, issued := s.now }
      .next ((s.modWarp t w fun W =>
        { W with started := true, a := if ~~~W.dead = 0 then none else some p, b := none, stack := [], detached := 0, arrived := 0 }).settle t)
    else .next s
  | [] => .next s

/-- The topmost PART entry, and the stack without it. -/
def takePart : List Entry → Option (Path × List Entry)
  | [] => none
  | .part p :: k => some (p, k)
  | x :: k => (takePart k).map fun (p, k) => (p, x :: k)

/-- The READY fragment of a warp with the lowest ID (R139). -/
def State.readyFrag (s : State) (t w : Nat) : Option Nat :=
  (s.frags.filter fun (_, F) => F.team = t ∧ F.warp = w ∧ F.state = .ready).foldl (fun m (k, F) =>
    match m with
    | none => some k
    | some j => if (F.entry.getD 32) < ((s.frag j).entry.getD 32) then some k else m) none

/-- Words of some lanes, by key 32 times the register plus the lane, taken from another register file. -/
def copyLanes (ls : Half) (x y : Map Half) : Map Half :=
  (y.keys ++ x.keys).foldl (fun m k => if ls.getLsbD (k % 32) then m.put 0 k (y.get k 0) else m) x

/-- Mask bits of some lanes, taken from other masks. -/
def copyMasks (ls : Half) (x y : Map Half) : Map Half :=
  (List.range 7).foldl (fun m i => m.put 0 (i + 1) (m.get (i + 1) 0 &&& ~~~ls ||| y.get (i + 1) 0 &&& ls)) x

/-- Before a fragment of a leader resumes, the trailer takes the leader's registers of its lanes; what it had still to execute for them falls away
(R430) (DESIGN CHOICE, log entry 27). -/
def Trailer.resume (R : Trailer) (W : Warp) (ls : Half) : Trailer :=
  { R with
      v := copyLanes ls R.v W.v, m := copyMasks ls R.m W.m, lanes := R.lanes &&& ~~~ls
      issued := R.issued.map fun r => { r with eff := r.eff &&& ~~~ls } }

/-- SLOT_TAKES_WORK (R139, R160): an empty slot takes the topmost PART entry, else the READY fragment with the lowest ID, whose lane registers
the trailer of a leader copies (R430). -/
def execSlotTakesWork (t w : Nat) (slotB : Bool) (s : State) : Out :=
  let W := s.warp t w
  if (W.path slotB).isSome ∨ W.life ≠ .running ∨ !W.started ∨ (s.team t).phase ≠ .resident then .next s
  else match takePart W.stack with
    | some (p, st) => .next (s.modWarp t w fun W => { W with stack := st }.setPath slotB (some { p with issued := s.now }))
    | none => match s.readyFrag t w with
      | some k =>
        let F := s.frag k
        let p : Path := { pc := F.resume, m0 := F.mask &&& ~~~F.idle &&& ~~~W.dead, mem := F.mask &&& ~~~W.dead, join := F.join, issued := s.now }
        let s := if (s.team t).shadow then s.modTeam t fun T => { T with trailers := T.trailers.mod w fun R => R.resume W F.mask } else s
        .next { s.modWarp t w (fun W => W.setPath slotB (some p)) with frags := s.frags.del k }
      | none => .next s

/-- The JOIN entries enclosing entry `id`, itself included: the chain of outer references, at most `n` long (R149). -/
def joinChain (st : List Entry) : Nat → Option Nat → List Nat
  | 0, _ => []
  | _, none => []
  | n + 1, some id =>
    id :: joinChain st n (st.findSome? fun x => match x with | .join i _ _ _ o _ _ => if i = id then some o else none | _ => none).join

/-- Expiry of a JOIN entry at its deadline (R149): the warp without the fragments' part; and the entries that get NONE. -/
def Warp.expire (W : Warp) (id : Nat) : Warp × List Nat :=
  match W.stack.findSome? fun x => match x with | .join i j e ar _ _ k => if i = id then some (j, e, ar, k) else none | _ => none with
  | none => (W, [])
  | some (j, e, ar, k) =>
    let chain := joinChain W.stack (W.stack.length + 1) (some id)
    let st := W.stack.map fun x => match x with
      | .join i j' e' ar' o d k' => Entry.join i j' (if chain.contains i then e' &&& ~~~e else e') ar' (if o = some id then none else o) d k'
      | x => x
    let gone := id :: st.filterMap fun x => match x with
      | .join i _ e' ar' _ _ _ => if chain.contains i ∧ e' &&& ~~~ar' = 0 then some i else none
      | _ => none
    let fix (p : Path) : Path := if p.join.any gone.contains then { p with join := none } else p
    let st := st.map fun x => match x with | .part p => .part (fix p) | x => x
    let above := st.takeWhile fun x => match x with | .join i _ _ _ _ _ _ => i != id | _ => true
    let below := (st.dropWhile fun x => match x with | .join i _ _ _ _ _ _ => i != id | _ => true).drop 1
    let W := { W with detached := W.detached ||| e, a := W.a.map fix, b := W.b.map fix, stack := st }
    ((W.setMask k ar (~~~0)).place { pc := j + 1, m0 := ar, mem := ar, join := none } above below, gone)

/-- JOIN_EXPIRY (R149, R150): acts when the deadline has come and the team is resident. -/
def execJoinExpiry (t w : Nat) (id : Nat) (s : State) : Out :=
  let now := (s.die (s.team t).die).cycles
  let due := (s.warp t w).stack.any fun x => match x with | .join i _ _ _ _ (some d) _ => i == id && decide (d ≤ now) | _ => false
  if !due || (s.team t).phase != .resident || !s.warpLive t w then .next s
  else
    let (W, gone) := (s.warp t w).expire id
    let s := s.modWarp t w fun _ => W
    .next ({ s with frags := s.frags.each fun _ F => if F.team = t ∧ F.warp = w ∧ F.join.any gone.contains then { F with join := none } else F }.settle t)

end Sys2Proof.Machine
end

