-- ==== Sys2Proof/Machine/Matrix.lean ====
section
/-! DEFINITION. The matrix operations (R255 to R284): issue, the engine's checks, products, tiles, drains, and matrix faults. -/

namespace Sys2Proof.Machine

/-! ### Tiles (R256, R269 to R273) -/

/-- The value of an F32 pattern, and its rounding back. -/
def f32v (x : Half) : FV := f32.dec x.toNat
def toF32 (v : FV) : Half := BitVec.ofNat 32 (f32.enc 0 v)

/-- The exact zero, and an exact sum. -/
def fzero : FV := .fin false 0 0
def fsum (l : List FV) : FV := l.foldl (FV.add 0) fzero

/-- Element (r, j) of a tile. -/
def Tile.at_ (T : Tile) (r j : Nat) : Half := T.c.get (64 * r + j) 0
def Tile.row (T : Tile) (r : Nat) : List FV := (List.range 64).map fun j => f32v (T.at_ r j)
def Tile.col (T : Tile) (j : Nat) : List FV := (List.range 64).map fun r => f32v (T.at_ r j)

/-- A map of `n` words. -/
def wordMap (n : Nat) (f : Nat → Half) : Map Half := (List.range n).foldl (fun m i => m.put 0 i (f i)) []

/-- RSUM and CSUM formed anew from the elements (R270). -/
def Tile.resum (T : Tile) : Tile :=
  { T with rsum := wordMap 64 fun r => toF32 (fsum (T.row r)), csum := wordMap 64 fun j => toF32 (fsum (T.col j)) }

/-- A row or a column agrees with its checksum (R271); one that holds an infinity or a NaN is exempt. -/
def agrees (xs : List FV) (sum : FV) (lim : Nat) : Bool :=
  let fin (v : FV) : Bool := match v with | .fin _ _ _ => true | _ => false
  if !(xs.all fin && fin sum) then true
  else match ((fsum xs).add 0 sum.neg).abs.cmp ((FV.fin false lim (-24)).mul (fsum (xs.map FV.abs))) with
    | some .gt => false
    | _ => true

/-- Disagreeing rows and columns of a tile under the drain check (R271). -/
def Team.drainCheck (T : Team) (A : Tile) : List Nat × List Nat :=
  let m := if A.f8 && !A.f4 then T.mtol8 else if A.f4 && !A.f8 then T.mtol4 else max T.mtol8 T.mtol4
  let lim := (A.nseg + 1) * m
  ((List.range 64).filter fun r => !agrees (A.row r) (f32v (A.rsum.get r 0)) lim,
   (List.range 64).filter fun j => !agrees (A.col j) (f32v (A.csum.get j 0)) lim)

/-- MCHK's and MLOC's words (R272). -/
def chkWord (A : Tile) (b : List Nat × List Nat) : Word := BitVec.ofNat 64 (A.nseg * 2 ^ 16 + b.2.length * 2 ^ 8 + b.1.length)
def locWord : List Nat × List Nat → Word
  | ([r], [c]) => BitVec.ofNat 64 (2 ^ 16 + c * 2 ^ 8 + r)
  | _ => 0

/-- MFIX (R273): the element at the location is formed from its row's checksum. -/
def Tile.fix (A : Tile) (x : Word) : Tile :=
  let r := bits x.toNat 5 0
  let c := bits x.toNat 13 8
  if !bitOf x.toNat 16 then A
  else
    let rest := fsum (((List.range 64).filter (· != c)).map fun j => f32v (A.at_ r j))
    { A with c := A.c.put 0 (64 * r + c) (toF32 ((f32v (A.rsum.get r 0)).add 0 rest.neg)) }

/-- A tile from the bytes of 64 rows of F32 (R270). -/
def tileOfRows (bs : List Byte) : Tile :=
  Tile.resum { c := wordMap 4096 fun i => toF32 (f32.dec (natLE ((bs.drop (4 * i)).take 4))) }

/-- A tile from a SAVE record, and the record of a tile (R274). -/
def tileOfRecord (bs : List Byte) : Tile :=
  let w (o i : Nat) : Half := BitVec.ofNat 32 (natLE ((bs.drop (o + 4 * i)).take 4))
  let t := natLE ((bs.drop 16896).take 8)
  { c := wordMap 4096 (w 0), rsum := wordMap 64 (w 16384), csum := wordMap 64 (w 16640), nseg := bits t 15 0, f8 := bitOf t 16, f4 := bitOf t 17 }

def Tile.record (A : Tile) : List Byte :=
  let ws (m : Map Half) (n : Nat) : List Byte := (List.range n).flatMap fun i => bytesLE 4 (m.get i 0).toNat
  ws A.c 4096 ++ ws A.rsum 64 ++ ws A.csum 64 ++ bytesLE 8 (A.nseg + A.f8.toNat * 2 ^ 16 + A.f4.toNat * 2 ^ 17)

/-- The bytes that MDRAIN writes in its formats, in the order of `drainRows` (R274): BI8 and BI4 rows, then their scales. -/
def Tile.drained (A : Tile) (fmt rnd lc : Nat) : List Byte :=
  let rows := List.range 64
  let blk := 16 * 2 ^ lc
  let w := if fmt = 4 then 4 else 8
  let block (r q : Nat) : List FV := (List.range blk).map fun i => f32v (A.at_ r (q * blk + i))
  let sig (r j : Nat) : Nat :=
    let e := blockE (block r (j / blk))
    if e = 255 then 0 else wrap (blockSig (f32v (A.at_ r j)) e w) w
  match fmt with
  | 0 => rows.flatMap fun r => (List.range 64).flatMap fun j => bytesLE 4 (A.at_ r j).toNat
  | 1 => rows.flatMap fun r => (List.range 64).flatMap fun j => bytesLE 2 (bf16.enc rnd (f32v (A.at_ r j)))
  | 2 => rows.flatMap fun r => (List.range 64).flatMap fun j => bytesLE 2 (f16.enc rnd (f32v (A.at_ r j)))
  | 5 => A.record
  | _ =>
    (rows.flatMap fun r =>
      if fmt = 4 then (List.range 32).map fun j => BitVec.ofNat 8 (sig r (2 * j) + 16 * sig r (2 * j + 1))
      else (List.range 64).map fun j => BitVec.ofNat 8 (sig r j)) ++
    (rows.flatMap fun r => (List.range (64 / blk)).map fun q => BitVec.ofNat 8 (blockE (block r q)))

/-- Addresses and lengths that MDRAIN writes, row by row (R274). -/
def drainRows (fmt lc ta tb : Nat) : List (Nat × Nat) :=
  let p := tb % 2 ^ 16
  let rows := List.range 64
  match fmt with
  | 0 => rows.map fun r => (ta + r * p, 256)
  | 1 => rows.map fun r => (ta + r * p, 128)
  | 2 => rows.map fun r => (ta + r * p, 128)
  | 5 => [(ta, 16904)]
  | _ => (rows.map fun r => (ta + r * p, if fmt = 4 then 32 else 64)) ++ rows.map fun r => (ta + bits tb 63 32 + r * bits tb 31 16, 4 / 2 ^ lc)

/-- Addresses and lengths that MACC reads (R270). -/
def loadRows (save : Bool) (ta tb : Nat) : List (Nat × Nat) :=
  if save then [(ta, 16904)] else (List.range 64).map fun r => (ta + r * (tb % 2 ^ 16), 256)

/-! ### Issue (R257, R260, R270, R279) -/

/-- Cut bytes at line boundaries. -/
def cutLines (va len : Nat) : List (Nat × Nat) :=
  (List.range (linesOf va len)).map fun i =>
    let a := max va ((va / 128 + i) * 128)
    (a, min (va + len) ((va / 128 + i + 1) * 128) - a)

/-- The checks of a global range at issue (R182, R183): the ranges, pages to be asked, and the first failure (DEDUCED, log entry 23). -/
def State.globalRanges (s : State) (k : Acc) : List (Nat × Nat) → (List Range × List Ask × Option (Nat × Nat)) × State
  | [] => (([], [], none), s)
  | (va, len) :: r =>
    let first (c : Chk) (s : State) : (List Range × List Ask × Option (Nat × Nat)) × State :=
      let ((rs, as, f), s) := s.globalRanges k r
      match c with
      | .local page pa => (({ die := (s.team s.me).origin, start := pa, len := len, wr := k == .write, va := va, alias_ := page.a, wpage := page.w } :: rs, as, f), s)
      | .remote e => (({ start := va % 2 ^ 32, len := len, wr := k == .write, va := va, alias_ := true, peer := some e, far := s.farPlace e (va % 2 ^ 32) } :: rs, as, f), s)
      | .ask a => ((rs, a :: as, f), s)
      | .fail c a => ((rs, as, some (c, a)), s)
    match s.check s.view va 1 k with
    | (.remote e, s) => match s.check s.view (va + len - 1) 1 k with
      | (.remote _, s) => first (.remote e) s
      | (c, s) => first c s
    | (c, s) => first c s

/-- An operation goes into the queue of two (R257), or behind those that a freeze has moved to the replay list (R283). -/
def State.enterMq (s : State) (t : Nat) (o : MOp) (n : Nat) : State :=
  let (id, s) := s.fresh
  (s.modTeam t fun T =>
    if T.replay.isEmpty then { T with mq := T.mq ++ [{ o with id := id }] } else { T with replay := T.replay ++ [{ o with id := id }] }).advance n

/-- The frame of a matrix operation at issue: the tile is one of the team's; a third operation waits (R257). `reads` are the registers among its
`fields` that it reads, `rows` its accesses. A G = 1 form faults when every check has ended (R182). -/
def mIssue (op : Instr) (fields reads : List Reg) (tile n : Nat) (g : Bool) (ta tb : Reg) (wr : Bool) (rows : Nat → Nat → List (Nat × Nat))
    (fill : Team → MOp → MOp) (s : State) : Out :=
  scalar false true fields (reads.map (·.toNat)) s <|
    let t := s.me
    let T := s.team t
    let a := (s.reg ta).toNat
    let b := (s.reg tb).toNat
    let o : MOp := fill T { op := op, addr := s.pc, ta := s.reg ta, tb := s.reg tb }
    if tile ≥ T.acct then .next s.illegal
    else if T.mOps.length ≥ 2 then stay s
    else if !g then
      .next (s.enterMq t { o with win := (rows (a % 2 ^ 32) b).map fun (x, n) => { sp := true, start := x, len := n, wr := wr } } n)
    else match s.globalRanges (if wr then .write else .read) ((rows a b).flatMap fun (x, n) => cutLines x n) with
      | ((_, a :: as, _), s) => .next (s.askFor (a :: as))
      | ((_, [], some (c, x)), s) => .next (s.streamFail c x)
      | ((rs, [], none), s) => .next (s.enterMq t { o with win := rs } n)

/-- A tile operation without memory accesses. -/
def mTile (op : Instr) (fields reads : List Reg) (tile : Nat) (ta : Reg) (s : State) : Out :=
  mIssue op fields reads tile 4 false ta 0 false (fun _ _ => []) (fun _ o => o) s

/-- MZERO (R269). -/
def execMzero (t : BitVec 5) (s : State) : Out := mTile (.mzero t) [] [] t.toNat 0 s

/-- MACC (R270). -/
def execMacc (g : Bool) (a b : Reg) (save : Bool) (t : BitVec 5) (s : State) : Out :=
  mIssue (.macc g a b save t) [a, b] [a, b] t.toNat 4 g a b false (loadRows save) (fun _ o => o) s

/-- MDRAIN (R274). -/
def execMdrain (g z : Bool) (rnd lc : BitVec 2) (a b : Reg) (fmt : BitVec 3) (t : BitVec 5) (s : State) : Out :=
  mIssue (.mdrain g z rnd lc a b fmt t) [a, b] [a, b] t.toNat 4 g a b true (drainRows fmt.toNat lc.toNat) (fun _ o => o) s

/-- MCHK (R272). -/
def execMchk (d : Reg) (t : BitVec 5) (s : State) : Out := mTile (.mchk d t) [d] [] t.toNat 0 s

/-- MLOC (R272). -/
def execMloc (d : Reg) (t : BitVec 5) (s : State) : Out := mTile (.mloc d t) [d] [] t.toNat 0 s

/-- MFIX (R273). -/
def execMfix (a : Reg) (t : BitVec 5) (s : State) : Out := mTile (.mfix a t) [a] [a] t.toNat a s

/-- MWAIT (R276). -/
def execMwait (s : State) : Out :=
  scalar false true [] [] s (if (s.team s.me).mOps.isEmpty then .next (s.advance 4) else stay s)

/-- An operation of MMA or MMAS takes the injection that MINJ arms when no other holds it (R259). -/
def Team.arm (T : Team) (o : MOp) : MOp :=
  if (T.minj.toNat % 4 = 1 ∨ T.minj.toNat % 4 = 2) ∧ !(T.mOps.any fun p => p.inj.isSome) then { o with inj := some T.minj } else o

/-- The bytes of A and of its scales (R262). -/
def operandRows (bi4 : Bool) (lc k ap sp : Nat) (ta tb : Nat) : List (Nat × Nat) :=
  let la := 16 * 2 ^ lc
  (List.range 64).map (fun r => (ta + r * ap, if bi4 then (k + 1) / 2 else k)) ++
  (List.range 64).map fun r => (tb + r * sp, (k + la - 1) / la)

/-- MMA (R260, R265). -/
def execMma (t : BitVec 5) (a b : Reg) (slot : BitVec 5) (bi4 : Bool) (lc : BitVec 2) (k : BitVec 8) (ap : BitVec 12) (sp : BitVec 8)
    (s : State) : Out :=
  mIssue (.mma t a b slot bi4 lc k ap sp) [a, b] [a, b] t.toNat 8 false a b false
    (fun x y => operandRows bi4 lc.toNat k.toNat ap.toNat sp.toNat x (y % 2 ^ 32)) Team.arm s

/-- MMAS (R260, R266). -/
def execMmas (t : BitVec 5) (a b : Reg) (slot : BitVec 5) (bi4 : Bool) (lc : BitVec 2) (k : BitVec 8) (ap : BitVec 12) (sp : BitVec 8)
    (s : State) : Out :=
  mIssue (.mmas t a b slot bi4 lc k ap sp) [a, b] [a, b] t.toNat 8 false a b false
    (fun x y => operandRows bi4 lc.toNat k.toNat ap.toNat sp.toNat x (y % 2 ^ 32)) Team.arm s

/-! ### The product (R262 to R268) -/

/-- The fields of MMA and MMAS. -/
structure Mma where
  tile : Nat := 0
  slot : Nat := 0
  bi4 : Bool := false
  lc : Nat := 0
  k : Nat := 0
  ap : Nat := 0
  sp : Nat := 0
  sparse : Bool := false
  deriving DecidableEq, Repr, Inhabited

/-- The product that an operation makes, if it makes one. -/
def MOp.product (o : MOp) : Option Mma :=
  match o.op with
  | .mma t _ _ slot bi4 lc k ap sp => some ⟨t.toNat, slot.toNat, bi4, lc.toNat, k.toNat, ap.toNat, sp.toNat, false⟩
  | .mmas t _ _ slot bi4 lc k ap sp => some ⟨t.toNat, slot.toNat, bi4, lc.toNat, k.toNat, ap.toNat, sp.toNat, true⟩
  | _ => none

/-- Bounds of the segments of column j (R264): where a block of A or of the column begins. -/
def segments (w : WSlot) (la k j : Nat) : List (Nat × Nat) :=
  let cuts := (List.range k).filter fun i => i % la == 0 || (w.cells.get (64 * i + j) {}).start
  cuts.zip (cuts.drop 1 ++ [k])

/-- Significand (r, k) of A, and E8 of block q of its row r (R262). -/
def aSig (T : Team) (o : MOp) (m : Mma) (r k : Nat) : Int :=
  let off := o.ta.toNat % 2 ^ 32 + r * m.ap
  if m.bi4 then sext ((Map.get T.sp (off + k / 2) 0).toNat / 16 ^ (k % 2)) 4 else sext (Map.get T.sp (off + k) 0).toNat 8
def aScale (T : Team) (o : MOp) (m : Mma) (r q : Nat) : Nat := (Map.get T.sp (o.tb.toNat % 2 ^ 32 + r * m.sp + q) 0).toNat

/-- One element's segments added in order (R265): the new C, and the exact sum X of what was added. -/
def mmaElem (T : Team) (o : MOp) (m : Mma) (w : WSlot) (c : Half) (r j : Nat) : Half × FV :=
  let la := 16 * 2 ^ m.lc
  let wa := if m.bi4 then 4 else 8
  let wb := if w.bi4 then 4 else 8
  (segments w la m.k j).foldl (fun (c, x) (k0, k1) =>
    let v : Int := ((List.range (k1 - k0)).map fun i => aSig T o m r (k0 + i) * (w.cells.get (64 * (k0 + i) + j) {}).sig).sum
    let ea := aScale T o m r (k0 / la)
    let eb := (w.cells.get (64 * k0 + j) {}).e8
    let y : FV := if ea = 255 ∨ eb = 255 then .nan
      else .fin (decide (v < 0)) v.natAbs (((ea : Int) - 127 - (wa - 2)) + ((eb : Int) - 127 - (wb - 2)))
    (toF32 ((f32v c).add 0 y), x.add 0 y)) (c, fzero)

/-- The tile after a product (R265). -/
def mmaTile (T : Team) (o : MOp) (m : Mma) (w : WSlot) (A : Tile) : Tile :=
  let es : Map (Half × FV) := (List.range 4096).map fun i => (i, mmaElem T o m w (A.c.get i 0) (i / 64) (i % 64))
  let x (i : Nat) : FV := (es.get i (0, fzero)).2
  { A with
      c := wordMap 4096 fun i => (es.get i (0, fzero)).1
      rsum := wordMap 64 fun r => toF32 ((f32v (A.rsum.get r 0)).add 0 (fsum ((List.range 64).map fun j => x (64 * r + j))))
      csum := wordMap 64 fun j => toF32 ((f32v (A.csum.get j 0)).add 0 (fsum ((List.range 64).map fun r => x (64 * r + j))))
      nseg := min (A.nseg + ((List.range 64).map fun j => (segments w (16 * 2 ^ m.lc) m.k j).length).foldl max 0) 65535
      f8 := A.f8 || !m.bi4 || !w.bi4
      f4 := A.f4 || m.bi4 || w.bi4 }

/-! ### The engine's checks and matrix faults (R263, R280, R282) -/

/-- The tile that an operation names. -/
def MOp.tile (o : MOp) : Nat :=
  match o.op with
  | .mzero t => t.toNat
  | .macc _ _ _ _ t => t.toNat
  | .mdrain _ _ _ _ _ _ _ t => t.toNat
  | .mchk _ t => t.toNat
  | .mloc _ t => t.toNat
  | .mfix _ t => t.toNat
  | .mma t _ _ _ _ _ _ _ _ => t.toNat
  | .mmas t _ _ _ _ _ _ _ _ => t.toNat
  | _ => 0

def Team.tile (T : Team) (k : Nat) : Tile := T.tiles.get k {}
def Team.setTile (T : Team) (k : Nat) (A : Tile) : Team := { T with tiles := T.tiles.ins k A }

/-- The element size that addresses and pitches must keep (R270, R274). -/
def drainUnit (fmt : Nat) : Nat := match fmt with | 0 => 4 | 1 => 2 | 2 => 2 | 5 => 8 | _ => 1

/-- Some scratchpad byte of the operation lies beyond the scratchpad. -/
def Team.beyondSpad (T : Team) (o : MOp) : Bool := o.win.any fun r => r.sp && decide (r.start + r.len > T.spad)

/-- The first failing condition when an operation starts: its FCAUSE (R263, R282). A slot that a CPYW has begun to fill since the issue counts as
one that is not VALID (R278). -/
def Team.mFlaw (T : Team) (o : MOp) : Option Nat :=
  let A := T.tile o.tile
  match o.op with
  | .macc _ _ _ _ _ =>
    if o.ta.toNat % 4 ≠ 0 ∨ o.tb.toNat % 4 ≠ 0 then some 7 else if T.beyondSpad o then some 5 else none
  | .mdrain _ _ _ _ _ _ fmt _ =>
    let u := drainUnit fmt.toNat
    if o.ta.toNat % u ≠ 0 ∨ (fmt ≠ 5 ∧ o.tb.toNat % 2 ^ 16 % u ≠ 0) then some 7
    else if T.beyondSpad o then some 5
    else if A.bad then some 6
    else if fmt ≠ 5 ∧ T.drainCheck A ≠ ([], []) then some 2
    else none
  | .mzero _ => none
  | _ => match o.product with
    | some m =>
      let w := T.slots.get m.slot {}
      if o.stale ∨ w.state ≠ .valid ∨ ((w.ncode != 0) != m.sparse) = true then some 3
      else if !m.sparse ∧ m.k > w.k then some 4
      else if T.beyondSpad o then some 5
      else if A.bad ∨ w.bad ∨ o.win.any fun r => T.spPoison r.start r.len then some 6
      else none
    | none => if A.bad then some 6 else none

/-- A matrix fault of the operation at the head of the queue (R280): the later one, which a freeze may have moved to the replay list, is discarded,
MSTAT tells the cause, and the sequencer stops or restarts. -/
def State.mFault (s : State) (t fc : Nat) : State :=
  match (s.team t).mq with
  | [] => s
  | o :: _ =>
    let later := (s.team t).mOps[1]?
    let s := s.modTeam t fun T =>
      let T := { T with mq := [], replay := [], fcause := fc, ftile := o.tile, retry := 0 }
      let b := T.drainCheck (T.tile o.tile)
      let T := if fc = 2 then { T with badrows := b.1.length, badcols := b.2.length } else T
      match o.product with
      | some m => if fc = 6 ∧ (T.slots.get m.slot {}).bad then { T with slots := T.slots.mod m.slot fun w => { w with state := .invalid } } else T
      | none => T
    s.seqFault t { code := 0xF00 + fc, swcode := o.tile, disc := ((later.map MOp.addr).getD 0).toNat, nxt := (s.team t).seq.pc.toNat, pc := o.addr.toNat }

/-- Change the operation at the head of the queue. -/
def Team.modHead (T : Team) (f : MOp → MOp) : Team := match T.mq with | o :: r => { T with mq := f o :: r } | [] => T

/-! ### The engine's accesses (R275) -/

/-- The page of a global range, as its accesses need it. -/
def Range.page (r : Range) : Page := { a := r.alias_, w := r.wpage }

/-- The engine reads one range: none when it is uncorrectable. -/
def State.mRead (s : State) (t : Nat) (o : MOp) (i : Nat) (r : Range) : Option (List Byte) × State :=
  if r.peer.isSome then (((o.got.find? fun g => g.1 == i).bind (·.2)).map (bytesLE r.len), s)
  else if r.sp then match s.spGet t r.start r.len with
    | some v => let (bs, s) := s.spOlder t r.start (bytesLE r.len v); (some bs, s)
    | none => (none, s)
  else let (v, s) := s.load (s.team t).space r.va r.len r.page r.start (some t); (v.map (bytesLE r.len), s)

/-- Bytes of range `i` that raced take free values (R277). -/
def State.blurRaced (s : State) (o : MOp) (i : Nat) (bs : List Byte) : List Byte × State :=
  s.blur bs ((List.range bs.length).filter fun k => o.raced.contains (i, k))

/-- All ranges, in order; a byte that raced reads as a free value. -/
def State.mReadAll (s : State) (t : Nat) (o : MOp) : List (Nat × Range) → Option (List Byte) × State
  | [] => (some [], s)
  | (i, r) :: rest => match s.mRead t o i r with
    | (none, s) => (none, s)
    | (some bs, s) =>
      let (bs, s) := s.blurRaced o i bs
      let (x, s) := s.mReadAll t o rest
      (x.map (bs ++ ·), s)

/-- A request of the engine, for the window address of a range. -/
def State.mReq (s : State) (o : Owner) (t e : Nat) (r : Range) (ty : TwillType) (bs : List Byte) : State :=
  let (id, s) := s.remote o (s.team t).space (s.packetOf (s.team t).origin e r.start r.len ty bs) false [] 0 0
  { s with reqs := s.reqs.mod id fun q => { q with addr := r.va } }

/-- The engine writes one range; a write to a peer is posted. -/
def State.mWrite (s : State) (t : Nat) (o : MOp) (r : Range) (bs : List Byte) : State :=
  match r.peer with
  | some e => s.mReq (.mdrain t o.id) t e r .write bs
  | none => if r.sp then s.spPut t r.start bs else s.store (s.team t).space r.va r.page r.start bs (some t)

/-- The bytes of each range of a drain; those that raced take free values. -/
def State.mBytes (s : State) (o : MOp) : List (Nat × Range) → List Byte → List (Range × List Byte) × State
  | [], _ => ([], s)
  | (i, r) :: rest, bs =>
    let (x, s) := s.blurRaced o i (bs.take r.len)
    let (xs, s) := s.mBytes o rest (bs.drop r.len)
    ((r, x) :: xs, s)

/-- Rows that follow one another in one line of a peer go as one write, which may fill the line (R177). -/
def joinRows : List (Range × List Byte) → List (Range × List Byte)
  | [] => []
  | (r, x) :: l => match joinRows l with
    | (q, y) :: m =>
      if r.peer.isSome ∧ q.peer = r.peer ∧ q.start = r.start + r.len ∧ q.start / 128 = r.start / 128 then ({ r with len := r.len + q.len }, x ++ y) :: m
      else (r, x) :: (q, y) :: m
    | [] => [(r, x)]

/-- The bytes of a drain go to their ranges. Lines that its rows fill together lose their poison (R177). -/
def State.mWriteAll (s : State) (t : Nat) (o : MOp) (bs : List Byte) : State :=
  let (xs, s) := s.mBytes o ((List.range o.win.length).zip o.win) bs
  ((joinRows xs).foldl (fun s (r, x) => s.mWrite t o r x) s).filled (s.team t).origin
    (o.win.filterMap fun r => if r.sp || r.peer.isSome then none else some (r.start, r.len))

/-- `n` free words (R277). -/
def State.drawWords (s : State) (n : Nat) : Map Half × State :=
  (List.range n).foldl (fun (m, s) i => let (x, s) := s.draw 32; (m.put 0 i (BitVec.ofNat 32 x), s)) (([] : Map Half), s)

/-! ### Events of the engine -/

/-- The teams that a core hosts. -/
def State.coreTeams (s : State) (d c : Nat) : List (Nat × Team) :=
  s.teams.filter fun (_, T) => T.phase == .resident && T.die == d && T.core == c

/-- A product of a team has started and is not finished. -/
def Team.multiplies (T : Team) : Bool := T.mq.any fun o => o.started && o.product.isSome && !o.finished

/-- The oldest operation of a team can start: not started, no product while the team is frozen (R283), and one product at a time in the core's engine
(R257). -/
def State.canStart (s : State) (T : Team) : Bool :=
  match T.mq with
  | [] => false
  | o :: _ => !o.started && T.phase == .resident && !(o.product.isSome && (T.frozen || (s.coreTeams T.die T.core).any fun (_, U) => U.multiplies))

/-- Round-robin: how far a slot stands behind the one that went last, of `n` slots. -/
def roundRobin (last : Option Nat) (n x : Nat) : Nat := match last with | none => x | some l => (x + n - (l + 1) % n) % n

/-- The number of a core, for the round-robin pointers. -/
def coreKey (d c : Nat) : Nat := 64 * d + c

/-- The team whose operation the core's engine accepts next: by team priority, then round-robin (R21). -/
def State.startNext (s : State) (d c : Nat) : Option Nat :=
  let ts := (s.coreTeams d c).filter fun (_, T) => s.canStart T
  let rank (T : Team) : Nat := roundRobin (s.lastStart.find (coreKey d c)) 8 T.sslot
  ((sortBy (fun (x y : Nat × Team) => decide (y.2.prio < x.2.prio) || (x.2.prio == y.2.prio && decide (rank x.2 ≤ rank y.2))) ts).head?).map (·.1)

/-- MATRIX_OP_START (R263): the oldest operation of the team that the engine chooses starts, or raises its matrix fault. -/
def execMatrixOpStart (t : Nat) (s : State) : Out :=
  let T := s.team t
  match T.mq with
  | [] => .next s
  | o :: _ =>
    if !s.canStart T || s.startNext T.die T.core != some t then .next s
    else
      let s := { s with lastStart := s.lastStart.ins (coreKey T.die T.core) T.sslot }
      match T.mFlaw o with
      | some c => .next (s.mFault t c)
      | none =>
        let s := s.modTeam t (·.modHead fun o => { o with started := true })
        match o.op with
        | .macc _ _ _ _ _ => .next ((List.range o.win.length).foldl (fun s i => match o.win[i]? with
            | some r => match r.peer with
              | some e => s.mReq (.macc t o.id i) t e r .read []
              | none => s
            | none => s) s)
        | _ => .next s

/-- COUNT and MODE after an attempt with STEP (R259). -/
def stepped (x : Word) : Word :=
  let c := bits x.toNat 31 24 - 1
  (x &&& 0xFFFFFFFF00FFFFFC) ||| BitVec.ofNat 64 (c * 2 ^ 24 + if c = 0 then 0 else x.toNat % 4)

/-- The captured injection becomes `x`; the register follows while the operation updates it (R259). -/
def Team.setInj (T : Team) (o : MOp) (x : Word) : Team :=
  let T := T.modHead fun o => { o with inj := some x }
  if o.detachedInj then T else { T with minj := (T.minj &&& 0xFFFFFFFF00FFFFFC) ||| (x &&& 0xFF000003) }

/-- The team with the scratchpad operands of a product as one attempt reads them (R222, R275). -/
def State.operands (s : State) (t : Nat) (o : MOp) : Team × State :=
  let T := s.team t
  if T.spOld.isEmpty then (T, s)
  else o.win.foldl (fun (T, s) r =>
    let (bs, s) := s.spOlder t r.start (rdBytes T.sp r.start r.len)
    ({ T with sp := wrBytes T.sp r.start bs }, s)) (T, s)

/-- MMA_ATTEMPT_DONE (R267, R268): the residues are exact, so the step check fails just when an injection corrupts the attempt. -/
def execMmaAttemptDone (t : Nat) (s : State) : Out :=
  let T := s.team t
  match T.mq with
  | [] => .next s
  | o :: _ => match o.product with
    | none => .next s
    | some m =>
      let x := o.inj.getD 0
      if !o.started || o.finished || T.phase != .resident then .next s
      else if x.toNat % 4 = 1 then
        let s := s.modTeam t (·.setInj o (stepped x))
        if T.retry < T.mretry then .next (s.modTeam t fun T => { T with retry := T.retry + 1 }) else .next (s.mFault t 1)
      else
        let (U, s) := s.operands t o
        let A := mmaTile U o m (T.slots.get m.slot {}) (T.tile m.tile)
        let at_ := 64 * bits x.toNat 13 8 + bits x.toNat 21 16
        let A := if x.toNat % 4 = 2 then { A with c := A.c.put 0 at_ (A.c.get at_ 0 ^^^ BitVec.ofNat 32 (bits x.toNat 63 32)) } else A
        .next (s.modTeam t fun T =>
          let T := if x.toNat % 4 = 2 then T.setInj o (x &&& 0xFFFFFFFFFFFFFFFC) else T
          { (T.setTile m.tile A).modHead (fun o => { o with finished := true }) with retry := 0 })

/-- The effect of an operation that completes, the operation gone from the queue (DEDUCED, log entry 21). -/
def State.mFinish (s : State) (t : Nat) (o : MOp) : State :=
  let T := s.team t
  let A := T.tile o.tile
  let put (s : State) (A : Tile) : State := s.modTeam t (·.setTile o.tile A)
  match o.op with
  | .mzero _ => put s {}
  | .mchk d _ => s.modSeq t (·.setT d.toNat (chkWord A (T.drainCheck A)))
  | .mloc d _ => s.modSeq t (·.setT d.toNat (locWord (T.drainCheck A)))
  | .mfix _ _ => put s (A.fix o.ta)
  | .mdrain _ z rnd lc _ _ fmt _ =>
    let s := s.mWriteAll t o (A.drained fmt.toNat rnd.toNat lc.toNat)
    if z then put s {} else s
  | _ =>
    if o.raced.isEmpty then s
    else
      let (c, s) := s.drawWords 4096
      let (r, s) := s.drawWords 64
      let (k, s) := s.drawWords 64
      put s { A with c := c, rsum := r, csum := k }

/-- MATRIX_OP_COMPLETE (R257): the oldest operation completes. MACC has read its source by then; what it read is poisoned, or raced,
or loads the tile. -/
def execMatrixOpComplete (t : Nat) (s : State) : Out :=
  let T := s.team t
  match T.mq with
  | [] => .next s
  | o :: r =>
    let open_ := (List.range o.win.length).any fun i => (o.win[i]?.bind (·.peer)).isSome && !(o.got.any fun g => g.1 == i)
    let pop (s : State) : State := s.modTeam t fun T => { T with mq := r }
    if !o.started || T.phase != .resident || (o.product.isSome && !o.finished) then .next s
    else match o.op with
    | .macc _ _ _ save _ =>
      if open_ then .next s
      else match s.mReadAll t o ((List.range o.win.length).zip o.win) with
      | (none, s) => .next (s.mFault t 6)
      | (some bs, s) =>
        let A := if save then tileOfRecord bs else tileOfRows bs
        if o.raced.isEmpty then .next (pop (s.modTeam t (·.setTile o.tile A)))
        else
          let (c, s) := s.drawWords 4096
          let A := { A with c := c }
          .next (pop (s.modTeam t (·.setTile o.tile (if save then A else A.resum))))
    | _ => .next ((pop s).mFinish t o)

end Sys2Proof.Machine
end

