-- ==== Sys2Proof/Machine/Suspend.lean ====
section
/-! DEFINITION. Teams on cores: placement (R24, R383, R384), pre-emption and yield (R100, R252, R283, R431), restore (R284, R432, R433),
and team completion (R388 to R390). -/

namespace Sys2Proof.Machine

/-! ### Room on a core (R20, R23, R24) -/

/-- KiB of the core store that a partition word takes (R23). -/
def storeOf (p : Nat) : Nat := 32 * bits p 7 0 + 16 * bits p 15 8 + 16 * bits p 20 16

/-- Warp slots that a team's warps hold; a SHADOW team's warps hold two each (R99, R384, R427) (DESIGN CHOICE, log entry 27). -/
def Team.slotsHeld (T : Team) : List Nat :=
  T.warps.flatMap fun (_, W) => if W.life = .ended then [] else if T.shadow then [W.slot, W.slot + 32] else [W.slot]

/-- Warp slots of a core that a team may take; slots of 0 to 31 whose partner is free too for a SHADOW team (R427) (DESIGN CHOICE, log entry 27). -/
def State.warpSlots (s : State) (d c : Nat) (shadow : Bool) : List Nat :=
  let held := (s.coreTeams d c).flatMap fun (_, T) => T.slotsHeld
  (List.range (if shadow then 32 else 64)).filter fun k => !held.contains k && !(shadow && held.contains (k + 32))

/-- Warps that a team brings to a core: all at its first placement, then those that have not ended. -/
def Team.warpNeed (T : Team) : Nat := if T.phase = .waiting then T.nwarps else (T.warps.filter fun (_, W) => W.life != .ended).length

/-- The core has room for the team (R20, R24, R432). -/
def State.room (s : State) (t c : Nat) : Bool :=
  let T := s.team t
  let rs := s.coreTeams T.die c
  decide (rs.length < 8) && decide ((rs.map fun (_, R) => storeOf R.part).sum + storeOf T.part ≤ Config.storeKiB) &&
  decide (T.warpNeed ≤ (s.warpSlots T.die c T.shadow).length) && decide (T.saved.length ≤ (s.freeFrags T.die c).length)

/-- The core belongs to the team: a handler warp's cluster, else the clusters of its partition (R419, R435). -/
def State.coreFor (s : State) (t c : Nat) : Bool :=
  let T := s.team t
  decide (c < Config.cores) && if T.handler then c / 8 == T.core / 8 else bitOf (s.partitions.get T.partition {}).clusters (8 * T.die + c / 8)

/-- Resident teams of a die that are not of CHILD queues (R384). -/
def State.parents (s : State) (d : Nat) : Nat := (s.teams.filter fun (_, T) => T.phase == .resident && T.die == d && !T.child && !T.handler).length

/-- What holds a team back whatever the cores hold: power state, partition, its queue's slot and share (R379, R395, R441, R452) (DEDUCED, log
entry 28). -/
def State.admitted (s : State) (t : Nat) : Bool :=
  let T := s.team t
  (s.die T.die).up && s.pstate == 0 && s.goal.isNone && !(s.partitions.get T.partition {}).stopped &&
  (T.handler || (let q := (s.die T.origin).queues.get T.qsb {}; q.mapped && !q.overshare))

/-- A slot outside the child reserve is left for the team (R384). -/
def State.reserveLeft (s : State) (t : Nat) : Bool :=
  let T := s.team t
  T.handler || T.child || decide (s.parents T.die < 448)

/-- Nothing but the cores holds the team back. -/
def State.offered (s : State) (t : Nat) : Bool := s.admitted t && s.reserveLeft t

/-- The team waits for a core (R382, R385, R399). -/
def Team.dispatchable (T : Team) : Bool := T.phase != .resident && T.ready.isSome && T.held.isNone && !T.halt

/-- A core that can take the team now; the Tin leaf of its cluster is not restarting (R403). -/
def State.fits (s : State) (t c : Nat) : Bool :=
  s.coreFor t c && s.room t c && !((s.die (s.team t).die).fw.get (1 + c / 8) {}).restarting

/-- A team of higher PRIO of the die is offered first on this core (R383). -/
def State.outranked (s : State) (t c : Nat) : Bool :=
  let T := s.team t
  s.teams.any fun (u, U) => U.die == T.die && decide (U.prio > T.prio) && U.dispatchable && s.offered u && s.fits u c

/-- The next of some numbers, in a round behind the last: the least above it, else the least. -/
def nextRound (last : Option Nat) (l : List Nat) : Option Nat :=
  let l := l.foldl (fun a x => setIns x a) []
  match last with
  | none => l.head?
  | some k => match l.find? fun x => decide (x > k) with | some x => some x | none => l.head?

/-- Among the queues of equal PRIO with teams for the core, the team's queue is the one whose turn it is (R383) (DEDUCED, log entry 28). -/
def State.queueTurn (s : State) (t c : Nat) : Bool :=
  let T := s.team t
  T.handler || nextRound (s.lastQueue.find T.die) ((s.teams.filter fun (u, U) =>
    !U.handler && U.die == T.die && U.prio == T.prio && U.dispatchable && s.offered u && s.fits u c).map fun (_, U) => U.qsb) == some T.qsb

/-- The queue of a team has had its turn. -/
def State.hadTurn (s : State) (t : Nat) : State :=
  let T := s.team t
  if T.handler then s else { s with lastQueue := s.lastQueue.ins T.die T.qsb }

/-- A remote write of a party of the team, made before its team left its core, is not performed yet: what the party does after the restore comes
later (R210). -/
def State.unsettled (s : State) (t : Nat) : Bool :=
  (s.team t).phase == .away && s.reqs.any fun (_, r) => isWrite r.packet.type && r.owner.copyOf.isNone && s.ownerTeam r.owner == some t

/-- The team may be placed on the core. -/
def State.mayPlace (s : State) (t c : Nat) : Bool :=
  (s.teams.find t).isSome && (s.team t).dispatchable && s.offered t && s.fits t c && !s.outranked t c && s.queueTurn t c && !s.unsettled t

/-! ### Placement (R79, R106, R383, R416) -/

/-- `n` of a list's members, chosen freely. -/
def State.pick (s : State) : Nat → List Nat → List Nat × State
  | 0, _ => ([], s)
  | n + 1, l =>
    let (k, s) := s.choose l.length
    let x := l.getD k 0
    let (r, s) := s.pick n (l.filter (· != x))
    (x :: r, s)

/-- A TEAMREF that no live team of the origin die has (R416): the first such number from a free value on. -/
def State.newRef (s : State) (d : Nat) : Nat × State :=
  let (x, s) := s.draw 32
  let used := s.teams.filterMap fun (_, T) => if T.origin = d then T.ref else none
  (((List.range (used.length + 1)).map fun i => (x + i) % 2 ^ 32).find? (fun y => !used.contains y) |>.getD x, s)

/-- Register lines of warp `w` for which the team's register cache has no room when it starts (R107). -/
def Team.coldStart (T : Team) (w : Nat) : List Nat := if T.regLines = 0 then [] else (List.range 256).filter fun v => decide (256 * w + v ≥ T.regLines)

/-- Warp `w` as it starts (R79, R106). -/
def Team.newWarp (T : Team) (w slot : Nat) : Warp := { slot := slot, cold := T.coldStart w, spc := BitVec.ofNat 64 T.sentry, s := Map.put [] 0 1 T.args, stream := T.stag }

/-- The sequencer as it starts (R79, R375). -/
def Team.newSeq (T : Team) : Seq :=
  { idle := T.mentry == 0, pc := BitVec.ofNat 64 T.mentry, t := Map.put [] 0 1 T.args, stream := T.stag }

/-- The lowest sequencer slot of a core that no resident team has. -/
def State.freeSslot (s : State) (d c : Nat) : Nat :=
  ((List.range 8).find? fun q => !(s.coreTeams d c).any fun (_, T) => T.sslot == q).getD 0

/-- Bytes of a team's context image (R434). -/
def Team.imageSize (T : Team) : Nat :=
  0x1000 + (if T.shadow then 2 * T.nwarps else T.nwarps) * 0x9000 + T.acct * 0x4280 + T.spad + 0x8000

/-- The place of a new context image in a die's context pool (R434): the lowest page from which it fits beside the images of the teams (PRESUMED, log
entry 38). -/
def State.newImage (s : State) (d n : Nat) : Option (Nat × Nat) :=
  let base := (s.die d).func.base.get 0x16010 0
  let len := (s.die d).func.base.get 0x16018 0
  let held := s.teams.filterMap fun (_, T) => T.image.bind fun (e, a) => if e = d then some (a, T.imageSize) else none
  let free (a : Nat) : Bool := decide (a + n ≤ base + len) && held.all fun (b, m) => decide (a + n ≤ b) || decide (b + m ≤ a)
  (((base :: held.map fun (b, m) => b + m).map fun a => (a + 4095) / 4096 * 4096).foldl
    (fun m a => if free a && (m.all fun b => decide (a < b)) then some a else m) none).map fun a => (d, a)

/-- The trailing warps of a SHADOW team as they start (R427). -/
def Team.newTrailers (T : Team) : Map Trailer :=
  if T.shadow then (List.range T.nwarps).map fun w => (w, { spc := BitVec.ofNat 64 T.sentry, s := Map.put [] 0 1 T.args }) else []

/-- The first placement of a team on a core. A handler warp has its lanes already (R419). -/
def State.placeTeam (s : State) (t c : Nat) : State :=
  let T := s.team t
  let (slots, s) := s.pick T.nwarps (s.warpSlots T.die c T.shadow)
  let (ref, s) := s.newRef T.origin
  let q := s.freeSslot T.die c
  s.modTeam t fun T =>
    { T with
        ref := some ref, phase := .resident, core := c, sslot := q, placed := s.now, hint := none, ready := none, preempted := none
        image := s.newImage T.die T.imageSize, trailers := T.newTrailers
        seq := T.newSeq
        warps := (List.range T.nwarps).map fun w =>
          (w, if T.handler then { T.newWarp w (slots.getD w 0) with dead := (T.warp w).dead, origins := (T.warp w).origins } else T.newWarp w (slots.getD w 0)) }

/-- TEAM_PLACE (R383): a Tin leaf places a team on a core of its cluster. -/
def execTeamPlace (t c : Nat) (s : State) : Out :=
  if (s.team t).phase = .waiting ∧ s.mayPlace t c then .next ((s.placeTeam t c).hadTurn t) else .next s

/-! ### Migration (R289, R393, R400) -/

/-- The team holds a membership, or its warps have created a phaser that is live (R289). -/
def State.holdsPhaser (s : State) (t : Nat) : Bool :=
  (s.team t).warps.any (fun (_, W) => !W.members.isEmpty) || s.nodes.any fun (_, N) => N.entries.any fun (_, P) => P.team == t && !P.broken

/-- The team may move to another die (R393). -/
def State.mayMigrate (s : State) (t : Nat) : Bool := (s.team t).migrate && !s.holdsPhaser t

/-- Other dies that have advertised a free team slot to the team's die and have cores of its partition, those with most slots only. -/
def State.moveTargets (s : State) (t : Nat) : List Nat :=
  let T := s.team t
  let free (d : Nat) : Nat := (s.die T.die).free.get d 0
  let ds := (List.range Config.dies).filter fun d => d != T.die && decide (free d > 0) && bits (s.partitions.get T.partition {}).clusters (8 * d + 7) (8 * d) != 0
  ds.filter fun d => ds.all fun e => decide (free e ≤ free d)

/-- An accepted hint is used when the team has left its core (R400), but not while the die's Bronze core restarts (R403). -/
def State.useHint (s : State) (t : Nat) : State :=
  let T := s.team t
  match T.hint with
  | none => s
  | some h =>
    if !s.mayMigrate t || ((s.die T.die).fw.get 0 {}).restarting then s
    else if h = 255 then
      match s.moveTargets t with
      | [] => s
      | ds => let (k, s) := s.choose ds.length; s.modTeam t fun T => { T with die := ds.getD k T.die, hint := some (ds.getD k T.die) }
    else if h ≠ T.die ∧ (s.die T.die).free.get h 0 > 0 then s.modTeam t fun T => { T with die := h }
    else s

/-! ### Pre-emption and yield (R100, R252, R283, R431) -/

/-- A stream is inside an instruction: it has asked pages or waits for another unit's answer. -/
def inside (wait : Wait) (asks : List Ask) (got : Bool) : Bool :=
  match wait with
  | .absent _ _ => false
  | .tree => true
  | .reply _ => true
  | .remote _ => true
  | _ => !asks.isEmpty || got

/-- Waits that a suspension ends: a sleep is over, PHWAIT and QWAIT execute again (R101, R309, R399). -/
def Warp.endWaits (W : Warp) : Warp :=
  let W := { W with qwait := none }
  match W.wait with
  | .sleep _ => { W with wait := .none, spc := W.spc + 4 }
  | .phase _ => { W with wait := .none }
  | _ => W

/-- An operation as the replay list holds it (R283). -/
def MOp.replayed (o : MOp) : MOp := { o with started := false, finished := false, got := [] }

/-- The engine freezes the team (R283): the first product that has not been added, and what follows it, go to the replay list. -/
def Team.freeze (T : Team) : Team :=
  let early (o : MOp) : Bool := o.product.isNone || o.finished
  { T with frozen := true, mq := T.mq.takeWhile early, replay := (T.mq.dropWhile early).map MOp.replayed }

/-- The team must leave its core: its streams stop, waits end, the engine freezes. A team is suspended once (R100). -/
def State.startLeave (s : State) (t : Nat) : State :=
  s.modTeam t fun T =>
    if T.phase ≠ .resident ∨ T.leaving then T
    else { T.freeze with leaving := true, warps := T.warps.each fun _ W => W.endWaits }

/-- A path is at an instruction boundary with its data landed. -/
def Path.atEdge (p : Option Path) : Bool := match p with | none => true | some p => p.board.isEmpty && p.asks.isEmpty && p.scales.isEmpty

/-- A stopped team can be saved: issued instructions and earlier matrix operations are complete, and no copy touches its scratchpad or
fills its weight slots (R252, R431). -/
def State.maySave (s : State) (t : Nat) : Bool :=
  let T := s.team t
  T.leaving && T.phase == .resident && T.mq.isEmpty && !inside T.seq.wait T.seq.asks false &&
  (T.warps.all fun (_, W) => W.life != .running || (!inside W.wait W.asks (!W.got.isEmpty) && Path.atEdge W.a && Path.atEdge W.b)) &&
  !(s.copies.any fun (k, c) => c.team == some t && s.pending k && (c.srcSp || c.dstSp || c.awe || c.kind == 2))

/-- Join deadlines become the cycles that remain, and back (R150). -/
def Entry.remain (now : Nat) : Entry → Entry
  | .join id j e ar o d k => .join id j e ar o (d.map (· - now)) k
  | x => x
def Entry.rebase (now : Nat) : Entry → Entry
  | .join id j e ar o d k => .join id j e ar o (d.map (· + now)) k
  | x => x

/-- Insert a fragment by its entry number. -/
def insFrag (x : Nat × Nat) : List (Nat × Nat) → List (Nat × Nat)
  | [] => [x]
  | y :: r => if x.2 ≤ y.2 then x :: y :: r else y :: insFrag x r

/-- Fragments of a team in the table, by entry. -/
def State.teamFrags (s : State) (t : Nat) : List Nat :=
  (s.frags.foldl (fun l (k, F) => if F.team = t then insFrag (k, F.entry.getD 0) l else l) ([] : List (Nat × Nat))).map (·.1)

/-- Word 0 to 3 of a fragment entry (R415). -/
def State.fragWord (s : State) (F : Frag) (i : Nat) : Nat :=
  let T := s.team F.team
  let W := T.warp F.warp
  match i with
  | 0 => F.mask.toNat * 2 ^ 32 + F.pc * 2 ^ 16 + if F.state = .ready then F.resume else 0
  | 1 => F.addr
  | 2 => F.cause * 2 ^ 40 + F.detail * 2 ^ 32 + W.slot * 2 ^ 26 + (match F.state with | .parked => 1 | .handling => 2 | .ready => 3) * 2 ^ 24 +
    F.straddle.toNat * 2 ^ 23 + (match F.join with | some j => 2 ^ 16 + (W.joinAt j).getD 0 | none => 0)
  | _ => F.idle.toNat

/-- The 64 bytes of a fault report (R412). -/
def Report.bytes (R : Report) : List Byte :=
  bytesLE 64 (R.teamref % 2 ^ 32 * 2 ^ 480 + R.teamid % 2 ^ 32 * 2 ^ 448 + R.asid % 2 ^ 12 * 2 ^ 436 + R.socket % 2 ^ 8 * 2 ^ 428 + R.core % 2 ^ 6 * 2 ^ 422 +
    R.warp % 2 ^ 6 * 2 ^ 416 + R.seq.toNat * 2 ^ 415 + R.lane.toNat * 2 ^ 414 + R.straddle.toNat * 2 ^ 413 + R.detail % 2 ^ 8 * 2 ^ 400 +
    R.cause % 2 ^ 8 * 2 ^ 392 + R.code % 2 ^ 64 * 2 ^ 320 + R.disc % 2 ^ 64 * 2 ^ 256 + R.nxt % 2 ^ 64 * 2 ^ 192 + R.pc % 2 ^ 64 * 2 ^ 128 +
    R.addr % 2 ^ 64 * 2 ^ 64 + R.time % 2 ^ 64)

/-- Where a fault report stands in a context image (R434). -/
def Report.slot (R : Report) : Nat := match R.windex with | some w => 0x1000 + w * 0x9000 + 0x8260 | none => 0x0380

/-- A fault report is appended to its die's fault log, which begins anew where it is full, and goes to its slot in the context image (R412) (PRESUMED, log
entry 38). -/
def State.putReport (s : State) (R : Report) : State :=
  let D := s.die R.host
  let base := D.func.base.get 0x16020 0
  let n := D.func.base.get 0x16028 0 / 64
  let s := if n = 0 then s else (s.wrFree R.host (base + 64 * (D.reports % n)) R.bytes).modDie R.host fun D => { D with reports := D.reports + 1 }
  match (s.team R.team).image with
  | some (d, a) => s.wrFree d (a + R.slot) R.bytes
  | none => s

/-- Fault reports not yet in memory are written (R412). -/
def State.logReports (s : State) : State :=
  if s.reported = s.faults.length then s else { (s.faults.drop s.reported).foldl State.putReport s with reported := s.faults.length }

/-- Registers of a warp, as they stand in its context image: lane registers, then s0 to s63 (R434). -/
def regImage (v : Map Half) (sr : Map Word) : List Byte :=
  ((List.range 8192).flatMap fun i => bytesLE 4 (v.get i 0).toNat) ++ (List.range 64).flatMap fun i => bytesLE 8 (sr.get i 0).toNat

/-- What follows a warp's registers, at + 0x8200: SPC, DEADMASK, DETACHED, m1 to m7, and the death causes from + 0x8230 on. -/
def Warp.tailImage (W : Warp) (spc : Word) (m : Map Half) : List Byte :=
  bytesLE 8 spc.toNat ++ bytesLE 4 W.dead.toNat ++ bytesLE 4 W.detached.toNat ++ (List.range 7).flatMap (fun i => bytesLE 4 (m.get (i + 1) 0).toNat) ++
  List.replicate 4 0 ++ bytesLE 16 ((List.range 32).foldl (fun x l => x + W.deaths.get l 0 % 16 * 16 ^ l) 0)

/-- The parts of a team's context image whose layout is architectural (R434): offset and bytes. -/
def State.imageParts (s : State) (t : Nat) (ids : List Nat) : List (Nat × List Byte) :=
  let T := s.team t
  let block (w : Nat) : Nat := 0x1000 + w * 0x9000
  let t0 := block (if T.shadow then 2 * T.nwarps else T.nwarps)
  let s0 := t0 + T.acct * 0x4280
  [(0, (List.range 32).flatMap fun i => bytesLE 8 (T.seq.t.get i 0).toNat),
   (0x0400, (ids.filterMap s.frags.find).flatMap fun F => (List.range 4).flatMap fun i => bytesLE 8 (s.fragWord F i))] ++
  (T.warps.flatMap fun (w, W) => [(block w, regImage W.v W.s), (block w + 0x8200, W.tailImage W.spc W.m)]) ++
  (T.trailers.flatMap fun (w, R) =>
    [(block (T.nwarps + w), regImage R.v R.s), (block (T.nwarps + w) + 0x8200, (T.warp w).tailImage R.spc R.m)]) ++
  ((List.range T.acct).map fun k => (t0 + k * 0x4280, (T.tile k).record)) ++ [(s0, rdBytes T.sp 0 T.spad)]

/-- The parts whose layout is not architectural: offset and length. -/
def Team.imageInner (T : Team) : List (Nat × Nat) :=
  let n := if T.shadow then 2 * T.nwarps else T.nwarps
  [(0x0100, 64), (0x0140, 128), (0x0200, 256), (0x0300, 128)] ++
  ((List.range n).flatMap fun w => [(0x8240, 32), (0x8400, 1152), (0x8900, 512), (0x8C00, 1024)].map fun (o, k) => (0x1000 + w * 0x9000 + o, k)) ++
  [(0x1000 + n * 0x9000 + T.acct * 0x4280 + T.spad, 0x8000)]

/-- The context image takes the team's state (R434); what it holds where its layout is not architectural is free (DESIGN CHOICE, log entry 38). -/
def State.writeImage (s : State) (t : Nat) (ids : List Nat) : State :=
  match (s.team t).image with
  | none => s
  | some (d, a) =>
    let s := (s.imageParts t ids).foldl (fun s (o, bs) => s.wrFree d (a + o) bs) s
    (s.team t).imageInner.foldl (fun s (o, n) => let (bs, s) := s.drawBytes n; s.wrFree d (a + o) bs) s

/-- The team is saved in its context image and leaves its core (R431). -/
def State.saveTeam (s : State) (t : Nat) : State :=
  let now := (s.die (s.team t).die).cycles
  let ids := s.teamFrags t
  let s := { s with frags := s.frags.each fun _ F => if F.team = t then { F with entry := none } else F }.writeImage t ids
  (s.modTeam t fun T =>
    { T with
        phase := .away, leaving := false, saved := ids, preempted := none, ran := 8 * T.die + T.core / 8
        ready := if T.held.isNone then some s.now else none
        warps := T.warps.each fun _ W => { W with stack := W.stack.map (Entry.remain now) } }).useHint t

/-- A team leaves its core, at once when nothing holds it. -/
def State.leaveTeam (s : State) (t : Nat) : State :=
  let s := s.startLeave t
  if s.maySave t then s.saveTeam t else s

/-- Teams that had to wait leave as soon as they can. -/
def State.saveReady (s : State) : State := (Map.keys (s.teams.filter fun (_, T) => T.leaving)).foldl (fun s t => if s.maySave t then s.saveTeam t else s) s

/-- The team that a pre-emption on these cores takes (R385): lowest PRIO below `prio`, most recently placed among equals. -/
def State.victim (s : State) (d prio : Nat) (within : Nat → Bool) : Option Nat :=
  (s.teams.foldl (fun (m : Option (Nat × Team)) (u, U) =>
    if U.phase = .resident ∧ !U.leaving ∧ U.die = d ∧ within U.core ∧ U.prio < prio then
      match m with
      | none => some (u, U)
      | some (_, V) => if U.prio < V.prio ∨ (U.prio = V.prio ∧ V.placed ≤ U.placed) then some (u, U) else m
    else m) none).map (·.1)

/-- Some core of the die can take the team. -/
def State.anyCore (s : State) (t : Nat) : Bool := (List.range Config.cores).any (s.fits t)

/-- The team waits, and no core can take it, for want of room or of a slot outside the child reserve (R384, R385). -/
def State.blockedTeam (s : State) (t : Nat) : Bool := (s.team t).dispatchable && s.admitted t && !(s.reserveLeft t && s.anyCore t)

/-- The instant of the next pre-emption for a team: 50 us after it has become dispatchable, or after the last one for it (R385). -/
def Team.preemptDue (T : Team) : Option Nat := (T.preempted.orElse fun _ => T.ready).map (· + Config.usCycles 50)

/-- A pre-emption for the team is due (R385, R419). -/
def State.starved (s : State) (t : Nat) : Bool := s.blockedTeam t && (s.team t).preemptDue.any fun r => decide (s.now ≥ r)

/-- PREEMPT_WAIT_EXPIRY (R385, R419): the Bronze core, or the Tin leaf for a handler warp, pre-empts one team of lower PRIO. -/
def execPreemptWaitExpiry (t : Nat) (s : State) : Out :=
  let T := s.team t
  let fw := (s.die T.die).fw.get (if T.handler then 1 + T.core / 8 else 0) {}
  if !s.starved t || fw.restarting then .next s
  else match s.victim T.die T.prio fun c => !T.handler || c / 8 == T.core / 8 with
    | none => .next s
    | some v => .next ((s.modTeam t fun T => { T with preempted := some s.now }).leaveTeam v)

/-- SYS.YIELD (R100): the warp resumes at SPC + 4. -/
def execSysYield (s : State) : Out := warpOnly [] [] s (.next ((s.advance 4).leaveTeam s.me))

/-! ### Restore (R284, R432, R433) -/

/-- A request for a scale byte of a slot's refill, once (R197). -/
def State.refillScale (s : State) (t k e x : Nat) : State :=
  let T := s.team t
  if s.reqs.any fun (_, r) => match r.owner with | .scale u w _ y => u == t && w == 32 && y == x | _ => false then s
  else (s.remote (.scale t 32 k x) T.space (s.packetOf T.origin e (x % 2 ^ 32) 1 .read []) false [] 0 0).2

/-- What refilling weight slot `k` gives (R246, R284): none while a page is absent or a scale byte is on the way. -/
def State.refill (s : State) (t k : Nat) (w : WSlot) : Option WSlot × State :=
  let T := s.team t
  match w.desc with
  | some ds =>
    let c : Copy := { kind := 2, d0 := ds.getD 0 0, d1 := ds.getD 1 0, d2 := ds.getD 2 0, d3 := ds.getD 3 0, die := T.origin, asid := T.asid, scales := T.scales }
    let (r, s) := (List.range 128).foldl (fun (r, s) n => match r with
      | .error e => (.error e, s)
      | .ok c => s.copyColumn c n) ((.ok c : Except Elem Copy), s)
    match r with
    | .error (.absent _) => (none, s)
    | .error (.away e x) => (none, s.refillScale t k e x)
    | .error _ => (some { w with state := .invalid }, s)
    | .ok c => (some (if c.tooDense then { w with state := .invalid } else c.filled), s)
  | none => (some { w with state := .invalid }, s)

/-- Every VALID slot is refilled: none while one waits. -/
def State.refillAll (s : State) (t : Nat) : Map WSlot → Option (Map WSlot) × State
  | [] => (some [], s)
  | (k, w) :: r =>
    let (x, s) := if w.state = .valid then s.refill t k w else (some w, s)
    match x with
    | none => (none, s)
    | some w => match s.refillAll t r with
      | (some r, s) => (some ((k, w) :: r), s)
      | (none, s) => (none, s)

/-- The log is replayed in order (R433). -/
def State.replayLog (s : State) (t : Nat) : State :=
  let es := (s.team t).log
  es.foldl (fun s e => match e with
    | .arrive off n => s.arriveNow t off n
    | .phaser w type m => s.modWarp t w fun W => W.phaserMsg type m) (s.modTeam t fun T => { T with log := [] })

/-- A suspended team returns to a core (R284, R432): fragments take new entries in their saved order, the slots and the matrix state
return, the log is replayed, the replay list is reissued. -/
def State.restoreTeam (s : State) (t c : Nat) (slots : Map WSlot) : State :=
  let T := s.team t
  let ids := T.saved.filter fun k => (s.frags.find k).isSome
  let free := s.freeFrags T.die c
  let (skip, s) := s.choose (free.length - ids.length + 1)
  let s := (ids.zip (free.drop skip)).foldl (fun s (k, e) => s.modFrag k fun F => { F with entry := some e }) s
  let live := Map.keys (T.warps.filter fun (_, W) => W.life != .ended)
  let (ws, s) := s.pick live.length (s.warpSlots T.die c T.shadow)
  let now := (s.die T.die).cycles
  let q := s.freeSslot T.die c
  let s := s.modTeam t fun T =>
    { T with
        phase := .resident, core := c, sslot := q, saved := [], slots := slots, frozen := false, placed := s.now, hint := none, ready := none, preempted := none
        mq := T.replay, replay := [], scales := []
        warps := T.warps.each fun w W =>
          { W with slot := ((live.zip ws).find? fun p => p.1 == w).elim W.slot (·.2), cold := List.range 256, stack := W.stack.map (Entry.rebase now) } }
  (s.replayLog t).settle t

/-- TEAM_RESTORE (R432): it waits while a page of a weight slot's source is absent, or a scale byte comes from another die. -/
def execTeamRestore (t c : Nat) (s : State) : Out :=
  let T := s.team t
  if T.phase ≠ .away ∨ !s.mayPlace t c then .next s
  else match s.refillAll t T.slots with
    | (none, s) => .next s
    | (some slots, s) => .next ((s.restoreTeam t c slots).hadTurn t)

/-! ### Teams that QWAIT holds (R399) -/

/-- QWAIT's condition holds (R399) (DEDUCED, log entry 31). -/
def qwaitMet (v : Nat) (target : Word) : Bool := (BitVec.ofNat 64 v - target).toNat < 2 ^ 63

/-- A held team is dispatchable again. -/
def State.unhold (s : State) (t : Nat) : State := s.modTeam t fun T => { T with held := none, ready := some s.now }

/-! ### Completion (R388 to R390) -/

/-- Everything that R389 asks of a team holds, and its copies have given their signals (R300). A halted team that is away completes at once (R440). -/
def State.teamDone (s : State) (t : Nat) : Bool :=
  let T := s.team t
  if T.phase == .away then T.halt else
  T.phase == .resident && (T.warps.all fun (_, W) => W.life != .running && (T.halt || W.owed.isEmpty)) && T.mq.isEmpty && T.replay.isEmpty && T.seq.restart.isNone &&
  !(s.copies.any fun (k, c) => c.team == some t && s.pending k) && !(s.netops.any fun (_, o) => o.team == some t && o.kind != 5) &&
  !(s.reqs.any fun (_, r) => s.ownerTeam r.owner == some t)

/-- A producer that ended without its bit: faulted teams, failed entries (R390). -/
def Bundle.lose (B : Bundle) (k i : Nat) : Bundle := { B with subs := B.subs.modify k fun u => { u with failed := setIns i u.failed } }

/-- The team is gone; its bundle counts it (R389, R391). Its core holds what it has left (R462, R465). Signals of copies that it never gave are dropped
(R300). -/
def State.endTeam (s : State) (t : Nat) (faulted : Bool) : State :=
  let T := s.team t
  let dead := (T.warps.map fun (_, W) => count W.dead).sum
  let s := T.warps.foldl (fun s (_, W) => W.owed.foldl (fun s (h, _, _) => s.event 10 T.die h.toNat) s) s
  let s := { s with teams := s.teams.del t, ended := s.ended.ins t T, frags := s.frags.filter fun (_, F) => F.team != t }
  if T.handler then s
  else s.modBundle T.bundle fun B =>
    let B := { B with lostlanes := B.lostlanes + dead, lostwr := B.lostwr + T.lost }
    if faulted then { B.lose T.subidx T.teamid with halted := B.halted + 1 } else B

/-- TEAM_COMPLETE (R388, R389): a producer sets its bit, and waits while the bit's page is absent; a team whose bit cannot be set counts
as faulted. -/
def execTeamComplete (t : Nat) (s : State) : Out :=
  let T := s.team t
  if (s.teams.find t).isNone || !s.teamDone t then .next s
  else if T.handler then .next (s.endTeam t false)
  else if T.faulted || T.halt || T.warps.any fun (_, W) => W.life == .halted then .next ((s.endTeam t true).offer T.origin)
  else match s.setBit T.bundle T.subidx T.teamid with
    | (none, s) => .next s
    | (some ok, s) => .next ((s.endTeam t (!ok)).offer T.origin)

/-- Teams whose bits are all set become dispatchable (R387). -/
def State.noteReady (s : State) : State :=
  let now := s.now
  { s with teams := s.teams.each fun _ T =>
      if T.phase = .waiting ∧ T.ready.isNone ∧ !T.handler ∧ s.depsMet T.bundle T.subidx T.teamid then { T with ready := some now } else T }

end Sys2Proof.Machine
end

