-- ==== Sys2Proof/Machine/Remote.lean ====
section
/-! DEFINITION. VLDR, VSTR and VATOMR (R327, R328), the requests that a die serves (R325, R338), the answers that come back (R329,
R340), and links, ports and keys (R339 to R343). -/

namespace Sys2Proof.Machine

/-! ### VLDR, VSTR, VATOMR -/

/-- The checks of one lane at handle word `h` and exact offset `o`: alignment, then R324 with what R328 adds to steps 3 and 5. -/
def State.handleCheck (s : State) (h : Nat) (o : Int) (n : Nat) (k : Acc) : Chk × State :=
  let x := 15 * 2 ^ 48 + h % 2 ^ 16 * 2 ^ 32 + wrap o 32
  let (c, s) := s.check s.view x n k
  let out : Bool := decide (o < 0) || decide (o > 2 ^ 32 - 1)
  (match c with
   | .fail e a => if e = cALIGN then c else if h ≥ 2 ^ 16 then .fail cNOHANDLE x else if e = cNOKEY ∧ out then .fail cPEERRANGE x else .fail e a
   | _ => if h ≥ 2 ^ 16 then .fail cNOHANDLE x else if out then .fail cPEERRANGE x else c, s)

/-- The lanes in the order of their passes: ascending handle word, then lane (R328). -/
def passOrder (h : Nat → Nat) (ls : List Nat) : List Nat := sortBy (fun a b => decide (h a < h b) || (h a == h b && decide (a ≤ b))) ls

/-- The window address of a lane. -/
def handleAddr (h : Nat) (o : Int) : Nat := 15 * 2 ^ 48 + h % 2 ^ 16 * 2 ^ 32 + wrap o 32

/-- The checks of the lanes. -/
def State.handleChecks (s : State) (n : Nat) (k : Acc) (at_ : Nat → Nat × Int) : List Nat → List (Nat × Nat × Chk) × State
  | [] => ([], s)
  | l :: r =>
    let (h, o) := at_ l
    let (c, s) := s.handleCheck h o n k
    let (cs, s) := s.handleChecks n k at_ r
    ((l, handleAddr h o, c) :: cs, s)

/-- The frame of the three remote instructions. `bound`: the instruction is one operation of its stream (R230). -/
def laneHandle (f : LaneWord) (reads : List Nat) (n : Nat) (k : Acc) (bound : Bool)
    (act : Nat → List Nat → Nat → Nat → Bool → List (Nat × Nat × Chk) → State → State) (s : State) : Out :=
  lane s fun t w b =>
    let W := s.warp t w
    let e := s.eff t w b f
    let bad := W.badLanes e (f.va.toNat :: reads)
    let h (l : Nat) : Nat := W.opb f false l
    let at_ (l : Nat) : Nat × Int := (h l, ((W.vw f.va.toNat l).toNat : Int) + f.imm.toInt)
    let (cs, s) := s.handleChecks n k at_ (passOrder h (lanesOf (e &&& ~~~bad)))
    if !(asksOf cs).isEmpty then .next (s.askFor (asksOf cs))
    else
      let fs := sortBy (fun x y => decide (x.lane ≤ y.lane)) (failsOf cs)
      let good := cs.any fun (_, _, c) => match c with | .fail _ _ => false | _ => true
      let T := s.team t
      let tag := if bound then s.tag else 0
      match (if good then s.accept T.origin T.asid tag t else (some [], s)) with
      | (none, s) => .next s
      | (some after, s) => .next ((act tag after t w b cs s).accessEnd t w b fs bad)

/-- VLDR (R328). -/
def execVldr (f : LaneWord) (s : State) : Out :=
  let k := bits f.sub.toNat 2 0
  laneHandle f (regsB f false) (sizeOf' k) .read false (fun _ after t w b cs s => s.loadLanes f k after t w b cs) s

/-- VSTR (R328). -/
def execVstr (f : LaneWord) (s : State) : Out :=
  let k := bits f.sub.toNat 2 0
  laneHandle f (regsB f false ++ dataRegs k f.vd.toNat) (sizeOf' k) .write true
    (fun tag after t w _ cs s => (byLine 32 (remoteOf cs)).foldl (storeLine f k tag after t w) s) s

/-- The operand and the compare value of VATOMR: operand c, and for CAS the old v[vd]. -/
def atomrArgs (f : LaneWord) (W : Warp) (l : Nat) : Nat × Nat := (W.opc f (Lane.wide f.ty) l, W.vval (Lane.wide f.ty) f.vd.toNat l)

/-- VATOMR (R328). -/
def execVatomr (f : LaneWord) (s : State) : Out :=
  let op := bits f.sub.toNat 3 0
  let wd := Lane.wide f.ty
  laneHandle f (regsB f false ++ regsC f wd ++ (if op = 11 then regs1 wd f.vd else [])) (if wd then 8 else 4) .atomic true
    (fun tag after t w b cs s => cs.foldl (fun s (l, x, c) => atomLane f op true (atomrArgs f) tag after t w b l x c s) s) s

/-! ### Serving requests (R325, R337 to R340) -/

/-- The links of the package that a packet crosses on its way to a socket, as pairs of sockets (R333, R342). -/
def packetLinks (p : TwillPacket) (z : Nat) : List (Nat × Nat) :=
  match p.via with
  | some c => [(p.ssock, c), (c, z)]
  | none => [(p.ssock, z)]

/-- The number of a link's retry count, by its two sockets (R341). -/
def linkKey (a b : Nat) : Nat := 64 + 8 * min a b + max a b

/-- Links have carried a packet, so no retry of theirs is outstanding (R341). -/
def State.carried (s : State) (links : List (Nat × Nat)) : State :=
  { s with retries := links.foldl (fun m (a, b) => m.del (linkKey a b)) s.retries }

/-- A packet leaves the wires, where it stands there. -/
def State.takePacket (s : State) (p : TwillPacket) : State :=
  if s.wires.contains p then ({ s with wires := s.wires.erase p } : State).carried (packetLinks p p.dsock) else s

/-- The I/O die of a Twill port. -/
def portSocket (k : Nat) : Nat := 4 + k / 16

/-- A packet reaches the I/O die of its port and joins the port's queue (R335). -/
def State.outTo (s : State) (x : Nat × TwillPacket) : State :=
  (({ s with outward := s.outward.erase x } : State).carried (packetLinks x.2 (portSocket x.1))).atPort x.1 x.2

/-- The answer to a request goes back by its route (R335), under the request's partition: `conf` when the export's C is set (R339). -/
def State.answer (s : State) (p : TwillPacket) (ty : TwillType) (conf : Bool) (cause : Nat) (bs : List Byte) : State :=
  s.emitBack
    { dpkg := p.spkg, dsock := p.ssock, vc := p.vc + 3, path := p.path, type := ty, spkg := s.pkg, ssock := p.dsock, part := p.part, len := bs.length,
      tag := p.tag, ncause := cause, data := bs,
      crypt := if p.spkg = s.pkg then 0 else if conf && ty == .data then 2 else if s.integrity.contains (p.vc + 3) then 1 else 0 }

/-- SEQ numbers performed, from a source die: the first that is not, then later ones that are (R338). A number before the first counts already. -/
def performed (l : List Nat) (seq : Nat) : List Nat :=
  let low := l.headD 0
  let more := setIns seq (l.drop 1)
  if seq ≠ low then (if (seq + 65536 - low) % 65536 < 32768 then low :: more else l)
  else
    let n := ((List.range 4096).find? fun i => !(more.contains ((low + i) % 65536))).getD 4096
    let gone := (List.range n).map fun i => (low + i) % 65536
    (low + n) % 65536 :: more.filter fun x => !gone.contains x

/-- A packet's ORDSEQ is not reached yet (R338). -/
def State.ordWaits (s : State) (p : TwillPacket) : Bool :=
  let low := ((s.die p.dsock).performed.get (p.spkg * 32 + p.ssock) [0]).headD 0
  p.ord && decide ((p.ordseq + 65536 - low) % 65536 < 32768)

/-- A write or atomic has been performed, or NAKed (R338, R340): what waits for its number may go on. -/
def State.didSeq (s : State) (p : TwillPacket) : State :=
  if !isWrite p.type then s
  else
    let key := p.spkg * 32 + p.ssock
    s.modDie p.dsock fun D => { D with performed := D.performed.ins key (performed (D.performed.get key [0]) p.seq) }

/-- NAK causes of a failing check at the target (R340). -/
def nakOf (code : Nat) : Nat := if code / 256 = 2 then 4 else if code / 256 = 4 then 7 else 6

/-- The checks of the export (R325): the NAK cause. -/
def exportFlaw (e : Option Nat) (p : TwillPacket) (n : Nat) : Option Nat :=
  match e with
  | none => some 1
  | some e =>
    if !bitOf e 0 then some 1
    else if bits e 111 96 ≠ p.egen then some 2
    else if bits e 127 112 ≠ p.part then some 3
    else if !bitOf e (match p.type with | .write => 2 | .atomic => 3 | _ => 1) then some 4
    else if p.offset + n - 1 > bits e 95 64 then some 5
    else none

/-- Checks of lines, made when they are accessed (R239, R325): their places; none while a page is absent. `f` turns a code into the
cause to report, `w` is the cause for an address of the peer window. -/
def State.targetCheck (s : State) (f : Nat → Nat) (w space : Nat) (k : Acc) : List (Nat × Nat) → Option (Except Nat (List (Page × Nat × Nat × Nat))) × State
  | [] => (some (.ok []), s)
  | (va, n) :: r => match s.checkNow space va 1 k with
    | (.local page pa, s) => match s.targetCheck f w space k r with
      | (some (.ok l), s) => (some (.ok ((page, pa, va, n) :: l)), s)
      | x => x
    | (.fail c _, s) => (if c = cABSENT then none else some (.error (f c)), s)
    | (_, s) => (some (.error w), s)

/-- The bytes of a checked read, `me` where they go to the sequencer of a team; none when some are uncorrectable. -/
def State.readPlaces (s : State) (space : Nat) (me : Option Nat) : List (Page × Nat × Nat × Nat) → Option (List Byte) × State
  | [] => (some [], s)
  | (page, pa, va, n) :: r => match s.load space va n page pa me with
    | (none, s) => (none, s)
    | (some v, s) =>
      let (x, s) := s.readPlaces space me r
      (x.map (bytesLE n v ++ ·), s)

/-- The bytes of a checked write. -/
def State.writePlaces (s : State) (space : Nat) (me : Option Nat) : List (Page × Nat × Nat × Nat) → List Byte → State
  | [], _ => s
  | (page, pa, va, n) :: r, bs => (s.store space va page pa (bs.take n) me).writePlaces space me r (bs.drop n)

/-- A request is refused: nothing happens at the target (R325). -/
def State.refuse (s : State) (p : TwillPacket) (cause : Nat) : State := (s.answer p .nak false cause []).didSeq p

/-- The party of this package whose request the packet carries. -/
def State.ownerOf (s : State) (p : TwillPacket) : Option Owner :=
  if p.spkg ≠ s.pkg then none
  else (s.reqs.find? fun (_, r) => r.sent && r.src == p.ssock && r.packet.tag == p.tag && r.packet.dpkg == p.dpkg && r.packet.dsock == p.dsock).map (·.2.owner)

/-- What a request does once its checks have passed (DEDUCED, log entry 14); none where it reads uncorrectable data. The lines that a copy of this
package has written whole lose their poison (R177, R240). -/
def State.perform (s : State) (p : TwillPacket) (space : Nat) (conf : Bool) (ps : List (Page × Nat × Nat × Nat)) : Option State :=
  let owner := s.ownerOf p
  let me := owner.bind Owner.engine
  match p.type with
  | .write =>
    let s := s.writePlaces space me ps p.data
    let s := match owner.bind Owner.copyOf with
      | some k => ps.foldl (fun (s : State) (x : Page × Nat × Nat × Nat) => s.copyWrote k p.dsock x.2.1 x.2.2.2) s
      | none => s
    some ((s.answer p .ack false 0 []).didSeq p)
  | .atomic =>
    let n := if bitOf p.atom 4 then 8 else 4
    match ps with
    | (page, pa, va, _) :: _ =>
      match s.atomHere space va n page pa p.sys (p.atom % 16) p.uns (natLE (p.data.take n)) (natLE (p.data.drop n)) with
      | (some old, s) => some ((s.answer p .data conf 0 (bytesLE n old)).didSeq p)
      | (none, _) => none
    | [] => none
  | _ => match s.readPlaces space me ps with
    | (some bs, s) => some (s.answer p .data conf 0 bs)
    | (none, _) => none

/-- A request at its target die (R325): none while it waits for an absent page. A refused one has no effect at the target. -/
def State.attempt (s : State) (p : TwillPacket) : Option State :=
  let n := packetSpan p
  let e := (s.die p.dsock).export_ p.exp
  match exportFlaw e p n with
  | some c => some (s.refuse p c)
  | none =>
    let e := e.getD 0
    let space := p.dsock * 4096 + bits e 63 52
    let va := bits e 51 12 * 4096 + p.offset
    let k : Acc := match p.type with | .write => .write | .atomic => .atomic | _ => .read
    match s.targetCheck nakOf 6 space k (if p.type = .atomic then [(va, n)] else cutLines va n) with
    | (none, _) => none
    | (some (.error c), _) => some (s.refuse p c)
    | (some (.ok ps), s') => some ((s'.perform p space (bitOf e 4) ps).getD (s.refuse p 8))

/-- An earlier request of the same source die to the line waits: the target performs them in arrival order (R330). -/
def behind (kept : List TwillPacket) (p : TwillPacket) : Bool := kept.any fun q => q.spkg == p.spkg && q.ssock == p.ssock && sameLine q p

/-- The requests that wait at a die, in arrival order: those that nothing holds are performed (R325, R330, R338). -/
def State.servePass (s : State) (d : Nat) (ps kept : List TwillPacket) : State :=
  match ps with
  | [] => s.modDie d fun D => { D with waiting := kept }
  | p :: r =>
    if behind kept p || s.ordWaits p then s.servePass d r (kept ++ [p])
    else match s.attempt p with
      | none => s.servePass d r (kept ++ [p])
      | some s => s.servePass d r kept

/-- Passes over the waiting requests, until none of them releases another. -/
def State.serveAll (s : State) (d : Nat) : Nat → State
  | 0 => s
  | n + 1 =>
    let ps := (s.die d).waiting
    let s := s.servePass d ps []
    if (s.die d).waiting.length < ps.length then s.serveAll d n else s

/-- The requests that wait at a die go on where they can. -/
def State.serveWaiting (s : State) (d : Nat) : State := s.serveAll d ((s.die d).waiting.length + 1)

/-- A request reaches its target die (R325, R330, R338, R339). A die whose export table is not installed answers none: its source ends the request
(R343, R460). -/
def State.serve (s : State) (p : TwillPacket) : State :=
  let s := s.takePacket p
  if p.dpkg ≠ s.pkg ∨ !(s.die p.dsock).up ∨ (s.die p.dsock).func.base.get 0x12000 0 = 0 then s
  else if p.crypt = 3 then s.event 9 p.dsock p.tag
  else if !p.authentic then s.refuse p 9
  else (s.modDie p.dsock fun D => { D with waiting := D.waiting ++ [p] }).serveWaiting p.dsock

/-- TWILL_READ (R325). -/
def execTwillRead (p : TwillPacket) (s : State) : Out := .next (s.serve p)

/-- TWILL_WRITE (R325). -/
def execTwillWrite (p : TwillPacket) (s : State) : Out := .next (s.serve p)

/-- TWILL_ATOMIC (R325, R224). -/
def execTwillAtomic (p : TwillPacket) (s : State) : Out := .next (s.serve p)

/-! ### Answers (R329, R340) -/

/-- The request that an answer names: by its source die and tag, at that target. -/
def State.asked (s : State) (p : TwillPacket) : Option (Nat × Req) :=
  if p.dpkg ≠ s.pkg then none
  else s.reqs.find? fun (_, r) => r.sent && r.src == p.dsock && r.packet.tag == p.tag && r.packet.dpkg == p.spkg && r.packet.dsock == p.ssock

/-- Change the loads of a warp's paths, on its slots and its stack. -/
def Warp.modBoards (W : Warp) (g : Load → Load) : Warp :=
  let path (p : Path) : Path := { p with board := p.board.map g }
  { W with a := W.a.map path, b := W.b.map path, stack := W.stack.map fun x => match x with | .part p => .part (path p) | x => x }

/-- Scale bytes come for a path's VLDF, from this address on (R197); none for poison. -/
def Warp.scaleCame (W : Warp) (id lo : Nat) (v : Option (List Byte)) : Warp :=
  let path (p : Path) : Path := { p with scales := p.scales.map fun x => if x.req = some id then { x with req := none, val := (v.bind (·[x.addr - lo]?)).map (·.toNat) } else x }
  { W with a := W.a.map path, b := W.b.map path, stack := W.stack.map fun x => match x with | .part p => .part (path p) | x => x }

/-- A request has been answered: the party no longer counts it. -/
def State.closeReq (s : State) (id : Nat) (r : Req) : State :=
  let s := { (s.raceFar r).2 with reqs := s.reqs.del id }
  let forget (t w : Nat) : State := s.modWarp t w fun W => { W with writes := W.writes.filter (· != id), blockWrites := W.blockWrites.filter (· != id) }
  match r.owner with
  | .scalar t w => (forget t w).modWarp t w fun W => { W with wait := if W.wait = .remote id then .none else W.wait }
  | .lane t w _ => forget t w
  | _ => s

/-- The part's own access has its answer, none for a failure. A held team whose counter has reached its target is held no longer (R399). -/
def State.partCame (s : State) (j : Job) (x : Nat) (v : Option Nat) : State :=
  match j with
  | .counts => s
  | .held t => match (s.team t).held, v with
    | some (_, target), some v => if qwaitMet v target then s.unhold t else s
    | _, _ => s
  | _ => { s with jobs := s.jobs ++ [(j, x, v)] }

/-- Data, or poison, comes for a request (R329, R340). -/
def State.arrived (s : State) (id : Nat) (r : Req) (v : Option (List Byte)) : State :=
  match r.owner with
  | .scalar t w => s.modWarp t w fun W => { W with got := W.got ++ [(r.addr, v.map natLE)] }
  | .lane t w l => match v with
    | some bs => s.modWarp t w (·.modBoards fun x => if x.req = some id then { x with req := none, regs := loadRegs r.size r.vd (natLE ((bs.drop x.off).take (sizeOf' r.size))) } else x)
    | none => (s.laneDeath t w (r.lanes ||| maskOf [l]) 1).settle t
  | .copy k n =>
    if (s.copy k).state ≠ .active then s
    else match v with
      | some bs => (s.modCopy k fun c => { c with left := (n, n + 1) :: c.left }).copyPut k n ((s.copy k).piece n) (r.packet.crypt == 2) bs
      | none => s.failCopy k 10 r.addr
  | .scale t w _ x =>
    if w = 32 then s.modTeam t fun T => { T with scales := T.scales ++ [(x, v.map natLE)] } else s.modWarp t w (·.scaleCame id x v)
  | .copyScale k x =>
    if (s.copy k).state ≠ .active then s
    else match v with
      | some bs => s.modCopy k fun c => { c with scales := c.scales ++ [(x, some (natLE bs))] }
      | none => s.failCopy k 10 x
  | .macc t o n => s.modTeam t fun T => { T with mq := T.mq.map fun q => if q.id = o then { q with got := q.got ++ [(n, v.map natLE)] } else q }
  | .mdrain _ _ => s
  | .part j x => s.partCame j x (v.map natLE)

/-- A write has been lost (R340): logged, and counted for the team's bundle. A copy's fault address is its window address (R248, R324). -/
def State.lostWrite (s : State) (r : Req) : State :=
  let s := s.event 11 r.src r.packet.offset
  let s := match s.ownerTeam r.owner, r.owner.copyOf.bind fun k => (s.copy k).entry with
    | some t, _ => s.modTeam t fun T => { T with lost := T.lost + 1 }
    | none, some (b, _, _) => s.modBundle b fun B => { B with lostwr := B.lostwr + 1 }
    | none, none => s
  match r.owner.copyOf with
  | some k => if (s.copy k).state = .active then s.failCopy k 10 r.addr else s
  | none => s

/-- A request ends with a NAK (R340). -/
def State.naked (s : State) (id : Nat) (r : Req) : State :=
  let s := s.closeReq id r
  let s := if r.packet.type = .write then s.lostWrite r else s.arrived id r none
  let s := match r.owner with | .part j x => if r.packet.type == TwillType.write then s.partCame j x none else s | _ => s
  s.pump.releaseHeld

/-- An answer reaches the die that asked: `f` takes what it brings to the request it names. One with a reserved CRYPT is discarded and logged
(R337); one whose tag does not verify counts as a NAK (R339). -/
def State.answered (s : State) (p : TwillPacket) (f : Nat → Req → State → State) : Out :=
  let s := s.takePacket p
  if p.crypt = 3 then .next (s.event 9 p.dsock p.tag)
  else match s.asked p with
    | none => .next s
    | some (id, r) => .next (if p.authentic then f id r s else s.naked id r)

/-- TWILL_DATA (R329): it answers a read or an atomic. -/
def execTwillData (p : TwillPacket) (s : State) : Out :=
  s.answered p fun id r s =>
    if r.packet.type = .write then s
    else
      let s := if p.spkg = s.pkg ∧ p.ssock = r.src then s else s.traffic r.owner p.data.length
      ((s.closeReq id r).arrived id r (some p.data)).pump.releaseHeld

/-- TWILL_ACK (R329): it answers a write. -/
def execTwillAck (p : TwillPacket) (s : State) : Out :=
  s.answered p fun id r s =>
    if r.packet.type ≠ .write then s
    else
      let s := s.closeReq id r
      let s := match r.owner with
        | .copy k _ => if (s.copy k).state = CopyState.active then s.counted k r.packet.data.length else s
        | .part j x => s.partCame j x (some 0)
        | _ => s
      s.pump.releaseHeld

/-- TWILL_NAK (R340). -/
def execTwillNak (p : TwillPacket) (s : State) : Out := s.answered p fun id r s => s.naked id r

/-- TWILL_RESERVED_PACKET (R337): discarded and logged. -/
def execTwillReservedPacket (p : TwillPacket) (s : State) : Out := .next ((s.takePacket p).event 9 p.dsock p.tag)

/-- The event of a Twill packet (R337). -/
def packetEvent (p : TwillPacket) : State → Out :=
  match p.type with
  | .read => execTwillRead p
  | .write => execTwillWrite p
  | .atomic => execTwillAtomic p
  | .data => execTwillData p
  | .ack => execTwillAck p
  | .nak => execTwillNak p
  | .reserved => execTwillReservedPacket p

/-! ### Accesses served locally (R322) -/

/-- Requests of a die to itself, and their answers, are dealt with at once, in order: no link carries them. -/
def State.serveOwn (s : State) : Nat → State
  | 0 => s
  | n + 1 => match s.wires.find? fun p => p.dpkg == s.pkg && p.spkg == s.pkg && p.dsock == p.ssock with
    | none => s
    | some p => match packetEvent p s with
      | .next s' => s'.serveOwn n
      | _ => s

/-- All of them: every request takes its packet and its answer, and may release another. -/
def State.serveLocal (s : State) : State := s.serveOwn (2 * s.wires.length + 2 * s.reqs.length)

/-- One lane's access acts before a higher lane's: where it is served locally, at once (R211, R228, R322). -/
def State.laneServed (s : State) (space : Nat) (c : Chk) : State :=
  match c with
  | .remote e => if s.ownDie space e then s.serveLocal else s
  | _ => s

/-- The stores of the lanes of one instruction (R201): those of lanes on one line of a peer go as one transaction (R176). Where some lanes store to
local memory, those served by the own die keep their place among them (R211). -/
def State.storeLanes (s : State) (f : LaneWord) (k : Nat) (t w : Nat) (cs : List (Nat × Nat × Chk)) : State :=
  let sp := (s.team t).space
  let isHere (c : Chk) : Bool := match c with | .local _ _ => true | _ => false
  let mixed := cs.any fun x => isHere x.2.2
  let own (e : Nat) : Bool := mixed && s.ownDie sp e
  let s := cs.foldl (fun s (l, x, c) => match c with
    | .remote e => if own e then (storeLine f k 0 [] t w s [(l, x, e)]).laneServed sp c else s
    | _ => storeLane f k t w l x c s) s
  ((byLine 32 ((remoteOf cs).filter fun x => !own x.2.2)).foldl (storeLine f k 0 [] t w) s).wroteLines (sizeOf' k) (sp / 4096) cs

/-- VST (R201). -/
def execVst (f : LaneWord) (s : State) : Out :=
  let k := bits f.sub.toNat 2 0
  laneGlobal f (regs1 true f.va ++ dataRegs k f.vd.toNat) (sizeOf' k) .write (fun W l => W.gaddr f l) (fun t w _ cs s => s.storeLanes f k t w cs) s

/-- The frame of VATOM, VRED and VCAS (R228): sub[5] selects the scratchpad. -/
def laneAtom (f : LaneWord) (op : Nat) (ret cas : Bool) (s : State) : Out :=
  let wd := Lane.wide f.ty
  let n := if wd then 8 else 4
  let reads := regsB f wd ++ (if cas then regsC f wd else [])
  if f.sub.getLsbD 5 then laneScratch f (f.va.toNat :: reads) n .atomic (atomScratch f op ret (atomArgs f cas)) s
  else laneGlobal f (regs1 true f.va ++ reads) n .atomic (fun W l => W.gaddr f l)
    (fun t w b cs s => cs.foldl (fun s (l, x, c) => (atomLane f op ret (atomArgs f cas) 0 [] t w b l x c s).laneServed (s.team t).space c) s) s

/-- VATOM (R228). -/
def execVatom (f : LaneWord) (s : State) : Out := laneAtom f (bits f.sub.toNat 3 0) true false s

/-- VRED (R228). -/
def execVred (f : LaneWord) (s : State) : Out := laneAtom f (bits f.sub.toNat 3 0) false false s

/-- VCAS (R228). -/
def execVcas (f : LaneWord) (s : State) : Out := laneAtom f 11 true true s

/-! ### Links, ports and keys (R339, R341 to R343) -/

/-- Packets are turned back (R341): requests to their sources, which resend them in their order, with SEQ and TAG unchanged, by another way or when
there is one; answers take another way from the die that made them (R342). -/
def State.resend (s : State) (back : List TwillPacket) : State :=
  let request (p : TwillPacket) : Bool := match p.type with | .read | .write | .atomic => true | _ => false
  let s := { s with reqs := s.reqs.each fun _ r => if r.sent && back.contains r.packet then { r with sent := false } else r }
  ((back.filter fun p => !request p).foldl (fun s p => s.emitBack { p with via := none }) s).pump

/-- Packets on a failed link are turned back (R341). -/
def State.turnBack (s : State) (a b : Nat) : State :=
  let on (p : TwillPacket) (z : Nat) : Bool := (packetLinks p z).any fun (y : Nat × Nat) => y == (a, b) || y == (b, a)
  let wire (p : TwillPacket) : Bool := on p p.dsock
  let out (x : Nat × TwillPacket) : Bool := on x.2 (portSocket x.1)
  { s with wires := s.wires.filter fun p => !wire p, outward := s.outward.filter fun x => !out x }.resend
    (s.wires.filter wire ++ (s.outward.filter out).map Prod.snd)

/-- A link between two sockets is declared failed (R341, R342). -/
def State.linkLost (s : State) (a b : Nat) : State :=
  if !s.linkUp a b then s
  else (State.event { s with failed := s.failed ++ [(a, b)], draining := s.draining.filter fun x => x != (a, b) && x != (b, a), retries := s.retries.del (linkKey a b) }
    8 a b).turnBack a b

/-- UCIE_LINK_FAILURE (R341, R342): a link that has stopped training. -/
def execUcieLinkFailure (a b : Nat) (s : State) : Out := .next (s.linkLost a b)

/-- LINK_REPAIR (R342): new traffic takes the link once the detoured packets have been acknowledged. -/
def execLinkRepair (a b : Nat) (s : State) : Out :=
  let s := { s with
    failed := s.failed.filter fun x => x != (a, b) && x != (b, a)
    draining := if s.linkUp a b then s.draining else s.draining ++ [(a, b), (b, a)]
    lost := s.lost.filter fun k => k != lostKey a s.pkg b && k != lostKey b s.pkg a }
  .next s.pump

/-- A Twill port is declared failed (R341): what is queued for it takes another path whose route is up (R342). -/
def State.twillLost (s : State) (port : Nat) : State :=
  if s.ports.contains port then s
  else (State.event { s with ports := setIns port s.ports, egress := s.egress.del port, outward := s.outward.filter (·.1 != port), retries := s.retries.del port }
    8 (portSocket port) port).resend (s.egress.get port [] ++ (s.outward.filter (·.1 == port)).map Prod.snd)

/-- TWILL_PORT_FAILURE (R341, R342): a port that has stopped training. -/
def execTwillPortFailure (port : Nat) (s : State) : Out := .next (s.twillLost port)

/-- A request has waited 100 microseconds without a route, or its target was lost before (R343). -/
def State.routeLost (s : State) (id : Nat) : Bool :=
  match s.reqs.find id with
  | none => false
  | some r =>
    !r.sent && !s.holds id r && (s.lost.contains (lostKey r.src r.packet.dpkg r.packet.dsock) ||
      (match r.noRoute with | some t => decide (s.now ≥ t + Config.usCycles 100) && (s.routeOf r).isNone | none => false))

/-- ROUTE_LOST_TIMEOUT (R343): the source ends the request with a NAK of cause LOST; where it has a number, that counts as performed (R338, R340). -/
def execRouteLostTimeout (req : Nat) (s : State) : Out :=
  if !s.routeLost req then .next s
  else match s.reqs.find req with
    | none => .next s
    | some r =>
      let k := lostKey r.src r.packet.dpkg r.packet.dsock
      let s := if r.numbered ∧ r.packet.dpkg = s.pkg then s.didSeq r.packet else s
      .next (State.naked { s with lost := setIns k s.lost } req r)

/-- KEY_INSTALLATION (R339): the Monel controller installs the keys of a partition and a peer package, and sets which virtual channels
are integrity-only. -/
def execKeyInstallation (part peer : Nat) (vcIntegrity : BitVec 8) (s : State) : Out :=
  .next { s with
    keys := if s.keys.contains (part, peer) then s.keys else s.keys ++ [(part, peer)]
    integrity := (List.range 8).filter fun i => vcIntegrity.getLsbD i }

/-- LINK_LEVEL_RETRY (R290, R341): the link, numbered as in State.retries, resends a flit or packet that failed its check. The sixteenth retry in a
row declares a port lost or a link failed. -/
def execLinkLevelRetry (link : Nat) (s : State) : Out :=
  let n := s.retries.get link 0 + 1
  if n < 16 then .next { s with retries := s.retries.ins link n }
  else if link < 32 then .next (s.twillLost link)
  else if link < 64 then .next (if s.gports.contains (link - 32) then s else s.portLost (link - 32))
  else .next (s.linkLost ((link - 64) / 8) ((link - 64) % 8))

end Sys2Proof.Machine
end

