-- ==== Sys2Proof/Machine/Network.lean ====
section
/-! DEFINITION. The NET family, the Calico engines, and frames (R347 to R369). -/

namespace Sys2Proof.Machine

/-! ### Queues, peers, keys (R347 to R349, R451) -/

/-- The key of a queue's counters. -/
def netqKey (d asid q : Nat) : Nat := d * 2 ^ 22 + asid * 2 ^ 10 + q

def State.netq (s : State) (d asid q : Nat) : NetQ := s.netqs.get (netqKey d asid q) {}
def State.modNetq (s : State) (d asid q : Nat) (f : NetQ → NetQ) : State :=
  { s with netqs := s.netqs.ins (netqKey d asid q) (f (s.netq d asid q)) }

/-- A valid queue entry (R347). -/
def Die.netqValid (D : Die) (asid q : Nat) : Option Nat :=
  match D.netqEntry asid q with
  | some e => if bits e 101 100 = 0 ∨ bits e 101 100 = 3 ∨ bits e 131 116 ≠ 0 ∨ bits e 99 0 ≠ 0 then none else some e
  | none => none

/-- KIND, IOD, PORT, SPRAY of a queue entry. -/
def qKind (e : Nat) : Nat := bits e 101 100
def qIod (e : Nat) : Nat := bits e 102 102

/-- A valid peer entry (R347). -/
def Die.peerValid (D : Die) (asid i : Nat) : Option Nat :=
  let w := D.asidWord asid 0x10
  if !bitOf w 63 || i > bits w 55 40 then none
  else
    let e := D.tableNum (bits w 39 12 * 4096 + 32 * i) 4
    if !bitOf e 0 || bits e 43 1 ≠ 0 || (!bitOf e 46 && bits e 255 160 ≠ 0) then none else some e

/-- Calico partition identifier of an address space (R348, R451). -/
def Die.calicoId (D : Die) (asid : Nat) : Nat := D.asidWord asid 0x18 % 2 ^ 16

/-- The completion record of a queue takes its counters (R349): none while its page is absent, or while a peer has not acknowledged the record before;
a failing check leaves it as it is (DEDUCED, log entry 25). -/
def State.putRecord (s : State) (d asid q : Nat) (Q : NetQ) : Option State :=
  match (s.die d).netqValid asid q with
  | none => some (s.modNetq d asid q fun _ => Q)
  | some e =>
    let va := bits e 255 204 / 16 * 16
    let sp := d * 4096 + asid
    let free := !(s.reqs.any fun (_, r) => r.owner == .part .counts va)
    match s.partStore .counts sp va (bytesLE 16 (Q.counted % 2 ^ 64 + Q.failed % 2 ^ 32 * 2 ^ 64 + Q.cause * 2 ^ 96)) with
    | (some _, s) => some (s.modNetq d asid q fun _ => Q)
    | (none, s') => if free && s'.reqs.any fun (_, r) => r.owner == .part .counts va then some (s'.modNetq d asid q fun _ => Q) else none

/-! ### Operations at their sender (R350, R351, R358 to R360) -/

/-- Causes of a local check (R359). -/
def netCause (code : Nat) : Nat := match code / 256 with | 1 => 1 | 4 => 3 | 5 => 4 | _ => 2

/-- Length of an operation's data: NPUT and NGET as named, NATOM 4 or 8 bytes, NSEND its frame. -/
def NetOp.len (o : NetOp) : Nat :=
  match o.kind with
  | 3 => bits o.d1.toNat 15 0
  | 2 => if bitOf o.d2.toNat 4 then 8 else 4
  | _ => bits o.d2.toNat 31 0

/-- Packets of an operation (R351). -/
def NetOp.packets (o : NetOp) : Nat := if o.kind ≥ 2 then 1 else (o.len + 4095) / 4096

def NetOp.space (o : NetOp) : Nat := o.die * 4096 + o.asid % 4096

/-- The descriptor breaks a limit (R357, R359). -/
def NetOp.bad (o : NetOp) : Bool :=
  let d1 := o.d1.toNat
  let d2 := o.d2.toNat
  (match o.kind with
   | 3 => d1 / 2 ^ 16 != 0 || d2 != 0 || decide (o.len < 14) || decide (o.len > 9216)
   | 2 => decide (o.d0.toNat ≥ 2 ^ 52) || o.d0.toNat % 8 != 0 || bits d2 31 5 != 0 || bits d2 63 48 != 0 || decide (d2 % 16 > 8)
   | _ => decide (o.d0.toNat ≥ 2 ^ 52) || bits d2 63 48 != 0 || decide (o.len < 1) || decide (o.len > 1048576)) ||
  (o.kind != 2 && o.d3 != 0)

/-- Operations of one address space's queue, in issue order. -/
def State.queueOps (s : State) (d asid q : Nat) : List (Nat × NetOp) :=
  s.netops.filter fun (_, o) => o.die == d && o.asid == asid && o.queue == q

def State.modOp (s : State) (k : Nat) (f : NetOp → NetOp) : State := { s with netops := s.netops.mod k f }

/-- Free bytes at the places of a failed operation's destination (R359). -/
def State.smear (s : State) (space : Nat) : List (Nat × Nat) → State
  | [] => s
  | (va, n) :: r => match s.checkNow space va 1 .write with
    | (.local page pa, s) =>
      let (bs, s) := s.drawBytes n
      (s.store space va page pa bs).smear space r
    | (_, s) => s.smear space r

/-- An operation is finished: it failed with a cause, or cause 0. -/
def State.endOp (s : State) (k cause : Nat) : State :=
  match s.netops.find k with
  | none => s
  | some o =>
    let s := s.modOp k fun o => { o with done := true, cause := cause, pkts := [], due := [] }
    if cause ≠ 0 ∧ (o.kind = 1 ∨ o.kind = 2) ∧ o.len ≤ 1048576 then s.smear o.space (cutLines o.d0.toNat (if o.kind = 2 then 8 else o.len)) else s

/-- DONE of a queue counts finished operations in issue order (R360), at most `n` of them. -/
def State.countOps (s : State) (d asid q : Nat) : Nat → State
  | 0 => s
  | n + 1 => match s.queueOps d asid q with
    | (k, o) :: _ =>
      if !o.done then s
      else
        let Q := s.netq d asid q
        let Q := if o.cause = 0 then { Q with counted := Q.counted + 1 } else { Q with counted := Q.counted + 1, failed := Q.failed + 1, cause := o.cause }
        match s.putRecord d asid q Q with
        | some s => State.countOps { s with netops := s.netops.del k } d asid q n
        | none => s
    | [] => s

/-- Local bytes of an operation: none while a page is absent, else the cause or the bytes (R239, R350, R359). -/
def State.localBytes (s : State) (o : NetOp) (va n : Nat) : Option (Except Nat (List Byte)) × State :=
  match s.targetCheck netCause 2 o.space .read (cutLines va n) with
  | (none, s) => (none, s)
  | (some (.error c), s) => (some (.error c), s)
  | (some (.ok ps), s) =>
    if ps.any fun (p, _, _, _) => p.c then (some (.error 2), s)
    else match s.readPlaces o.space none ps with
      | (some bs, s) => (some (.ok bs), s)
      | (none, s) => (some (.error 5), s)

/-- OP of an operation's requests (R350). -/
def NetOp.code (o : NetOp) : Nat := match o.kind with | 0 => 1 | 1 => 2 | _ => 4

/-- The header of packet n of an operation (R350) (DEDUCED, log entry 25). -/
def State.netPacket (s : State) (o : NetOp) (n peer : Nat) (payload : List Byte) : CalicoPacket :=
  { part := (s.die o.die).calicoId o.asid, key := bits o.d1.toNat 47 32, kgen := bits o.d2.toNat 47 32, opid := o.opid,
    src := s.pkg * 16 + o.grp * 8, mlen := o.len, poff := 4096 * n, roff := bits o.d1.toNat 31 0,
    atom := if o.kind = 2 then o.d2.toNat % 32 else 0, dsock := bits peer 45 44, payload := payload }

/-- The payload of packet n: source bytes of NPUT, operand and compare value of NATOM. -/
def State.netPayload (s : State) (o : NetOp) (n : Nat) : Option (Except Nat (List Byte)) × State :=
  match o.kind with
  | 0 => s.localBytes o (o.d0.toNat + 4096 * n) (min 4096 (o.len - 4096 * n))
  | 2 =>
    if o.d2.toNat % 16 = 8 then
      match s.localBytes o o.d0.toNat 8 with
      | (some (.ok bs), s) => (some (.ok (bytesLE 8 o.d3.toNat ++ bs)), s)
      | x => x
    else (some (.ok (bytesLE 8 o.d3.toNat)), s)
  | _ => (some (.ok []), s)

/-- The timeout before the copy after copy number c (R351). -/
def rtoCycles (e c : Nat) : Nat := Config.usCycles (min (4 * 2 ^ (bits e 115 112 + c)) 262144)

/-- The 16-bit one's complement sum of big-endian words. -/
def onesSum (bs : List Byte) : Nat :=
  let t := ((List.range ((bs.length + 1) / 2)).map fun i => (bs.getD (2 * i) 0).toNat * 256 + (bs.getD (2 * i + 1) 0).toNat).sum
  if t = 0 then 0 else (t - 1) % 65535 + 1

/-- A number in `n` bytes, most significant first. -/
def bytesBE (n x : Nat) : List Byte := (bytesLE n x).reverse

/-- A Calico packet as bytes (R350). -/
def calicoBytes (op : Nat) (p : CalicoPacket) : List Byte :=
  bytesBE 32 (2 ^ 252 + op % 16 * 2 ^ 248 + p.ncause % 2 ^ 8 * 2 ^ 240 + p.part % 2 ^ 16 * 2 ^ 224 + p.key % 2 ^ 16 * 2 ^ 208 + p.kgen % 2 ^ 16 * 2 ^ 192 +
    p.opid % 2 ^ 32 * 2 ^ 160 + p.src % 2 ^ 16 * 2 ^ 144 + p.mlen % 2 ^ 32 * 2 ^ 112 + p.poff % 2 ^ 32 * 2 ^ 80 + p.roff % 2 ^ 32 * 2 ^ 48 +
    p.payload.length % 2 ^ 16 * 2 ^ 32 + p.atom % 2 ^ 8 * 2 ^ 24 + p.dsock % 4 * 2 ^ 16) ++ p.payload

/-- The field of a port group in the identity block (R449). -/
def State.groupField (s : State) (g off n : Nat) : Nat := natLE (rdBytes s.ident (0x100 + 0x100 * g + off) n)

/-- A group's own address of a family, and the MAC address of one of its ports (R449). -/
def State.ownAddr (s : State) (g : Nat) (ip6 : Bool) : Nat := s.groupField g (if ip6 then 0 else 0x10) (if ip6 then 16 else 4)
def State.portMac (s : State) (g k : Nat) : Nat := s.groupField g (0x18 + 8 * k) 6

/-- A UDP datagram between two addresses and ports, with its checksum (R350, R449). -/
def datagram (ip6 : Bool) (src addr sport dport : Nat) (body : List Byte) : List Byte :=
  let n := if ip6 then 16 else 4
  let len := 8 + body.length
  let head (sum : Nat) : List Byte := bytesBE 2 sport ++ bytesBE 2 dport ++ bytesBE 2 len ++ bytesBE 2 sum
  let sum := 65535 - onesSum (bytesBE n src ++ bytesBE n addr ++ bytesBE 4 (17 * 2 ^ 16 + len) ++ head 0 ++ body)
  head (if sum = 0 then 65535 else sum) ++ body

/-- A frame as the port sends it: padded to 60 bytes with `pad`, with its FCS (R358). -/
def sentFrame (bs pad : List Byte) : List Byte := bs ++ pad ++ bytesLE 4 (crc32 ((bs ++ pad).map (·.toNat)))

/-- Send one packet of an operation: the first copy is formed now, later ones repeat it (R350, R351). The copy number counts to 15, the range that
R350 gives the source ports, while BUSY answers go on (DEDUCED, log entry 25). -/
def State.sendPacket (s : State) (k n : Nat) : State :=
  match s.netops.find k with
  | none => s
  | some o =>
    let e := ((s.die o.die).netqEntry o.asid o.queue).getD 0
    let peer := o.peer
    let ip6 := bitOf peer 46
    let c := o.sent.get n 0
    let go (p : CalicoPacket) (s : State) : State :=
      let q := min c 15
      let port := if bitOf e 103 then (bits e 105 104 + n + q) % 4 else bits e 105 104
      let sport := if bitOf e 103 then 0xC000 + 16 * (n + q) + port else 0xC000
      let dgram := datagram ip6 p.addr (bits peer (if ip6 then 255 else 159) 128) sport (bits peer 79 64) (calicoBytes o.code p)
      (s.send (.calico o.grp port o.code sport peer (s.portMac o.grp port) p dgram)).modOp k fun o =>
        { o with sent := o.sent.ins n (c + 1), due := o.due.ins n (s.now + rtoCycles e c), pkts := o.pkts.ins n p }
    match o.pkts.find n with
    | some p => go p s
    | none => match s.netPayload o n with
      | (none, s) => s.modOp k fun o => { o with due := o.due.ins n s.now }
      | (some (.error c), s) => s.endOp k c
      | (some (.ok bs), s) => go { s.netPacket o n peer bs with ip6 := ip6, addr := s.ownAddr o.grp ip6 } s

/-- An operation starts (R351, R358, R359). -/
def State.startOp (s : State) (k : Nat) : State :=
  match s.netops.find k with
  | none => s
  | some o =>
    let D := s.die o.die
    let e := (D.netqEntry o.asid o.queue).getD 0
    let peer := D.peerValid o.asid (bits o.d1.toNat 63 48)
    let s := s.modOp k fun o => { o with started := true, peer := peer.getD 0 }
    if qKind e ≠ 1 ∨ o.bad ∨ (o.kind ≠ 3 ∧ peer.isNone) then s.endOp k 6
    else if o.kind = 3 then
      match s.localBytes o o.d0.toNat o.len with
      | (none, s) => s.modOp k fun o => { o with started := false }
      | (some (.error c), s) => s.endOp k c
      | (some (.ok bs), s) =>
        let (pad, s) := s.drawBytes (60 - o.len)
        s.send (.frame o.grp (bits e 105 104) (sentFrame bs pad))
    else if !s.pkgValid then s.endOp k 7
    else (List.range o.packets).foldl (fun s n => match s.netops.find k with
      | some o => if o.done then s else s.sendPacket k n
      | none => s) s

/-- An operation may start: those before it in its queue have started, a marker before it is done, and its stream's earlier operations
are complete (R360, R363). -/
def State.opReady (s : State) (k : Nat) (o : NetOp) : Bool :=
  !o.started && !o.done && !o.after.any s.pending &&
  ((s.queueOps o.die o.asid o.queue).takeWhile fun x => x.1 != k).all fun (_, p) => p.done || (p.started && p.kind != 5)

/-- Start what may start, mark what NCHAIN waits for, and count, for an address space; at most `n` rounds. -/
def State.netPump (s : State) (d asid : Nat) : Nat → State
  | 0 => s
  | n + 1 =>
    let mine := s.netops.filter fun (_, o) => o.die == d && o.asid == asid
    let s := mine.foldl (fun s (k, o) =>
      if o.kind = 5 then
        if !o.done && decide ((s.netq d asid o.watch).counted ≥ o.target) then s.modOp k fun o => { o with started := true, done := true } else s
      else match s.netops.find k with
        | some o => if s.opReady k o then s.startOp k else s
        | none => s) s
    let s := (Map.keys mine).foldl (fun s k => match s.netops.find k with
      | some o => s.countOps d asid o.queue (mine.length)
      | none => s) s
    if (s.netops.filter fun (_, o) => o.die == d && o.asid == asid) == mine then s else s.netPump d asid n

/-- Run the queues of an address space to where they must wait. -/
def State.netRun (s : State) (d asid : Nat) : State := s.netPump d asid (2 * s.netops.length + 2)

/-! ### The NET family (R357 to R367) -/

/-- Operations that come before an asynchronous operation in its issuer's program order (R233). -/
def State.netIssue (s : State) (o : NetOp) : State :=
  let (k, s) := s.fresh
  let G := s.group o.grp
  let s := s.modGroup o.grp fun G => { G with opid := (G.opid + 1) % 2 ^ 32 }
  State.netRun { s with netops := s.netops.ins k { o with opid := G.opid } } o.die o.asid

/-- Operations of a queue not counted yet. -/
def State.queued (s : State) (d asid q : Nat) : Nat := (s.queueOps d asid q).length

/-- NPUT, NGET, NATOM and NSEND (R358 to R360). -/
def netInstr (kind : Nat) (d a b : Reg) (s : State) : Out :=
  warpOnly [d, a, b] (b.toNat :: descRegs a) s <|
    match s.cur.ids with
    | none => .fault .noIssuer
    | some (t, w) =>
      let T := s.team t
      let q := (s.reg b).toNat % 1024
      match (s.die T.origin).netqValid T.asid q with
      | none => .next (s.result d 0)
      | some e =>
        if s.queued T.origin T.asid q ≥ 256 then stay s
        else match s.accept T.origin T.asid s.tag t with
        | (none, s) => .next s
        | (some after, s) =>
          let n := (s.netq T.origin T.asid q).counted + s.queued T.origin T.asid q + 1
          let ds := s.desc a
          let o : NetOp :=
            { kind := kind, die := T.origin, asid := T.asid, queue := q, team := some t, tag := s.tag, d0 := ds.getD 0 0, d1 := ds.getD 1 0,
              d2 := ds.getD 2 0, d3 := ds.getD 3 0, grp := qIod e, after := after ++ (s.warp t w).writes }
          .next ((s.result d (BitVec.ofNat 64 n)).netIssue o)

/-- NPUT (R358). -/
def execNput (d a b : Reg) (s : State) : Out := netInstr 0 d a b s

/-- NGET (R358). -/
def execNget (d a b : Reg) (s : State) : Out := netInstr 1 d a b s

/-- NATOM (R358). -/
def execNatom (d a b : Reg) (s : State) : Out := netInstr 2 d a b s

/-- NSEND (R358). -/
def execNsend (d a b : Reg) (s : State) : Out := netInstr 3 d a b s

/-- Message records that name a key are freed when it changes (R354); one not complete is logged. -/
def State.dropRecords (s : State) (d key : Nat) : State :=
  [0, 1].foldl (fun s g =>
    let gone := (s.group g).msgs.filter fun m => m.die == d && m.key == key
    let s := s.modGroup g fun G => { G with msgs := G.msgs.filter fun m => !(m.die == d && m.key == key) }
    gone.foldl (fun s m => if m.complete then s else s.eventOpen (4 + g) m.opid) s) s

/-- NKEY (R361, R362) (DEDUCED, log entry 25), a release at S scope: it waits for the warp's remote writes. A descriptor bit that must be zero and is not leaves free values in the entry and the result (R5, R357). -/
def execNkey (d a : Reg) (s : State) : Out :=
  warpOnly [d, a] (descRegs a) s <|
    let T := s.team s.me
    let D := s.die T.origin
    let ds := s.desc a
    let d1 := (ds.getD 1 0).toNat
    let d2 := (ds.getD 2 0).toNat
    let k := bits d1 47 32
    let r := D.asidWord T.asid 0x20
    if !s.ownWrites.isEmpty then stay s
    else if !bitOf r 63 || k < bits r 15 0 || k > bits r 15 0 + bits r 47 32 then .next (s.result d (~~~0))
    else
      let g := ((D.keys.get k {}).gen + 1) % 65536
      let e : Key := { v := bitOf d2 0, r := bitOf d2 1, w := bitOf d2 2, atom := bitOf d2 3, asid := T.asid, base := (ds.getD 0 0).toNat, len := bits d1 31 0 + 1, nq := bits d2 25 16, gen := g }
      let broken := d1 / 2 ^ 48 != 0 || bits d2 15 4 != 0 || d2 / 2 ^ 26 != 0 || (ds.getD 3 0) != 0
      let (x, s) := if broken then s.draw 128 else (0, s)
      let e : Key := if broken then
        { e with v := bitOf x 0, r := bitOf x 1, w := bitOf x 2, atom := bitOf x 3, base := bits x 55 4, len := bits x 87 56 + 1, nq := bits x 97 88, gen := bits x 113 98 } else e
      let g := e.gen
      .next (((s.modDie T.origin fun D => { D with keys := D.keys.ins k e }).dropRecords T.origin k).result d (BitVec.ofNat 64 g))

/-- NCHAIN (R363) (DEDUCED, log entry 25). -/
def execNchain (d a b : Reg) (s : State) : Out :=
  warpOnly [d, a, b] [a.toNat, b.toNat] s <|
    let T := s.team s.me
    let D := s.die T.origin
    let q := (s.reg a).toNat % 1024
    let wq := bits (s.reg a).toNat 25 16
    let send (q : Nat) : Bool := match D.netqValid T.asid q with | some e => qKind e == 1 | none => false
    if !send q || !send wq then .next (s.result d 0)
    else
      let n := (s.netq T.origin T.asid q).counted + s.queued T.origin T.asid q + 1
      let o : NetOp := { kind := 5, die := T.origin, asid := T.asid, queue := q, team := some s.me, watch := wq, target := (s.reg b).toNat }
      .next ((s.result d (BitVec.ofNat 64 n)).netIssue o)

/-- NPOLL (R360): DONE; 0 for an invalid entry (R359). -/
def execNpoll (d a : Reg) (s : State) : Out :=
  warpOnly [d, a] [a.toNat] s <|
    let T := s.team s.me
    let q := (s.reg a).toNat % 1024
    .next (s.result d (match (s.die T.origin).netqValid T.asid q with
      | some _ => BitVec.ofNat 64 (s.netq T.origin T.asid q).counted
      | none => 0))

/-- NRXPOP (R367). -/
def execNrxpop (d a b : Reg) (s : State) : Out :=
  warpOnly [d, a, b] [a.toNat, b.toNat] s <|
    let T := s.team s.me
    let q := (s.reg a).toNat % 1024
    match (s.die T.origin).netqValid T.asid q with
    | none => .next (s.result d (~~~0))
    | some e =>
      if qKind e ≠ 2 then .next (s.result d (~~~0))
      else
        let Q := s.netq T.origin T.asid q
        let Q := { Q with released := min Q.popped (Q.released + (s.reg b).toNat % 2 ^ 16) }
        let slot := Q.popped % (bits e 163 148 + 1)
        if Q.delivered > Q.popped then
          .next ((s.modNetq T.origin T.asid q fun _ => { Q with popped := Q.popped + 1 }).result d
            (BitVec.ofNat 64 (bits e 203 164 * 4096 + slot * (2048 * 2 ^ bits e 107 106))))
        else .next ((s.modNetq T.origin T.asid q fun _ => Q).result d 0)

/-! ### Requests at their target (R352 to R356) -/

/-- An answer to a packet: back to its sender's address, by the group's port 0 and to the Calico port that the group itself has, under the partition
identifier of the address space that the key belongs to (R348) (DEDUCED, log entry 25). -/
def State.calicoAnswer (s : State) (g op : Nat) (p : CalicoPacket) (cause : Nat) (bs : List Byte) : State :=
  let D := s.die p.dsock
  let r : CalicoPacket :=
    { ncause := cause, part := D.calicoId (D.keys.get p.key {}).asid, key := p.key, kgen := p.kgen, opid := p.opid, src := s.pkg * 16 + g * 8, mlen := p.mlen, poff := p.poff, roff := p.roff, dsock := 0,
      ip6 := p.ip6, addr := s.ownAddr g p.ip6, payload := bs }
  s.send (.calico g 0 op 0xC000 0 (s.portMac g 0) r (datagram p.ip6 r.addr p.addr 0xC000 (s.groupField g 0x14 2) (calicoBytes op r)))

/-- Bytes that a request reads or writes: a READ asks for its packet of the message. -/
def calicoLen (op : Nat) (p : CalicoPacket) : Nat :=
  if op = 2 then min 4096 (p.mlen - p.poff) else if op = 4 then (if bitOf p.atom 4 then 8 else 4) else p.payload.length

/-- The checks of a key in the order of R352: the NAK cause. -/
def keyFlaw (D : Die) (op : Nat) (p : CalicoPacket) : Option Nat :=
  let k := D.keys.get p.key {}
  if !k.v then some 1
  else if p.part ≠ D.calicoId k.asid then some 3
  else if p.kgen ≠ k.gen then some 2
  else if !(if op = 1 then k.w else if op = 2 then k.r else k.atom) then some 4
  else if p.roff + p.poff + (if op = 2 then calicoLen op p else p.payload.length) > k.len then some 5
  else none

/-- A packet that must wait for a page stays with its group; one that is done with leaves it. -/
def State.holdPacket (s : State) (g op : Nat) (p : CalicoPacket) : State :=
  s.modGroup g fun G => if G.held.contains (op, p) then G else { G with held := G.held ++ [(op, p)] }
def State.freePacket (s : State) (g op : Nat) (p : CalicoPacket) : State := s.modGroup g fun G => { G with held := G.held.erase (op, p) }

/-- Discard and count (R350, R364). -/
def State.dropCount (s : State) (g : Nat) : State := s.modGroup g fun G => { G with drops := G.drops + 1 }

/-- The frame of a request at its target: the checks, then `f` at the checked places; a refused one has no effect (R352) (DEDUCED, log entry 25). -/
def calicoServe (op g : Nat) (p : CalicoPacket) (f : Key → List (Page × Nat × Nat × Nat) → State → Option (Except Nat State)) (s : State) : Out :=
  if !p.sound then .next ((s.freePacket g op p).dropCount g)
  else
    let D := s.die p.dsock
    match keyFlaw D op p with
    | some c => .next ((s.freePacket g op p).calicoAnswer g 7 p c [])
    | none =>
      let k := D.keys.get p.key {}
      let sp := p.dsock * 4096 + k.asid
      let va := k.base + p.roff + p.poff
      let n := calicoLen op p
      let acc : Acc := if op = 1 then .write else if op = 2 then .read else .atomic
      match s.targetCheck nakOf 6 sp acc (if op = 4 then [(va, n)] else if n = 0 then [] else cutLines va n) with
      | (none, _) => .next (s.holdPacket g op p)
      | (some (.error c), _) => .next ((s.freePacket g op p).calicoAnswer g 7 p c [])
      | (some (.ok ps), s') => match f k ps s' with
        | some (.ok s) => .next (s.freePacket g op p)
        | some (.error c) => .next ((s.freePacket g op p).calicoAnswer g 7 p c [])
        | none => .next (s.holdPacket g op p)

/-- DONE of a notify queue advances (R353): none while the record's page is absent. -/
def State.notify (s : State) (d asid q : Nat) : Option State :=
  let Q := s.netq d asid q
  (s.putRecord d asid q { Q with counted := Q.counted + 1 }).map fun s => s.netRun d asid

/-- A message record takes a packet of its message (R353, R354): a duplicate is counted once, and keeps an incomplete record from ageing. -/
def MsgRec.take (m : MsgRec) (p : CalicoPacket) (now : Nat) : MsgRec :=
  if m.got.contains p.poff then { m with at_ := if m.complete then m.at_ else now }
  else
    let n := m.count + p.payload.length
    { m with got := setIns p.poff m.got, count := n, at_ := if m.complete then m.at_ else now, complete := m.complete || (!m.late && decide (n ≥ m.mlen)) }

/-- CALICO_WRITE (R352 to R354). -/
def execCalicoWrite (grp : Nat) (p : CalicoPacket) (s : State) : Out :=
  calicoServe 1 grp p (fun k ps s =>
    let G := s.group grp
    let sp := p.dsock * 4096 + k.asid
    let same (m : MsgRec) : Bool := m.src == p.src && m.opid == p.opid
    let id := (p.src, p.opid, p.key * 65536 + p.kgen)
    let old := (G.msgs.find? same).getD { src := p.src, opid := p.opid, die := p.dsock, key := p.key, mlen := p.mlen, late := G.past.contains id }
    if !G.msgs.any same && decide (G.msgs.length ≥ 8192) then some (.error 9)
    else
      let m := old.take p s.now
      let full := m.complete && !old.complete
      let s := if old.got.contains p.poff then s else s.writePlaces sp none ps p.payload
      let s := s.modGroup grp fun G => { G with msgs := m :: G.msgs.filter fun m => !same m, past := if full then id :: G.past else G.past }
      (if full then s.notify p.dsock k.asid k.nq else some s).map fun s => .ok (s.calicoAnswer grp 6 p 0 [])) s

/-- CALICO_READ (R352). -/
def execCalicoRead (grp : Nat) (p : CalicoPacket) (s : State) : Out :=
  calicoServe 2 grp p (fun k ps s => match s.readPlaces (p.dsock * 4096 + k.asid) none ps with
    | (some bs, s) => some (.ok (s.calicoAnswer grp 3 p 0 bs))
    | (none, _) => some (.error 8)) s

/-- The result cache takes an atomic's result, in place of the oldest of 4,096 (R356). -/
def Group.cache (G : Group) (a : AtomRes) : Group :=
  { G with atoms := (if G.atoms.length ≥ 4096 then G.atoms.drop 1 else G.atoms) ++ [a] }

/-- CALICO_ATOMIC (R356): a duplicate that passes the checks is answered from the result cache. -/
def execCalicoAtomic (grp : Nat) (p : CalicoPacket) (s : State) : Out :=
  let G := s.group grp
  calicoServe 4 grp p (fun k ps s =>
    match G.atoms.find? fun a => a.src == p.src && a.opid == p.opid with
    | some a => some (.ok (s.calicoAnswer grp 5 p 0 (bytesLE 8 a.value)))
    | none =>
      let n := if bitOf p.atom 4 then 8 else 4
      let young := decide (G.atoms.length ≥ 4096) && (match G.atoms with | a :: _ => decide (s.now < a.at_ + Config.usCycles 1000) | [] => false)
      if young then some (.error 9)
      else match ps with
      | (page, pa, va, _) :: _ =>
        let (u, s) := if p.atom % 16 = 5 ∨ p.atom % 16 = 6 then s.choose 2 else (0, s)
        let op := if p.atom % 16 = 8 then 11 else p.atom % 16
        match s.atomHere (p.dsock * 4096 + k.asid) va n page pa true op (u = 1) (natLE (p.payload.take 8) % 2 ^ (8 * n)) (natLE (p.payload.drop 8) % 2 ^ (8 * n)) with
        | (some old, s) => some (.ok ((s.modGroup grp (·.cache { src := p.src, opid := p.opid, value := old, at_ := s.now })).calicoAnswer grp 5 p 0 (bytesLE 8 old)))
        | (none, _) => some (.error 8)
      | [] => some (.ok s)) s

/-! ### Answers at the sender (R351, R352, R355) -/

/-- The started operation of an engine under an OPID. -/
def State.opOf (s : State) (g opid : Nat) : Option (Nat × NetOp) := s.netops.find? fun (_, o) => o.grp == g && o.opid == opid && o.started && !o.done

/-- Packet n is acknowledged; with the last one the operation completes. -/
def State.ackPacket (s : State) (k : Nat) (o : NetOp) (n : Nat) : State :=
  let a := setIns n o.acked
  let s := s.modOp k fun o => { o with acked := a, due := o.due.del n, pkts := o.pkts.del n }
  (if a.length ≥ o.packets then s.endOp k 0 else s).netRun o.die o.asid

/-- CALICO_ACK (R351). -/
def execCalicoAck (grp : Nat) (p : CalicoPacket) (s : State) : Out :=
  if !p.sound then .next (s.dropCount grp)
  else match s.opOf grp p.opid with
  | some (k, o) => .next (if o.kind = 0 ∧ p.poff / 4096 < o.packets then s.ackPacket k o (p.poff / 4096) else s)
  | none => .next s

/-- Data of a remote read or atomic goes to its place: `va` and bytes, then packet n is acknowledged. -/
def State.netLanding (s : State) (g op k : Nat) (o : NetOp) (p : CalicoPacket) (va n : Nat) (bs : List Byte) : State :=
  match s.targetCheck netCause 2 o.space .write (if bs.isEmpty then [] else cutLines va bs.length) with
  | (none, s) => s.holdPacket g op p
  | (some (.error c), s) => ((s.freePacket g op p).endOp k c).netRun o.die o.asid
  | (some (.ok ps), s) =>
    let s := s.freePacket g op p
    if ps.any fun (q, _, _, _) => q.c then (s.endOp k 2).netRun o.die o.asid
    else (s.writePlaces o.space none ps bs).ackPacket k o n

/-- CALICO_DATA (R351, R358): one packet of an NGET. -/
def execCalicoData (grp : Nat) (p : CalicoPacket) (s : State) : Out :=
  if !p.sound then .next (s.dropCount grp)
  else match s.opOf grp p.opid with
  | some (k, o) =>
    let n := p.poff / 4096
    if o.kind ≠ 1 ∨ n ≥ o.packets ∨ o.acked.contains n then .next (s.freePacket grp 3 p)
    else .next (s.netLanding grp 3 k o p (o.d0.toNat + 4096 * n) n (p.payload.take (min 4096 (o.len - 4096 * n))))
  | none => .next (s.freePacket grp 3 p)

/-- CALICO_ATOMRESP (R356, R358): the old value, zero-extended. -/
def execCalicoAtomresp (grp : Nat) (p : CalicoPacket) (s : State) : Out :=
  if !p.sound then .next (s.dropCount grp)
  else match s.opOf grp p.opid with
  | some (k, o) =>
    if o.kind ≠ 2 then .next (s.freePacket grp 5 p) else .next (s.netLanding grp 5 k o p o.d0.toNat 0 (bytesLE 8 (natLE (p.payload.take 8))))
  | none => .next (s.freePacket grp 5 p)

/-- A timeout of packet n: it is sent again, or the operation is lost (R351); BUSY does not count towards RETRY (R355). -/
def State.timeout (s : State) (k : Nat) (o : NetOp) (n : Nat) (counts : Bool) : State :=
  let e := ((s.die o.die).netqEntry o.asid o.queue).getD 0
  let c := o.tries.get n 0
  if counts && decide (c ≥ bits e 111 108) then (s.endOp k 7).netRun o.die o.asid
  else (s.modOp k fun o => { o with tries := if counts then o.tries.ins n (c + 1) else o.tries }).sendPacket k n

/-- CALICO_NAK (R352, R355, R359). -/
def execCalicoNak (grp : Nat) (p : CalicoPacket) (s : State) : Out :=
  if !p.sound then .next (s.dropCount grp)
  else match s.opOf grp p.opid with
  | some (k, o) =>
    let n := p.poff / 4096
    if n ≥ o.packets ∨ o.acked.contains n then .next s
    else if p.ncause = 9 then .next (s.timeout k o n false)
    else if p.ncause = 2 ∧ o.sent.get n 0 > 1 then .next (s.ackPacket k o n)
    else .next ((s.endOp k (16 + p.ncause)).netRun o.die o.asid)
  | none => .next s

/-- CALICO_BAD_PACKET (R350). -/
def execCalicoBadPacket (grp : Nat) (_p : CalicoPacket) (s : State) : Out := .next (s.dropCount grp)

/-- CALICO_RETRANSMIT_TIMEOUT (R351): packet n of an operation is due. A packet that has waited for its source page, and an operation
that has waited for its stream, go out when they can. -/
def execCalicoRetransmitTimeout (grp opid n : Nat) (s : State) : Out :=
  match s.netops.find? fun (_, o) => o.grp == grp && o.opid == opid with
  | none => .next s
  | some (k, o) =>
    if o.done || !o.started then .next (s.netRun o.die o.asid)
    else if o.acked.contains n ∨ n ≥ o.packets ∨ o.kind = 3 then .next s
    else if o.sent.get n 0 = 0 then .next (s.sendPacket k n)
    else if s.now < o.due.get n 0 then .next s
    else .next (s.timeout k o n true)

/-- MESSAGE_RECORD_RELEASE (R354): 1 ms after its message completed. -/
def execMessageRecordRelease (grp src opid : Nat) (s : State) : Out :=
  .next (s.modGroup grp fun G => { G with msgs := G.msgs.filter fun m => !(m.src == src && m.opid == opid && m.complete && decide (s.now ≥ m.at_ + Config.usCycles 1000)) })

/-- MESSAGE_RECORD_AGE_OUT (R354): no packet for 1 s; the message never completes, and an event is logged. -/
def execMessageRecordAgeOut (grp src opid : Nat) (s : State) : Out :=
  let old (m : MsgRec) : Bool := m.src == src && m.opid == opid && !m.complete && decide (s.now ≥ m.at_ + Config.usCycles 1000000)
  if (s.group grp).msgs.any old then .next ((s.modGroup grp fun G => { G with msgs := G.msgs.filter fun m => !old m }).eventOpen (4 + grp) opid)
  else .next s

/-- FRAME_SENT (R358): a raw frame has been sent (DEDUCED, log entry 25). -/
def execFrameSent (grp opid : Nat) (s : State) : Out :=
  match s.opOf grp opid with
  | some (k, o) => .next (if o.kind = 3 then (s.endOp k 0).netRun o.die o.asid else s)
  | none => .next s

/-! ### Frames (R364 to R366) -/

/-- Big-endian number of `n` bytes at `i`. -/
def beAt (bs : List Byte) (i n : Nat) : Nat := ((bs.drop i).take n).foldl (fun a b => a * 256 + b.toNat) 0

/-- VLAN identifier of the outer 802.1Q tag, EtherType after the tags, and where the payload begins; at most `n` tags. -/
def etherTypeAt (bs : List Byte) (i : Nat) : Nat → Nat × Nat
  | 0 => (beAt bs i 2, i + 2)
  | n + 1 => if beAt bs i 2 = 0x8100 ∨ beAt bs i 2 = 0x88A8 then etherTypeAt bs (i + 4) n else (beAt bs i 2, i + 2)

def frameVid (bs : List Byte) : Nat := if beAt bs 12 2 = 0x8100 then beAt bs 14 2 % 4096 else 0

/-- IP protocol, where the transport header begins, for an IP frame. -/
def frameIp (bs : List Byte) : Option (Nat × Nat) :=
  let (ty, i) := etherTypeAt bs 12 4
  if ty = 0x0800 then some (beAt bs (i + 9) 1, i + 4 * (beAt bs i 1 % 16))
  else if ty = 0x86DD then some (beAt bs (i + 6) 1, i + 40)
  else none

/-- A filter entry matches a frame (R365). -/
def filterMatches (e : Nat) (bs : List Byte) : Bool :=
  let ip := frameIp bs
  bitOf e 149 && bits e 155 150 == 0 && bits e 143 130 == 0 && bits e 105 0 == 0 &&
  (!bitOf e 148 || bits e 255 208 == beAt bs 0 6) &&
  (!bitOf e 147 || bits e 207 196 == frameVid bs) &&
  (!bitOf e 146 || bits e 195 180 == (etherTypeAt bs 12 4).1) &&
  (!bitOf e 145 || (match ip with | some (p, _) => bits e 179 172 == p | none => false)) &&
  (!bitOf e 144 || (match ip with | some (p, i) => (p == 6 || p == 17) && bits e 171 156 == beAt bs (i + 2) 2 | none => false))

/-- The UDP payload of a frame addressed to the group's Calico port, whether its checksum holds, and its sender's family and address (R350,
R449). -/
def State.calicoFrame (s : State) (g : Nat) (bs : List Byte) : Option (List Byte × Bool × Bool × Nat) :=
  let (ty, i) := etherTypeAt bs 12 4
  let fam := s.groupField g 0x16 2
  let v4 := ty == 0x0800 && bitOf fam 0 && beAt bs i 1 == 0x45 && beAt bs (i + 6) 2 % 0x4000 == 0 && beAt bs (i + 9) 1 == 17 && beAt bs (i + 16) 4 == s.groupField g 0x10 4
  let v6 := ty == 0x86DD && bitOf fam 1 && beAt bs (i + 6) 1 == 17 && beAt bs (i + 24) 16 == s.groupField g 0 16
  let u := if v4 then i + 20 else i + 40
  let len := beAt bs (u + 4) 2
  if (v4 || v6) && beAt bs (u + 2) 2 == s.groupField g 0x14 2 then
    let pseudo : List Byte := (if v4 then (bs.drop (i + 12)).take 8 else (bs.drop (i + 8)).take 32) ++ [0, 17, BitVec.ofNat 8 (len / 256), BitVec.ofNat 8 len]
    some ((bs.drop (u + 8)).take (len - 8), beAt bs (u + 6) 2 != 0 && onesSum (pseudo ++ (bs.drop u).take len) == 65535, v6, if v6 then beAt bs (i + 8) 16 else beAt bs (i + 12) 4)
  else none

/-- A Calico packet from its bytes (R350): its OP, and none where VER or OP is not one of the table's. -/
def parseCalico (bs : List Byte) (ok : Bool) : Option (Nat × CalicoPacket) :=
  let h := beAt bs 0 32
  let op := bits h 251 248
  if !ok || bits h 255 252 ≠ 1 || op = 0 || op > 7 || bs.length < 32 then none
  else some (op,
    { ncause := bits h 247 240, part := bits h 239 224, key := bits h 223 208, kgen := bits h 207 192, opid := bits h 191 160,
      src := bits h 159 144, mlen := bits h 143 112, poff := bits h 111 80, roff := bits h 79 48, atom := bits h 31 24, dsock := bits h 17 16,
      payload := (bs.drop 32).take (bits h 47 32) })

/-- A packet goes to the engine by its OP. -/
def calicoPacket (g op : Nat) (p : CalicoPacket) (s : State) : Out :=
  match op with
  | 1 => execCalicoWrite g p s
  | 2 => execCalicoRead g p s
  | 3 => execCalicoData g p s
  | 4 => execCalicoAtomic g p s
  | 5 => execCalicoAtomresp g p s
  | 6 => execCalicoAck g p s
  | _ => execCalicoNak g p s

/-- The filter that takes a frame: the lowest that matches and names a receive queue of its I/O die (R364). -/
def State.filterFor (s : State) (g : Nat) (bs : List Byte) : Option (Nat × Nat) :=
  (s.group g).filters.find? fun (_, e) => filterMatches e bs &&
    (match (s.die (bits e 129 128)).netqValid (bits e 127 116) (bits e 115 106) with
     | some q => qKind q == 2 && qIod q == g
     | none => false)

/-- The record of a delivery (R366). -/
def frameRecord (f : EthFrame) (filter size : Nat) : List Byte :=
  let room := size - 16
  let n := f.bytes.length
  bytesLE 16 (f.time % 10 ^ 9 + f.time / 10 ^ 9 % 2 ^ 48 * 2 ^ 32 + n % 2 ^ 16 * 2 ^ 80 + (f.iod * 4 + f.port) * 2 ^ 96 + filter * 2 ^ 104 + (if n > room then 2 ^ 112 else 0)) ++
  f.bytes.take room

/-- The stream of a receive queue holds its slot, which it has while the queue is enabled, and its earlier operations are complete (R230 to
R232). -/
def State.rxReady (s : State) (d asid tag : Nat) : Bool × State :=
  if tag = 0 then (true, s)
  else
    let s := s.freeSlots d
    ((s.die d).slots.contains (asid * 65536 + tag) && (s.boundOps d asid tag).isEmpty, s)

/-- A frame joins those that wait, behind frames with an earlier stamp, and with the same stamp behind those of lower ports (R366). -/
def insFrame (x : EthFrame × Nat × Nat) : List (EthFrame × Nat × Nat) → List (EthFrame × Nat × Nat)
  | [] => [x]
  | y :: r => if x.1.time = y.1.time ∧ x.1.port < y.1.port then x :: y :: r else y :: insFrame x r

/-- A frame waits with its group (DEDUCED, log entry 25). -/
def State.holdFrame (s : State) (x : EthFrame × Nat × Nat) : State :=
  s.modGroup x.1.iod fun G => if G.frames.contains x then G else { G with frames := insFrame x G.frames }
def State.freeFrame (s : State) (f : EthFrame) : State := s.modGroup f.iod fun G => { G with frames := G.frames.filter fun x => x.1 != f }

/-- No frame that comes later has the stamp of this one (R366). -/
def State.stampPast (s : State) (f : EthFrame) : Bool := decide (f.time < s.ptp + (s.now + 1) * 4 / 7)

/-- The delivery of a frame into a receive queue (R366): none while it must wait. -/
def State.deliverFrame (s : State) (f : EthFrame) (fi e : Nat) : Option State × State :=
  let d := bits e 129 128
  let asid := bits e 127 116
  let q := bits e 115 106
  let qe := ((s.die d).netqEntry asid q).getD 0
  let Q := s.netq d asid q
  let size := 2048 * 2 ^ bits qe 107 106
  if Q.delivered - Q.released > bits qe 163 148 then (some (s.dropCount f.iod), s)
  else match s.rxReady d asid (bits qe 147 132) with
    | (false, s) => (none, s)
    | (true, s) =>
      let rec_ := frameRecord f fi size
      let va := bits qe 203 164 * 4096 + Q.delivered % (bits qe 163 148 + 1) * size
      match s.targetCheck id 0 (d * 4096 + asid) .write (cutLines va rec_.length) with
      | (none, s) => (none, s)
      | (some (.error _), s) => (some (s.dropCount f.iod), s)
      | (some (.ok ps), s) =>
        ((s.writePlaces (d * 4096 + asid) none ps rec_).putRecord d asid q { Q with delivered := Q.delivered + 1, counted := Q.counted + 1 }, s)

/-- A frame that a filter has taken is delivered, unless an earlier one waits, or one with its stamp may still come (R366). -/
def State.frameOn (s : State) (x : EthFrame × Nat × Nat) : State :=
  if !s.stampPast x.1 || (match (s.group x.1.iod).frames with | h :: _ => h != x | [] => false) then s.holdFrame x
  else match s.deliverFrame x.1 x.2.1 x.2.2 with
    | (some s, _) => s.freeFrame x.1
    | (none, s) => s.holdFrame x

/-- FRAME_RECEIVE (R364 to R366): the port stamps the frame from the clock of R28, and the filters as they stand then take it; one that must wait stays
with its group, those behind it in order. -/
def execFrameReceive (f : EthFrame) (s : State) : Out :=
  let g := f.iod
  match (s.group g).frames.find? fun x => x.1 == f with
  | some x => .next (s.frameOn x)
  | none =>
    let f := { f with time := s.ptpNs }
    if !f.fcsOk then .next (s.dropCount g)
    else match s.calicoFrame g f.bytes with
    | some (bs, ok, ip6, addr) => match parseCalico bs ok with
      | some (op, p) => calicoPacket g op { p with ip6 := ip6, addr := addr } s
      | none => .next (s.dropCount g)
    | none => match s.filterFor g f.bytes with
      | none => .next (s.dropCount g)
      | some (fi, e) => .next (s.frameOn (f, fi, e))

end Sys2Proof.Machine
end

