-- ==== Sys2Proof/Machine/Digest.lean ====
section
/-! DEFINITION. SHA-384 (R457, R459), which the manual names and does not restate: FIPS 180-4 (PRESUMED, log entry 13). -/

namespace Sys2Proof.Machine

/-- The sum of 64-bit words. -/
def sha384Add (l : List Nat) : Nat := l.sum % 2 ^ 64

/-- A 64-bit word rotated right by 1 to 63. -/
def rotr64 (x n : Nat) : Nat := x >>> n ||| x <<< (64 - n) % 2 ^ 64

/-- The round constants: the first 64 bits of the fractional parts of the cube roots of the first 80 primes. -/
def sha384K : List Nat :=
  [0x428a2f98d728ae22, 0x7137449123ef65cd, 0xb5c0fbcfec4d3b2f, 0xe9b5dba58189dbbc, 0x3956c25bf348b538,
   0x59f111f1b605d019, 0x923f82a4af194f9b, 0xab1c5ed5da6d8118, 0xd807aa98a3030242, 0x12835b0145706fbe,
   0x243185be4ee4b28c, 0x550c7dc3d5ffb4e2, 0x72be5d74f27b896f, 0x80deb1fe3b1696b1, 0x9bdc06a725c71235,
   0xc19bf174cf692694, 0xe49b69c19ef14ad2, 0xefbe4786384f25e3, 0x0fc19dc68b8cd5b5, 0x240ca1cc77ac9c65] ++
  [0x2de92c6f592b0275, 0x4a7484aa6ea6e483, 0x5cb0a9dcbd41fbd4, 0x76f988da831153b5, 0x983e5152ee66dfab,
   0xa831c66d2db43210, 0xb00327c898fb213f, 0xbf597fc7beef0ee4, 0xc6e00bf33da88fc2, 0xd5a79147930aa725,
   0x06ca6351e003826f, 0x142929670a0e6e70, 0x27b70a8546d22ffc, 0x2e1b21385c26c926, 0x4d2c6dfc5ac42aed,
   0x53380d139d95b3df, 0x650a73548baf63de, 0x766a0abb3c77b2a8, 0x81c2c92e47edaee6, 0x92722c851482353b] ++
  [0xa2bfe8a14cf10364, 0xa81a664bbc423001, 0xc24b8b70d0f89791, 0xc76c51a30654be30, 0xd192e819d6ef5218,
   0xd69906245565a910, 0xf40e35855771202a, 0x106aa07032bbd1b8, 0x19a4c116b8d2d0c8, 0x1e376c085141ab53,
   0x2748774cdf8eeb99, 0x34b0bcb5e19b48a8, 0x391c0cb3c5c95a63, 0x4ed8aa4ae3418acb, 0x5b9cca4f7763e373,
   0x682e6ff3d6b2b8a3, 0x748f82ee5defb2fc, 0x78a5636f43172f60, 0x84c87814a1f0ab72, 0x8cc702081a6439ec] ++
  [0x90befffa23631e28, 0xa4506cebde82bde9, 0xbef9a3f7b2c67915, 0xc67178f2e372532b, 0xca273eceea26619c,
   0xd186b8c721c0c207, 0xeada7dd6cde0eb1e, 0xf57d4f7fee6ed178, 0x06f067aa72176fba, 0x0a637dc5a2c898a6,
   0x113f9804bef90dae, 0x1b710b35131c471b, 0x28db77f523047d84, 0x32caab7b40c72493, 0x3c9ebe0a15c9bebc,
   0x431d67c49c100d4c, 0x4cc5d4becb3e42b6, 0x597f299cfc657e2a, 0x5fcb6fab3ad6faec, 0x6c44198c4a475817]

/-- The initial hash value: those of the square roots of the ninth to the sixteenth prime. -/
def sha384Init : List Nat :=
  [0xcbbb9d5dc1059ed8, 0x629a292a367cd507, 0x9159015a3070dd17, 0x152fecd8f70e5939, 0x67332667ffc00b31,
   0x8eb44a8768581511, 0xdb0c2e0d64f98fa7, 0x47b5481dbefa4fa4]

/-- The next word of the message schedule, from the sixteen before it, oldest first. -/
def sha384Word (w : List Nat) : Nat :=
  let a := w.getD 1 0
  let b := w.getD 14 0
  sha384Add [w.getD 0 0, rotr64 a 1 ^^^ rotr64 a 8 ^^^ a >>> 7, w.getD 9 0, rotr64 b 19 ^^^ rotr64 b 61 ^^^ b >>> 6]

/-- One round for each constant, with the working variables a to h and the sixteen words from the round's own on. -/
def sha384Rounds : List Nat → List Nat → List Nat → List Nat
  | [], v, _ => v
  | k :: ks, [a, b, c, d, e, f, g, h], w =>
    let t := sha384Add [h, rotr64 e 14 ^^^ rotr64 e 18 ^^^ rotr64 e 41, e &&& f ^^^ (2 ^ 64 - 1 - e) &&& g, k, w.getD 0 0]
    let u := (rotr64 a 28 ^^^ rotr64 a 34 ^^^ rotr64 a 39) + (a &&& b ^^^ a &&& c ^^^ b &&& c)
    sha384Rounds ks [sha384Add [t, u], a, b, c, sha384Add [d, t], e, f, g] (w.drop 1 ++ [sha384Word w])
  | _, v, _ => v

/-- The hash value after one block of sixteen words. -/
def sha384Block (h w : List Nat) : List Nat := (h.zip (sha384Rounds sha384K h w)).map fun (a, b) => sha384Add [a, b]

/-- Bytes as a number, the first the most significant. -/
def natBE (bs : List Byte) : Nat := bs.foldl (fun x b => 256 * x + b.toNat) 0

/-- Blocks of 128 bytes in order, at most `n` of them. -/
def sha384Run : Nat → List Nat → List Byte → List Nat
  | 0, h, _ => h
  | n + 1, h, bs =>
    if bs.isEmpty then h else sha384Run n (sha384Block h ((List.range 16).map fun i => natBE ((bs.drop (8 * i)).take 8))) (bs.drop 128)

/-- The SHA-384 digest of a message: 48 bytes. -/
def sha384 (m : List Byte) : List Byte :=
  let n := m.length
  let bs := m ++ [0x80] ++ List.replicate ((239 - n % 128) % 128) 0 ++ bytesBE 16 (8 * n)
  ((sha384Run (n / 128 + 2) sha384Init bs).take 6).flatMap (bytesBE 8)

end Sys2Proof.Machine
end

