-- ==== Sys2Proof/Machine/Launch.lean ====
section
/-! DEFINITION. Queues and bundles (R370 to R395), the LAUNCH family (R396 to R401), migration, and firmware (R402 to R404). -/

namespace Sys2Proof.Machine

/-! ### Queue state blocks (R370, R373) -/

/-- A QSB as a 512-bit number. -/
def Die.qsb (D : Die) (q : Nat) : Nat := D.tableNum q 8
def qTail (x : Nat) : Nat := bits x 31 0
def qHead (x : Nat) : Nat := bits x 63 32
def qRbase (x : Nat) : Nat := bits x 115 64
def qAsid (x : Nat) : Nat := bits x 127 116
/-- NREC + 1. -/
def qSlots (x : Nat) : Nat := bits x 143 128 + 1
def qPrio (x : Nat) : Nat := bits x 151 144
def qStag (x : Nat) : Nat := bits x 167 152
def qShare (x : Nat) : Nat := bits x 175 168
def qChild (x : Nat) : Bool := bitOf x 176
def qMigrate (x : Nat) : Bool := bitOf x 177
def qEnable (x : Nat) : Bool := bitOf x 178
def qPmgr (x : Nat) : Bool := bitOf x 179
/-- Records that the queue holds (R371). -/
def qHeld (x : Nat) : Nat := (qTail x + 2 ^ 32 - qHead x) % 2 ^ 32
/-- The queue has work (R379). -/
def qWork (x : Nat) : Bool := qEnable x && qHeld x != 0
/-- VA of record k (R371). -/
def qSlotVa (x k : Nat) : Nat := qRbase x + 512 * (k % qSlots x)

/-- An entry of the registration table that counts: the QSB's address and the partition. -/
def regEntry (e : Nat) : Option (Nat × Nat) :=
  if bitOf e 0 && bits e 63 40 == 0 && decide (bits e 39 6 * 64 < Config.physBytes) then some (bits e 39 6 * 64, bits e 5 1) else none

/-- The partition under which a QSB is registered: the first valid entry that holds it, of `n` entries from entry `i` on. -/
def Die.regFrom (D : Die) (q : Nat) : Nat → Nat → Option Nat
  | 0, _ => none
  | n + 1, i => match regEntry (D.tableWord (D.func.base.get 0x11000 0 + 8 * i)) with
    | some (a, p) => if a = q then some p else D.regFrom q n (i + 1)
    | none => D.regFrom q n (i + 1)

/-- Registration of a QSB (R373): none before the host has set the table's base (R460). -/
def Die.registration (D : Die) (q : Nat) : Option Nat := if D.func.base.get 0x11000 0 = 0 then none else D.regFrom q (min 8192 (D.func.base.get 0x11008 0)) 0

/-- The registered QSBs with their partitions; an address counts once. -/
def Die.registered (D : Die) : List (Nat × Nat) :=
  if D.func.base.get 0x11000 0 = 0 then []
  else ((List.range (min 8192 (D.func.base.get 0x11008 0))).filterMap fun i => regEntry (D.tableWord (D.func.base.get 0x11000 0 + 8 * i))).foldl
    (fun l (a, p) => if l.any fun x => x.1 == a then l else l ++ [(a, p)]) []

/-- Every registered QSB has its entry among the die's queues, so that a write to its state block is seen (R372); an entry that is no longer
registered stays only while it is mapped. -/
def State.noteQueues (s : State) (d : Nat) : State :=
  s.modDie d fun D =>
    let rs := D.registered.map (·.1)
    { D with queues := rs.foldl (fun m q => if (m.find q).isSome then m else m.ins q {}) (D.queues.filter fun (q, Q) => Q.mapped || rs.contains q) }

def State.queue (s : State) (d q : Nat) : Queue := (s.die d).queues.get q {}
def State.setQueue (s : State) (d q : Nat) (f : Queue → Queue) : State :=
  s.modDie d fun D => { D with queues := D.queues.ins q (f (D.queues.get q {})) }

/-- Write tracking sees a write of TAIL (R378), and an unmapped queue that gets work starts to age (R380) (DEDUCED, log entry 31). -/
def State.trackTail (s : State) (d q : Nat) : State :=
  let work := qWork ((s.die d).qsb q)
  let now := s.now
  (s.modDie d fun D => if D.fifo.length < 1024 then { D with fifo := D.fifo ++ [q] } else { D with overflow := true }).setQueue d q fun Q =>
    if Q.mapped then Q else { Q with since := if work then some (Q.since.getD now) else none }

/-! ### Bundle records (R374 to R377) -/

/-- A virtual address field that is canonical and aligned. -/
def vaOk (x align : Nat) : Bool := decide (x < 2 ^ 52) && x % align == 0

/-- A partition word that keeps R23. -/
def partOk (p : Nat) : Bool := decide (storeOf p ≤ Config.storeKiB) && decide (1 ≤ bits p 7 0) && bits p 31 21 == 0

/-- Words 7 to 9 of a descriptor: zero without DEP, else maps (R375). -/
def mapsOk (ws : List Nat) : Bool :=
  (List.range 3).all fun i =>
    let m := ws.getD (7 + i) 0
    if bits (ws.getD 0 0) 4 2 = 0 then m == 0 else decide (m < 2 ^ 48) && decide (1 ≤ bits m 47 32)

/-- A team sub-launch descriptor (R375). -/
def teamSubOk (ws : List Nat) : Bool :=
  let w (i : Nat) : Nat := ws.getD i 0
  bits (w 0) 63 48 == 0 && partOk (bits (w 0) 47 16) && decide (1 ≤ bits (w 0) 15 8) && decide (bits (w 0) 15 8 ≤ 32) && bits (w 0) 7 5 == 0 &&
  vaOk (w 1) 4 && vaOk (w 2) 4 && vaOk (w 3) 4096 && decide (w 5 < 2 ^ 48) && bits (w 5) 15 0 != 0 && bits (w 5) 31 16 != 0 && bits (w 5) 47 32 != 0 &&
  vaOk (w 6) 8 && mapsOk ws && ((ws.drop 10).all (· == 0))

/-- A copy sub-launch descriptor (R376). -/
def copySubOk (ws : List Nat) : Bool :=
  let w (i : Nat) : Nat := ws.getD i 0
  bits (w 0) 63 5 == 0 && vaOk (w 1) 8 && decide (1 ≤ w 2) && decide (w 2 ≤ 65536) && w 3 == 0 && w 4 == 0 && w 5 == 0 && vaOk (w 6) 8 && mapsOk ws &&
  ((ws.drop 10).all (· == 0))

/-- The 14 words of descriptor j of a record. -/
def subWords (w : List Nat) (j : Nat) : List Nat := (w.drop (8 + 14 * j)).take 14

/-- COMPL is 0 or names an aligned record (R374, R377). -/
def complOk (x : Nat) : Bool := vaOk x 32

/-- The record itself keeps R374 to R376, R23 and the rules of R377 on PMGR and DEP. -/
def recordOk (w : List Nat) (pmgr : Bool) : Bool :=
  let h := w.getD 0 0
  let n := bits h 2 0
  let sub (j : Nat) : List Nat := subWords w j
  decide (1 ≤ n) && decide (n ≤ 4) && bits h 7 3 == 0 && bits h 63 12 == 0 && complOk (w.getD 1 0) && ((List.range 5).all fun i => w.getD (3 + i) 0 == 0) &&
  (!bitOf h 10 || pmgr) &&
  (List.range 4).all fun j =>
    let ws := sub j
    if j ≥ n then ws.all (· == 0)
    else
      let dep := bits (ws.getD 0 0) 4 2
      (match bits (ws.getD 0 0) 1 0 with | 0 => teamSubOk ws | 1 => copySubOk ws | _ => false) &&
      (dep == 0 || (decide (dep ≤ j) && (sub (dep - 1)).getD 6 0 != 0))

/-- A copy entry that keeps R376. -/
def entryOk (e : List Nat) : Bool :=
  let f := e.getD 0 0
  decide (f < 64) && [0, 1, 3, 4, 5].contains (f % 16) && (!bitOf f 5 || f % 16 == 5) && e.getD 4 0 % 8 == 0

/-- Addresses of a record's words, and of a copy sub-launch's DLIST. -/
def recordVas (va : Nat) : List Nat := (List.range 64).map fun i => va + 8 * i
def dlistVas (ws : List Nat) : List Nat :=
  if bits (ws.getD 0 0) 1 0 = 1 then (List.range (5 * ws.getD 2 0)).map fun i => ws.getD 1 0 + 8 * i else []

/-- The DLISTs of a sound record, one after the other. -/
def dlistsVas (w : List Nat) : List Nat := (List.range (bits (w.getD 0 0) 2 0)).flatMap fun j => dlistVas (subWords w j)

/-- Entries of five words. -/
def fives : Nat → List Nat → List (List Nat)
  | 0, _ => []
  | n + 1, l => l.take 5 :: fives n (l.drop 5)

/-- The entries of each sub-launch, from the words of the DLISTs. -/
def entriesOf (w : List Nat) : Nat → Nat → List Nat → List (List (List Nat))
  | 0, _, _ => []
  | n + 1, j, l =>
    let k := (dlistVas (subWords w j)).length
    fives (k / 5) (l.take k) :: entriesOf w n (j + 1) (l.drop k)

/-- The sub-launches of a sound record. -/
def subsOf (w : List Nat) (ls : List Nat) : List Sub :=
  let n := bits (w.getD 0 0) 2 0
  let es := entriesOf w n 0 ls
  (List.range n).map fun j =>
    let ws := subWords w j
    let copy := bits (ws.getD 0 0) 1 0 == 1
    let dl := es.getD j []
    { copy := copy, dep := bits (ws.getD 0 0) 4 2, bitmap := ws.getD 6 0, grid := ws.getD 5 0, maps := (ws.drop 7).take 3, words := ws, dl := dl,
      left := List.range dl.length }

/-! ### Retirement (R391, R392, R399) -/

/-- The Bronze core tests the counters of held teams of a die (R399); the answer for a counter of another die tests it when it comes. -/
def State.testHeld (s : State) (d : Nat) : State :=
  if ((s.die d).fw.get 0 {}).restarting then s
  else (Map.keys (s.teams.filter fun (_, T) => T.phase == .away && T.die == d && T.held.isSome)).foldl (fun s t =>
    match (s.team t).held with
    | none => s
    | some (x, target) => match s.partLoad (.held t) (s.team t).space x.toNat with
      | (some (some v), s) => if qwaitMet v target then s.unhold t else s
      | (_, s) => s) s

/-- Write part of a QSB as the die's own hardware does (R392, R395, R397). -/
def State.qsbPut (s : State) (d q off : Nat) (bs : List Byte) : State := s.wrFree d (q + off) bs

/-- Retired bundles are counted in record order (R392), at most `n` of them. -/
def State.countBundles (s : State) (d q : Nat) : Nat → State
  | 0 => s
  | n + 1 =>
    let x := (s.die d).qsb q
    match s.bundles.find? fun (_, B) => B.die == d && B.qsb == q && B.index == qHead x && B.status.isSome with
    | none => s
    | some (b, B) =>
      let s := s.qsbPut d q 4 (bytesLE 4 (qHead x + 1))
      let s := s.qsbPut d q 40 (bytesLE 8 (bits x 383 320 + 1))
      let s := if B.status = some 0 then s else s.qsbPut d q 48 (bytesLE 4 (bits x 415 384 + 1))
      State.countBundles { s with bundles := s.bundles.del b } d q n

/-- The completion record (R377, R391): 32 bytes as words. -/
def Bundle.record (B : Bundle) (status : Nat) : List Nat :=
  [status, B.lostlanes % 2 ^ 32 + B.lostwr % 2 ^ 32 * 2 ^ 32, B.halted % 2 ^ 32 + B.notrun % 2 ^ 32 * 2 ^ 32, B.user]

/-- STATUS (R377, R391). -/
def Bundle.code (B : Bundle) : Nat := if B.bad then 2 else if B.halted ≠ 0 then 1 else if B.copyfail then 3 else 0

/-- The part writes bundle `b`'s completion record: none while its page is absent or a peer has not acknowledged it; a failing check skips it (R391). -/
def State.putCompletion (s : State) (b : Nat) (B : Bundle) : Option Unit × State :=
  if B.compl = 0 then (some (), s)
  else match s.partStore (.record b) (B.die * 4096 + B.asid) B.compl ((B.record B.code).flatMap (bytesLE 8)) with
    | (none, s) => (none, s)
    | (some none, s) => (some (), (s.jobDone (.record b)).eventOpen B.die B.compl)
    | (some (some _), s) => (some (), s.jobDone (.record b))

/-- A bundle with nothing left to do retires (R391, R392): its record is written, then it is counted. -/
def State.retire (s : State) (b : Nat) : State :=
  let B := s.bundle b
  match s.putCompletion b B with
  | (none, s) => s
  | (_, s) => ((s.modBundle b fun B => { B with status := some B.code }).countBundles B.die B.qsb (s.bundles.length + 1)).testHeld B.die

/-- "Team" i of sub-launch k never becomes dispatchable: it needs a bit that is not set and never will be (R390); `n` bounds the depth of
producers. -/
def State.hopeless (s : State) (b : Nat) : Nat → Nat → Nat → Bool
  | 0, _, _ => false
  | n + 1, k, i =>
    let B := s.bundle b
    let u := B.subs.getD k {}
    if u.dep = 0 then false
    else
      let p := B.subs.getD (u.dep - 1) {}
      (u.needs p i).any fun j => !s.bitSet (B.die * 4096 + B.asid) p j && (p.failed.contains j || State.hopeless s b n (u.dep - 1) j)

/-- Every team and entry of a bundle has ended or will never run (R391). -/
def State.bundleDone (s : State) (b : Nat) : Bool :=
  let B := s.bundle b
  (s.teams.all fun (_, T) => T.handler || T.bundle != b || (T.phase == .waiting && T.ready.isNone && s.hopeless b 5 T.subidx T.teamid)) &&
  (List.range B.subs.length).all (fun k => (B.subs.getD k {}).left.all fun i => s.hopeless b 5 k i) &&
  !(s.copies.any fun (k, c) => (match c.entry with | some (x, _, _) => x == b | none => false) && s.pending k)

/-- BUNDLE_RETIRE (R390 to R392): teams and entries that will never run are counted in NOTRUN. -/
def execBundleRetire (b : Nat) (s : State) : Out :=
  match s.bundles.find b with
  | none => .next s
  | some B =>
    if B.status.isSome || !s.bundleDone b then .next s
    else
      let ts := Map.keys (s.teams.filter fun (_, T) => !T.handler && T.bundle == b)
      let n := ts.length + (B.subs.map fun u => u.left.length).sum
      match s.putCompletion b { B with notrun := n } with
      | (none, s) => .next s
      | (_, s) =>
        let s := { s with teams := s.teams.filter fun (t, _) => !ts.contains t }
        let s := s.modBundle b fun B => { B with notrun := n, compl := 0, subs := B.subs.map fun u => { u with left := [] } }
        .next (s.retire b)

/-! ### Starting bundles (R382, R477) -/

/-- The record index of the next bundle that the queue starts. -/
def State.nextRecord (s : State) (d q : Nat) : Nat := (qHead ((s.die d).qsb q) + (s.bundles.filter fun (_, B) => B.die == d && B.qsb == q).length) % 2 ^ 32

/-- The queue's slot may start a bundle (R379, R382): the one before it has retired, or it overlaps and all its teams have been placed. -/
def State.mayStart (s : State) (d q : Nat) : Bool :=
  let x := (s.die d).qsb q
  let k := s.nextRecord d q
  (s.die d).up && decide (s.pstate < 2) && (s.queue d q).mapped && qEnable x && k != qTail x &&
  (s.bundles.all fun (b, B) => B.die != d || B.qsb != q || B.status.isSome || B.index != (k + 2 ^ 32 - 1) % 2 ^ 32 ||
    (B.overlap && s.teams.all fun (_, T) => T.handler || T.bundle != b || T.phase != .waiting))

/-- A team as a bundle starts it (R375). -/
def newTeam (d q qx part h b k : Nat) (ws : List Nat) (i : Nat) : Team :=
  let w (i : Nat) : Nat := ws.getD i 0
  let gx := bits (w 5) 15 0
  let gy := bits (w 5) 31 16
  { origin := d, die := d, asid := qAsid qx, prio := qPrio qx, stag := qStag qx, part := bits (w 0) 47 16, teamid := i,
    xyz := i % gx + i / gx % gy * 2 ^ 16 + i / (gx * gy) * 2 ^ 32, grid := w 5, subidx := k, nwarps := bits (w 0) 15 8, sentry := w 1, mentry := w 2,
    lanebase := w 3, args := BitVec.ofNat 64 (w 4), pmgr := bitOf h 10, shadow := bitOf h 9, migrate := bitOf h 8 && qMigrate qx, child := qChild qx,
    partition := part, bundle := b, qsb := q }

/-- The teams of a bundle are made, all waiting. -/
def State.makeTeams (s : State) (d q qx part h b : Nat) (subs : List Sub) : State :=
  (List.range subs.length).foldl (fun s k =>
    let u := subs.getD k {}
    if u.copy then s
    else (List.range (bits u.grid 15 0 * bits u.grid 31 16 * bits u.grid 47 32)).foldl (fun s i =>
      let (t, s) := s.fresh
      { s with teams := s.teams.ins t (newTeam d q qx part h b k u.words i) }) s) s

/-- A bad record's bundle retires at once with BADREC (R377) (DEDUCED, log entry 31). -/
def State.badBundle (s : State) (B : Bundle) (user compl : Nat) : State :=
  let (b, s) := s.fresh
  State.retire { s.jobDone (.start B.die B.qsb) with bundles := s.bundles.ins b { B with bad := true, user := user, compl := if complOk compl then compl else 0 } } b

/-- The bundle of a record that cannot be read, or whose DLISTs cannot (R477): a COMPL that can be read has its completion record, where a USER that
cannot is free (DESIGN CHOICE, log entry 31). -/
def State.unreadable (s : State) (B : Bundle) (sp va : Nat) : State :=
  let s := s.eventOpen B.die va
  let j := Job.start B.die B.qsb
  match s.partLoad j sp (va + 8) with
  | (some (some compl), s) => match s.partLoad j sp (va + 16) with
    | (some (some user), s) => s.badBundle B user compl
    | (_, s) => let (user, s) := s.draw 64; s.badBundle B user compl
  | (_, s) => s.badBundle B 0 0

/-- BUNDLE_START (R382, R477). -/
def execBundleStart (die qsb : Nat) (s : State) : Out :=
  if !s.mayStart die qsb then .next s
  else
    let qx := (s.die die).qsb qsb
    let k := s.nextRecord die qsb
    let sp := die * 4096 + qAsid qx
    let part := ((s.die die).registration qsb).getD 0
    let j := Job.start die qsb
    let va := qSlotVa qx k
    let B : Bundle := { die := die, qsb := qsb, asid := qAsid qx, index := k, part := part }
    match s.partRead j sp (recordVas va) with
    | (none, s) => .next s
    | (some none, s) => .next (s.unreadable B sp va)
    | (some (some w), s) =>
      let h := w.getD 0 0
      if !recordOk w (qPmgr qx) then .next (s.badBundle B (w.getD 2 0) (w.getD 1 0))
      else match s.partRead j sp (dlistsVas w) with
        | (none, s) => .next s
        | (some none, s) => .next (s.unreadable B sp va)
        | (some (some ls), s) =>
          let subs := subsOf w ls
          if !(subs.all fun u => u.dl.all entryOk) then .next (s.badBundle B (w.getD 2 0) (w.getD 1 0))
          else
            let (b, s) := (s.jobDone j).fresh
            let s := { s with bundles := s.bundles.ins b { B with user := w.getD 2 0, compl := w.getD 1 0, overlap := bitOf h 11, subs := subs } }
            .next (((s.makeTeams die qsb qx part h b subs).noteReady).offer die)

/-! ### The LAUNCH family (R396 to R400) -/

/-- The physical address under which ENQ and ENQST look a QSB up, with steps 1 to 4 of R183; none where it is no local memory, whose later steps are not
made (R324, R397). -/
def State.qsbAt (s : State) (x : Nat) (k : Option Nat → State → State) : State :=
  match s.check s.view x 8 .read with
  | (.ask a, s) => s.askFor [a]
  | (.local _ pa, s) => k (some pa) s
  | (.remote _, s) => k none s
  | (.fail c a, s) =>
    if c = cPEERRANGE ∨ c = cNOKEY then k none s
    else if c = cTAIL then
      match s.translate (s.team s.me).space x with
      | (.ok t, s) => k (some (t.pa x)) s
      | (.error _, s) => k none s
    else s.streamFail c a

/-- The record goes to its slot, a piece for each line; a piece whose check fails is not written, and no fault is taken (R397, R407). None while the
stream asks a page (DEDUCED, log entry 31). -/
def State.putSlot (s : State) (bs : List Byte) (base : Nat) : List (Nat × Nat) → Option State × State
  | [] => (some s, s)
  | (x, n) :: r =>
    let T := s.team s.me
    let data := (bs.drop (x - base)).take n
    match s.check s.view x 1 .write with
    | (.ask a, s) => (none, s.askFor [a])
    | (.fail c a, s) => if c = cABSENT then (none, s.streamFail c a) else s.putSlot bs base r
    | (.local page pa, s) => (s.store T.space x page pa data).putSlot bs base r
    | (.remote e, s) =>
      let (id, s) := s.remote s.owner T.space (s.packetOf T.origin e (x % 2 ^ 32) n .write data) false [] 0 0
      (s.posted id).putSlot bs base r

/-- The writes of the issuing warp that come before the instruction are performed (R213, R329). -/
def State.writesDone (s : State) : Bool := match s.cur with | .warp t w => (s.warp t w).writes.isEmpty | _ => true

/-- ENQ's outcome at a QSB of the team's die (R397) (DEDUCED, log entry 31). The append is a release at D scope: it waits for the warp's remote
writes, so that the child sees them (R235). -/
def State.enqAt (s : State) (d : Reg) (pa : Nat) (y : Nat) : State :=
  let T := s.team s.me
  let D := s.die T.origin
  let x := D.qsb pa
  if (D.registration pa).isNone || !qChild x || !qEnable x || qAsid x != T.asid then s.result d 2
  else if qHeld x = qSlots x then s.result d 1
  else match s.readPieces 8 (recordVas y) with
    | (none, s) => s
    | (some w, s) =>
      if !recordOk w (qPmgr x) then s.result d 3
      else match s.readPieces 8 (dlistsVas w) with
        | (none, s) => s
        | (some ls, s) =>
          if !((subsOf w ls).all fun u => u.dl.all entryOk) then s.result d 3
          else if !s.writesDone then s
          else
            let va := qSlotVa x (qTail x)
            match s.putSlot (w.flatMap (bytesLE 8)) va (cutLines va 512) with
            | (none, s') => s.setAsks s'.asks |>.setWait s'.waiting
            | (some s, _) => ((s.qsbPut T.origin pa 0 (bytesLE 4 (qTail x + 1))).trackTail T.origin pa).result d 0

/-- ENQ (R397). -/
def execEnq (d a b : Reg) (s : State) : Out :=
  warpOnly [d, a, b] [a.toNat, b.toNat] s <|
    let x := (s.reg a).toNat
    let y := (s.reg b).toNat
    if x % 64 ≠ 0 ∨ y % 64 ≠ 0 then .next (s.streamFault { code := cALIGN, addr := if x % 64 ≠ 0 then x else y })
    else .next (s.qsbAt x fun q s => match q with | none => s.result d 2 | some pa => s.enqAt d pa y)

/-- The effective priority e of a queue (R380, R398). -/
def Queue.eprio (Q : Queue) (now prio : Nat) : Nat :=
  if Q.mapped then prio else match Q.since with | some t => min 255 (prio + (now - t) / Config.usCycles 100) | none => prio

/-- The state word of ENQST (R398). -/
def State.enqWord (s : State) (d pa : Nat) : Word :=
  let x := (s.die d).qsb pa
  let Q := s.queue d pa
  if ((s.die d).registration pa).isNone then ~~~0
  else BitVec.ofNat 64 (Q.eprio s.now (qPrio x) * 2 ^ 40 + Q.overshare.toNat * 2 ^ 33 + Q.mapped.toNat * 2 ^ 32 + (qSlots x + 2 ^ 32 - qHeld x) % 2 ^ 32)

/-- ENQST (R398). -/
def execEnqst (d a : Reg) (s : State) : Out :=
  warpOnly [d, a] [a.toNat] s <|
    .next (s.qsbAt (s.reg a).toNat fun q s => s.result d (match q with | none => ~~~0 | some pa => s.enqWord (s.team s.me).origin pa))

/-- QWAIT yields the team, which is held until the Bronze core finds the condition met (R399). -/
def State.qyield (s : State) (t : Nat) (x target : Word) : State := (s.modTeam t fun T => { T with held := some (x, target) }).leaveTeam t

/-- The condition does not hold: the instruction issues again, until 4 us have passed. -/
def State.qretry (s : State) (x target : Word) : State :=
  match s.cur with
  | .warp t w =>
    let since := match (s.warp t w).qwait with | some (i, _, _) => i | none => s.now
    let s := s.modWarp t w fun W => { W with qwait := some (since, x, target), wait := .none, asks := [], got := [] }
    if s.now ≥ since + Config.usCycles 4 then s.qyield t x target else s
  | _ => s

/-- QWAIT (R399). -/
def execQwait (d a b : Reg) (s : State) : Out :=
  warpOnly [d, a, b] [a.toNat, b.toNat] s <|
    let x := s.reg a
    let y := s.reg b
    if x.toNat % 8 ≠ 0 then .next (s.streamFault { code := cALIGN, addr := x.toNat })
    else .next (s.scalarLoad x.toNat 8 fun v s => if qwaitMet v y then s.result d (BitVec.ofNat 64 v) else s.qretry x y)

/-- QWAIT_TIMEOUT (R399): 4 us have passed since the QWAIT began waiting. -/
def execQwaitTimeout (t w : Nat) (s : State) : Out :=
  match (s.warp t w).qwait with
  | some (since, x, y) =>
    if s.warpLive t w && (s.team t).phase == .resident && !(s.team t).leaving && decide (s.now ≥ since + Config.usCycles 4) &&
      !inside (s.warp t w).wait (s.warp t w).asks (!(s.warp t w).got.isEmpty) then .next (s.qyield t x y)
    else .next s
  | none => .next s

/-- MIGHINT (R400). -/
def execMighint (d a : Reg) (s : State) : Out :=
  warpOnly [d, a] [a.toNat] s <|
    let h := (s.reg a).toNat % 256
    if h ≥ 4 ∧ h ≠ 255 then .next (s.result d 3)
    else if !(s.team s.me).migrate then .next (s.result d 1)
    else if s.holdsPhaser s.me then .next (s.result d 2)
    else .next ((s.modTeam s.me fun T => { T with hint := some h }).result d 0)

/-! ### The mapping tick (R379, R380) -/

/-- An unmapped queue with work: its address, e, and the instant from which it waits. -/
structure Waiting where
  q : Nat
  e : Nat
  since : Nat
  deriving DecidableEq, Repr

/-- Highest e first, then the longest unmapped. -/
def insWaiting (x : Waiting) : List Waiting → List Waiting
  | [] => [x]
  | y :: r => if y.e > x.e ∨ (y.e = x.e ∧ y.since ≤ x.since) then y :: insWaiting x r else x :: y :: r

/-- Mapped queues of a die with their priorities and the instants of mapping. -/
def State.mappedQueues (s : State) (d : Nat) : List Waiting :=
  (s.die d).queues.filterMap fun (q, Q) => if Q.mapped then some ⟨q, qPrio ((s.die d).qsb q), Q.since.getD 0⟩ else none

def State.mapQueue (s : State) (d q : Nat) : State := s.setQueue d q fun Q => { Q with mapped := true, since := some s.now }
def State.unmapQueue (s : State) (d q : Nat) (work : Bool) : State :=
  (s.jobDone (.start d q)).setQueue d q fun Q => { Q with mapped := false, since := if work then some s.now else none }

/-- Mapped queues that have not been mapped in this tick: those may lose their slots in it (DEDUCED, log entry 28). -/
def State.losable (s : State) (d : Nat) (new : List Nat) : List Waiting := (s.mappedQueues d).filter fun m => !new.contains m.q

/-- The lowest of mapped queues, the longest held among equals. -/
def lowestOf (l : List Waiting) : Option Waiting :=
  l.foldl (fun m x => match m with | none => some x | some y => if x.e < y.e ∨ (x.e = y.e ∧ x.since < y.since) then some x else m) none

/-- Waiting queues take free slots, then slots of queues of lower priority; `new` have been mapped in this tick. What is left waits on. -/
def State.fillSlots (s : State) (d : Nat) (new : List Nat) : List Waiting → State × List Nat × List Waiting
  | [] => (s, new, [])
  | u :: r =>
    if (s.mappedQueues d).length < Config.hwSlots then (s.mapQueue d u.q).fillSlots d (u.q :: new) r
    else match lowestOf (s.losable d new) with
      | some m =>
        if u.e > m.e then ((s.unmapQueue d m.q true).mapQueue d u.q).fillSlots d (u.q :: new) r
        else (s, new, u :: r)
      | none => (s, new, u :: r)

/-- Queues of priority 255 that have held their slots for 1 ms yield them to waiting queues of e = 255 (R380), as many as there are: else the bound of
R381 would not hold (DEDUCED, log entry 28). -/
def State.yieldSlots (s : State) (d : Nat) (new : List Nat) : List Waiting → State
  | [] => s
  | u :: r =>
    match (if u.e = 255 then lowestOf ((s.losable d new).filter fun m => m.e == 255 && decide (s.now ≥ m.since + Config.usCycles 1000)) else none) with
    | some m => ((s.unmapQueue d m.q true).mapQueue d u.q).yieldSlots d (u.q :: new) r
    | none => s

/-- The Bronze core's part of the tick (DEDUCED, log entry 28): a mapped queue that is no longer registered has no work. -/
def State.mapTick (s : State) (d : Nat) : State :=
  let now := s.now
  let rs := (s.die d).registered.map (·.1)
  let gone := (Map.keys ((s.die d).queues.filter fun (_, Q) => Q.mapped)).filter fun q => !rs.contains q
  let s := gone.foldl (fun s q => s.unmapQueue d q false) s
  let s := rs.foldl (fun s q =>
    let work := qWork ((s.die d).qsb q)
    let Q := s.queue d q
    if Q.mapped then (if work then s else s.unmapQueue d q false)
    else s.setQueue d q fun Q => { Q with since := if work then some (Q.since.getD now) else none }) s
  let s := (s.modDie d fun D => { D with fifo := [], overflow := false }).noteQueues d
  let waiting := (rs.filterMap fun q =>
    let Q := s.queue d q
    if Q.mapped then none else Q.since.map fun t => (⟨q, Q.eprio now (qPrio ((s.die d).qsb q)), t⟩ : Waiting)).foldl (fun l x => insWaiting x l) []
  let (s, new, left) := s.fillSlots d [] waiting
  s.yieldSlots d new left

/-- The tick of a die is due: ticks are 100 us apart, and pause while the Bronze core restarts (R380, R403). -/
def State.tickDue (s : State) (d : Nat) : Bool :=
  decide (s.now ≥ ((s.die d).ticks + 1) * Config.usCycles 100) && (s.die d).up && !((s.die d).fw.get 0 {}).restarting

/-- MAPPING_TICK (R380), with the test of the teams that QWAIT holds (R399). -/
def execMappingTick (die : Nat) (s : State) : Out :=
  if !s.tickDue die then .next s
  else .next ((((s.modDie die fun D => { D with ticks := D.ticks + 1 }).mapTick die).testHeld die).offer die)

/-! ### Share windows, migration (R393 to R395) -/

/-- SHARE_WINDOW_END (R344, R395): each queue's count goes to RBYTES; a count above S times 35,000 puts the queue over share. -/
def execShareWindowEnd (die : Nat) (s : State) : Out :=
  if s.now < ((s.die die).windows + 1) * Config.usCycles 10 then .next s
  else
    let s := s.modDie die fun D => { D with windows := D.windows + 1 }
    let rs := (s.die die).registered.map (·.1)
    .next (((s.die die).queues.filter fun (q, _) => rs.contains q).foldl (fun s (q, Q) =>
      let S := qShare ((s.die die).qsb q)
      (s.qsbPut die q 52 (bytesLE 4 (min Q.bytes (2 ^ 32 - 1)))).setQueue die q fun Q =>
        { Q with bytes := 0, overshare := S != 0 && decide (Q.bytes > S * 35000) }) s)

/-- Free team slots of a die. -/
def State.freeTeams (s : State) (d : Nat) : Nat := 512 - (s.teams.filter fun (_, T) => T.phase == .resident && T.die == d).length

/-- SLOT_ADVERTISE (R393): every 100 us a die tells the others its free team slots. -/
def execSlotAdvertise (die : Nat) (s : State) : Out :=
  if s.now < ((s.die die).adverts + 1) * Config.usCycles 100 then .next s
  else
    let n := s.freeTeams die
    let s := s.modDie die fun D => { D with adverts := D.adverts + 1 }
    .next { s with dies := s.dies.each fun d D => if d = die then D else { D with free := D.free.ins die n } }

/-- The team may be sent to a die (R393, R394): 200 us without a core, to a die with the most free slots; or back to its origin. A team
with a hint for the die that it is on stays there until it is placed (R400). -/
def State.maySend (s : State) (t die : Nat) : Bool :=
  let T := s.team t
  s.mayMigrate t && T.dispatchable && decide (die < Config.dies) && die != T.die && T.hint != some T.die && !((s.die T.die).fw.get 0 {}).restarting &&
  ((die == T.origin && T.phase == .away) ||
    ((s.moveTargets t).contains die && !s.anyCore t && T.ready.any fun r => decide (s.now ≥ r + Config.usCycles 200)))

/-- MIGRATION_SEND (R393): the team's message, with a pointer to its image when it is suspended, makes it wait on the other die. -/
def execMigrationSend (t die : Nat) (s : State) : Out :=
  if (s.teams.find t).isSome && s.maySend t die then .next (s.modTeam t fun T => { T with die := die, ready := some s.now, preempted := none }) else .next s

/-! ### Firmware (R402 to R404) -/

def State.modFw (s : State) (d c : Nat) (f : FwCore → FwCore) : State := s.modDie d fun D => { D with fw := D.fw.ins c (f (D.fw.get c {})) }

/-- A firmware core restarts alone, and the restart is logged (R402). -/
def State.restartCore (s : State) (d c : Nat) : State := (s.modFw d c fun F => { F with restarting := true, kick := s.now }).event 6 d c

/-- WATCHDOG_KICK (R402): a kick before 2 ms or after 10 ms restarts the core. -/
def execWatchdogKick (die core : Nat) (s : State) : Out :=
  let F := (s.die die).fw.get core {}
  if F.restarting then .next s
  else if s.now < F.kick + Config.usCycles 2000 ∨ s.now > F.kick + Config.usCycles 10000 then .next (s.restartCore die core)
  else .next (s.modFw die core fun F => { F with kick := s.now })

/-- WATCHDOG_EXPIRY (R402): no kick by 10 ms. -/
def execWatchdogExpiry (die core : Nat) (s : State) : Out :=
  let F := (s.die die).fw.get core {}
  if F.restarting ∨ s.now < F.kick + Config.usCycles 10000 then .next s else .next (s.restartCore die core)

/-- At 10 ms a firmware core kicks or is restarted (R402): what its image does is its own (R4) (DESIGN CHOICE, log entry 3). -/
def watchdogDue (die core : Nat) (s : State) : Out :=
  let (k, s) := s.choose 2
  if k = 0 then execWatchdogKick die core s else execWatchdogExpiry die core s

/-- The next core of a live update restarts (R404); core 8 is the last. -/
def State.nextUpdate (s : State) (d c : Nat) : State :=
  if !s.updating.contains (d, c) then s
  else
    let s := { s with updating := s.updating.filter (· != (d, c)) }
    if c ≥ 8 then s else State.restartCore { s with updating := s.updating ++ [(d, c + 1)] } d (c + 1)

/-- FIRMWARE_TABLES_REBUILT (R403): the core serves its buffers in order and runs on; ticks that fell into the Bronze core's restart are not made up for,
and hints that waited for it are used. -/
def execFirmwareTablesRebuilt (die core : Nat) (s : State) : Out :=
  if !((s.die die).fw.get core {}).restarting then .next s
  else
    let s := s.modFw die core fun F => { F with restarting := false, kick := s.now, inbox := [] }
    let s := if core = 0 then
        let s := s.modDie die fun D => { D with fw := D.fw.each (fun _ F => { F with outbox := [] }), ticks := max D.ticks (s.now / Config.usCycles 100) }
        (Map.keys (s.teams.filter fun (_, T) => T.phase == .away && T.die == die && T.hint.isSome)).foldl State.useHint s
      else s
    .next (s.nextUpdate die core)

/-- COMMAND_LINK_MESSAGE (R403): a running receiver takes the message at once; a restarting one's buffer holds it; with the buffer full
the sender has no permit and waits. -/
def execCommandLinkMessage (die leaf : Nat) (toLeaf : Bool) (msg : Nat) (s : State) : Out :=
  let k := 1 + leaf
  let F := (s.die die).fw.get k {}
  if toLeaf then
    if !F.restarting ∨ F.inbox.length ≥ 64 then .next s else .next (s.modFw die k fun F => { F with inbox := F.inbox ++ [msg] })
  else
    if !((s.die die).fw.get 0 {}).restarting ∨ F.outbox.length ≥ 64 then .next s
    else .next (s.modFw die k fun F => { F with outbox := F.outbox ++ [msg] })

end Sys2Proof.Machine
end

