-- ==== Sys2Proof/Machine/Host.lean ====
section
/-! DEFINITION. The host and the Monel controller: BAR2 and the register window (R444 to R451), commands (R447, R448), partitions (R441,
R450), power (R452 to R455), firmware images (R457), attestation (R458, R459), reset (R460). -/

namespace Sys2Proof.Machine

/-! ### BAR2 (R445, R372, R378) -/

/-- Some byte of [a, a + n) lies in bytes lo to hi of the block at q. -/
def touches (a n q lo hi : Nat) : Bool := decide (a < q + hi + 1) && decide (q + lo < a + n)

/-- A host write to a registered QSB breaks R372: a read-only field, TAIL of a CHILD queue, or, while ENABLE is set, an RW field other than
TAIL, but for clearing ENABLE (R373). `x` and `y` are the block before and after. -/
def qsbBroken (a n q x y : Nat) : Bool :=
  touches a n q 4 7 || touches a n q 40 55 || (touches a n q 0 3 && qChild x) ||
  (touches a n q 8 22 && qEnable x && decide (y - bits y 63 0 ≠ x - bits x 63 0 ∧ y - bits y 63 0 ≠ x - bits x 63 0 - 2 ^ 178))

/-- What a host write does beyond its bytes at one registered QSB: unpredictable fields (R372), unpredictable records when TAIL moves too far,
and write tracking (R378) (DEDUCED, log entry 31). -/
def State.hostQsb (s : State) (d a n q x : Nat) : State :=
  let y := (s.die d).qsb q
  if qsbBroken a n q x y then s.smearQsb d q
  else if touches a n q 0 3 then
    let s := if (qTail y + 2 ^ 32 - qTail x) % 2 ^ 32 > qSlots x then s.smear (d * 4096 + qAsid x) (cutLines (qRbase x) (512 * qSlots x)) else s
    s.trackTail d q
  else s

/-- The host reaches the package once its link is up (R460). -/
def hostOnly (s : State) (k : Out) : Out := if s.link then k else .next s

/-- HOST_MEMORY_WRITE (R445): writes above 192 GiB are discarded (DEDUCED, log entry 33). -/
def execHostMemoryWrite (fn : BitVec 2) (off : Nat) (data : List Byte) (s : State) : Out :=
  hostOnly s <|
  let d := fn.toNat
  let bs := data.take (Config.physBytes - off)
  if bs.isEmpty then .next s
  else
    let qs := ((s.die d).registered.filter fun (q, _) => touches off bs.length q 0 63).map fun (q, _) => (q, (s.die d).qsb q)
    let s := s.wrFree d off bs
    let b := (s.die d).func.base.get 0x11000 0
    let s := if b ≠ 0 ∧ off < b + 65536 ∧ b < off + bs.length then s.noteQueues d else s
    .next (qs.foldl (fun s (q, x) => s.hostQsb d off bs.length q x) s)

/-- Bytes that the host reads: zero above 192 GiB; uncorrectable bytes have no stated value. -/
def State.hostBytes (s : State) (d a : Nat) : Nat → List Byte × State
  | 0 => ([], s)
  | n + 1 =>
    let (b, s) : Byte × State :=
      if a ≥ Config.physBytes then (0, s)
      else match s.rdMem d a 1 with
        | (some v, s) => (BitVec.ofNat 8 v, s)
        | (none, s) => let (v, s) := s.draw 8; (BitVec.ofNat 8 v, s)
    let (r, s) := s.hostBytes d (a + 1) n
    (b :: r, s)

/-- HOST_MEMORY_READ (R445) (DEDUCED, log entry 33). -/
def execHostMemoryRead (fn : BitVec 2) (off : Nat) (n : Nat) (s : State) : Out :=
  hostOnly s <|
    let (bs, s) := s.hostBytes fn.toNat off n
    .next (s.send (.read bs))

/-! ### The register window (R446, R447, R449) -/

/-- Replace byte `i` of a number. -/
def setByte (x i : Nat) (b : Byte) : Nat := x - x / 256 ^ i % 256 * 256 ^ i + b.toNat * 256 ^ i

/-- An MSI-X table entry of a vector; at reset its mask bit is set (PRESUMED, log entry 12). -/
def Func.entry (F : Func) (v : Nat) : Nat := F.msix.get v (2 ^ 96)

def State.modFunc (s : State) (d : Nat) (f : Func → Func) : State := s.modDie d fun D => { D with func := f D.func }

/-- Raise a vector of a function: a masked one stays pending. -/
def State.raise (s : State) (d v : Nat) : State :=
  if bitOf ((s.die d).func.entry v) 96 then s.modFunc d fun F => { F with pending := setIns v F.pending } else s.send (.msix d v)

/-- Bits of a byte of the identity block that a field of R449 holds. -/
def identMask (o : Nat) : Nat :=
  if o = 0 then 255 else if o = 1 then 31
  else if o < 0x100 ∨ o ≥ 0x300 then 0
  else
    let r := o % 0x100
    if r < 0x16 then 255 else if r = 0x16 then 3 else if r < 0x18 then 0
    else if r < 0x38 then (if r % 8 < 6 then 255 else 0) else 0

/-- The package and command codes (R448). -/
def packageOp (op : Nat) : Bool := [2, 3, 4, 5, 7, 8].contains op
def commandOp (op : Nat) : Bool := decide (1 ≤ op ∧ op ≤ 9)

/-- GO (R447): ignored while BUSY, which sets RESULT; a command that is refused has its result at once. -/
def Func.go (F : Func) (refused : Nat → Option Nat) : Func :=
  if F.busy then { F with result := 1 }
  else { F with busy := true, running := F.op, taken := (List.range 4).map fun i => F.arg.get i 0, code := refused F.op }

/-- A physical function refuses an unknown code with BADARG, a package command on another function than 0 with DENIED (R447, R448). -/
def refusedOn (d op : Nat) : Option Nat := if !commandOp op then some 2 else if packageOp op && d != 0 then some 3 else none

/-- One byte of a function's own blocks is written: the command register at 0x08, ARG0 to ARG3 at 0x10 to 0x28 (PRESUMED, log entry 12), and the MSI-X table. -/
def Func.windowByte (F : Func) (refused : Nat → Option Nat) (o : Nat) (b : Byte) : Func :=
  if o = 8 then { F with op := b.toNat }
  else if o = 9 then (if b.getLsbD 0 then F.go refused else F)
  else if 0x10 ≤ o ∧ o < 0x30 then { F with arg := F.arg.put 0 ((o - 0x10) / 8) (BitVec.ofNat 64 (setByte (F.arg.get ((o - 0x10) / 8) 0).toNat (o % 8) b)) }
  else if 0x100000 ≤ o ∧ o < 0x108000 then
    let v := (o - 0x100000) / 16
    { F with msix := F.msix.put (2 ^ 96) v (setByte (F.entry v) (o % 16) b) }
  else F

/-- The bits of a receive filter that its fields hold (R9, R365). -/
def filterMask : Nat := 2 ^ 256 - 2 ^ 156 + (2 ^ 150 - 2 ^ 144) + (2 ^ 130 - 2 ^ 106)

/-- Some phaser, import or network queue of the package is live, so that its PKGID must not change (R449). -/
def State.pkgLive (s : State) : Bool := s.nodes.any (fun (_, N) => !N.entries.isEmpty) || s.dies.any (fun (_, D) => !D.imports.isEmpty) || !s.netqs.isEmpty

/-- A byte of the identity block is written; a PKGID changed while it is in use is unpredictable (R5, R449). -/
def State.identByte (s : State) (o : Nat) (b : Byte) : State :=
  let b := b &&& BitVec.ofNat 8 (identMask o)
  let (b, s) : Byte × State :=
    if o < 2 ∧ b ≠ s.ident.get o 0 ∧ s.pkgLive then let (x, s) := s.draw 8; (BitVec.ofNat 8 x &&& BitVec.ofNat 8 (identMask o), s) else (b, s)
  { s with ident := s.ident.put 0 o b }

/-- One byte of the window of physical function `d` is written. -/
def State.windowByte (s : State) (d o : Nat) (b : Byte) : State :=
  if (0x10000 ≤ o ∧ o < 0x14000) ∨ (0x16000 ≤ o ∧ o < 0x17000) then
    let x := setByte ((s.die d).func.base.get (o / 8 * 8) 0) (o % 8) b
    s.modFunc d fun F => { F with base := F.base.put 0 (o / 8 * 8) (if o < 0x14000 ∧ o % 0x1000 < 8 then x / 4096 * 4096 else x) }
  else if 0x14000 ≤ o ∧ o < 0x14300 then
    if d = 0 then s.identByte (o - 0x14000) b else s
  else if 0x200000 ≤ o ∧ o < 0x208000 then
    let i := (o - 0x200000) / 2
    s.modDie d fun D => { D with routes := D.routes.put 0 i (setByte (D.routes.get i 0) (o % 2) (b &&& BitVec.ofNat 8 (if o % 2 = 0 then 0x1F else 0x80))) }
  else if 0x210000 ≤ o ∧ o < 0x214000 then
    let g := (o - 0x210000) / 0x2000
    let i := (o - 0x210000) % 0x2000 / 32
    s.modGroup g fun G => { G with filters := G.filters.put 0 i (setByte (G.filters.get i 0) (o % 32) (b &&& BitVec.ofNat 8 (byteOf filterMask (o % 32)))) }
  else s.modFunc d (·.windowByte (refusedOn d) o b)

/-- Pending vectors that are no longer masked are sent. -/
def State.sendPending (s : State) (d : Nat) : State :=
  let go := (s.die d).func.pending.filter fun v => !bitOf ((s.die d).func.entry v) 96
  go.foldl (fun s v => s.send (.msix d v)) (s.modFunc d fun F => { F with pending := F.pending.filter fun v => !go.contains v })

/-- The bytes of the window from `o` to `o + n` hold some byte of [lo, hi). -/
def reaches (o n lo hi : Nat) : Bool := decide (o < hi) && decide (lo < o + n)

/-- What a register write brings back (R343, R460): a valid route entry, the routes of its package; an export table's base, the die. -/
def State.reinstalled (s : State) (d o n : Nat) : State :=
  let named (k : Nat) : Bool :=
    let i := k / 32 % 4096 * 4
    k / 2 ^ 17 == d && (List.range 4).any fun p => reaches o n (0x200000 + 2 * (i + p)) (0x200000 + 2 * (i + p) + 2) && bitOf ((s.die d).routes.get (i + p) 0) 15
  let base (k : Nat) : Bool := reaches o n 0x12000 0x12008 && k % 2 ^ 17 == s.pkg * 32 + d && (s.die d).func.base.get 0x12000 0 != 0
  { s with lost := s.lost.filter fun k => !named k && !base k }

/-- The sequence in which the bytes of a write take effect: GO last, so that it sees OP and the arguments of one write. -/
def writeOrder (off : Nat) (data : List Byte) : List (Nat × Byte) :=
  let l := (List.range data.length).map fun i => (off + i, data.getD i 0)
  (l.filter fun x => x.1 != 9) ++ l.filter fun x => x.1 == 9

/-- HOST_REGISTER_WRITE (R446): GO last, so that it sees OP and the arguments of one write. Requests that had no route try again. -/
def execHostRegisterWrite (fn : BitVec 2) (off : Nat) (data : List Byte) (s : State) : Out :=
  hostOnly s <|
    let d := fn.toNat
    let s := (writeOrder off data).foldl (fun s (o, b) => s.windowByte d o b) s
    let s := if reaches off data.length 0x11000 0x11010 then s.noteQueues d else s
    .next (((s.reinstalled d off data.length).sendPending d).pump)

/-- An event record of the log (R456). -/
def Event.bytes (e : Event) : List Byte := bytesLE 16 e.data ++ bytesLE 5 0 ++ bytesLE 1 e.socket ++ bytesLE 2 e.code ++ bytesLE 8 e.time

/-- A byte of a number. -/
def winByte (x i : Nat) : Byte := BitVec.ofNat 8 (byteOf x i)

/-- The command register (R447): OP, BUSY and RESULT; GO is write only and the reserved bits read zero (R9). -/
def Func.command (F : Func) : Nat := F.op + F.busy.toNat * 2 ^ 15 + F.result * 2 ^ 32

/-- What a read of one byte of a function's own blocks gives (R9, R447): none outside them. The pending bits from 0x108000 on have a layout that the
manual does not give (PRESUMED, log entry 12). -/
def Func.readByte (F : Func) (o : Nat) : Option Byte :=
  if 8 ≤ o ∧ o < 0x10 then some (winByte F.command (o - 8))
  else if 0x10 ≤ o ∧ o < 0x30 then some (winByte (F.arg.get ((o - 0x10) / 8) 0).toNat (o % 8))
  else if 0x100000 ≤ o ∧ o < 0x108000 then some (winByte (F.entry ((o - 0x100000) / 16)) (o % 16))
  else if 0x108000 ≤ o ∧ o < 0x108100 then
    some (BitVec.ofNat 8 (maskOf (F.pending.filterMap fun v => if v / 8 = o - 0x108000 then some (v % 8) else none)).toNat)
  else none

/-- What a read of one byte of the window gives (R9, R446, R449, R456): write-only and reserved fields, and bytes of no block, read zero. The
status word at 0x30 with the bit of R455, and the event-log window, HEAD and then as many records as it holds, oldest first, have a layout that the
manual does not give (PRESUMED, log entry 12). -/
def State.regByte (s : State) (d o : Nat) : Byte :=
  let F := (s.die d).func
  match F.readByte o with
  | some b => b
  | none =>
    if o = 0x30 then BitVec.ofNat 8 s.thermal.toNat
    else if (0x10000 ≤ o ∧ o < 0x14000) ∨ (0x16000 ≤ o ∧ o < 0x17000) then winByte (F.base.get (o / 8 * 8) 0) (o % 8)
    else if 0x14000 ≤ o ∧ o < 0x14300 then s.ident.get (o - 0x14000) 0
    else if 0x20000 ≤ o ∧ o < 0x20008 then winByte s.logHead (o - 0x20000)
    else if 0x20020 ≤ o ∧ o < 0x100000 then
      match s.events[(o - 0x20020) / 32]? with
      | some e => e.bytes.getD (o % 32) 0
      | none => 0
    else if 0x200000 ≤ o ∧ o < 0x208000 then winByte ((s.die d).routes.get ((o - 0x200000) / 2) 0) (o % 2)
    else if 0x210000 ≤ o ∧ o < 0x214000 then winByte ((s.group ((o - 0x210000) / 0x2000)).filters.get ((o - 0x210000) % 0x2000 / 32) 0) (o % 32)
    else 0

/-- The host reads `n` bytes of a function's window (R446). -/
def State.registerRead (s : State) (d o n : Nat) : State :=
  if s.link then s.send (.read ((List.range n).map fun i => s.regByte d (o + i))) else s

/-! ### Virtual functions (R444, R445) -/

/-- The partition of a virtual function has a share of its die. -/
def State.hasShare (s : State) (d v : Nat) : Bool :=
  bits (s.partitions.get (Config.vfPartition d v) {}).clusters (8 * d + 7) (8 * d) != 0

def State.vf (s : State) (d v : Nat) : Func := s.vfs.get (8 * d + v) {}

/-- What a virtual function reads (R445): its own command registers and MSI-X block; the other blocks, which are its die's or its package's, read zero
(DESIGN CHOICE, log entry 33). -/
def State.vfRead (s : State) (d v o n : Nat) : State :=
  if !s.link then s
  else s.send (.read ((List.range n).map fun i => if s.hasShare d v then ((s.vf d v).readByte (o + i)).getD 0 else 0))

/-- A virtual function's command is over: vector 0 of the function, named by 4 plus its key, is raised unless it is masked (R447). -/
def State.vfDone (s : State) (k : Nat) (F : Func) : State :=
  match F.busy, F.code with
  | true, some c =>
    let F := { F with busy := false, code := none, result := c }
    if bitOf (F.entry 0) 96 then { s with vfs := s.vfs.ins k { F with pending := setIns 0 F.pending } } else State.send { s with vfs := s.vfs.ins k F } (.msix (4 + k) 0)
  | _, _ => { s with vfs := s.vfs.ins k F }

/-- What a virtual function writes (R445): its own blocks only. Its commands reach beyond its partition, or are package commands: they are refused
(R447) (DESIGN CHOICE, log entry 33). -/
def State.vfWrite (s : State) (d v o : Nat) (data : List Byte) : State :=
  if !s.link || !s.hasShare d v then s
  else
    let refused (op : Nat) : Option Nat := if commandOp op then some 3 else some 2
    let s := s.vfDone (8 * d + v) ((writeOrder o data).foldl (fun F (x, b) => F.windowByte refused x b) (s.vf d v))
    let F := s.vf d v
    let go := F.pending.filter fun i => !bitOf (F.entry i) 96
    go.foldl (fun s i => s.send (.msix (4 + 8 * d + v) i)) { s with vfs := s.vfs.ins (8 * d + v) { F with pending := F.pending.filter fun i => !go.contains i } }

/-! ### The region checker (R405) -/

/-- A firmware core's write: inside the firmware region it is made, otherwise discarded and logged. -/
def State.firmwareWrite (s : State) (d a : Nat) (bs : List Byte) : State :=
  let B := (s.die d).func.base
  let first := B.get 0x16000 0
  if first ≤ a ∧ a + bs.length ≤ first + B.get 0x16008 0 then s.wrFree d a bs else s.event 13 d a

/-! ### Commands (R447, R448) -/

/-- A command under way in a function. -/
def Func.runs (F : Func) (op : Nat) : Bool := F.busy && F.code.isNone && F.running == op
def Func.argN (F : Func) (i : Nat) : Nat := (F.taken.getD i 0).toNat

/-- A command has executed with a result, which its completion reports. -/
def State.ran (s : State) (d code : Nat) : State := State.modFunc { s with cmd := none } d fun F => { F with code := some code }

/-- The frame of a command: it executes once while its function is busy with it, and not between the beginning and the end of another one (R447). -/
def command (op : Nat) (fn : BitVec 2) (s : State) (k : Nat → Func → State) : Out :=
  let d := fn.toNat
  let F := (s.die d).func
  if F.runs op && s.cmd.all (· == d) then .next (k d F) else .next s

/-- COMMAND_COMPLETION (R447): BUSY clears, RESULT tells the outcome, vector 0 is raised. -/
def execCommandCompletion (fn : BitVec 2) (s : State) : Out :=
  let F := (s.die fn.toNat).func
  match F.busy, F.code with
  | true, some c => .next ((s.modFunc fn.toNat fun F => { F with busy := false, code := none, result := c }).raise fn.toNat 0)
  | _, _ => .next s

/-- `n` free bytes as listed cells from `a` on. -/
def freeCells (c a n : Nat) : List Host.Cell :=
  (List.range n).filterMap fun i =>
    let b := BitVec.ofNat 8 (Config.freeBits (c + i))
    if b = 0 then none else some (a + i, b)

/-- FRAMEFMT (R448, R194): the frame takes its class; its data take unpredictable values. -/
def execFramefmt (fn : BitVec 2) (s : State) : Out :=
  command 1 fn s fun d F =>
    let a := F.argN 0
    let c := F.argN 1 % 4
    if a % 2 ^ 21 ≠ 0 ∨ a ≥ Config.physBytes ∨ c = 3 then s.ran d 2
    else
      let cells := freeCells s.ctr a (2 ^ 21)
      let s := s.modDie d fun D =>
        { D with
            cls := D.cls.ins (a / 2 ^ 21) c
            mem := (D.mem.filter fun x => decide (x.1 < a)) ++ cells ++ D.mem.filter fun x => decide (a + 2 ^ 21 ≤ x.1)
            poison := D.poison.filter fun l => l / 2 ^ 14 != a / 2 ^ 21
            plain := D.plain.filter fun e => e / 2 ^ 18 != a / 2 ^ 21
            uses := D.uses.filter fun (l, _) => l / 2 ^ 14 != a / 2 ^ 21 }
      State.ran { s with ctr := s.ctr + 2 ^ 21 } d 0

/-! ### Partitions (R435, R441, R448, R450) -/

/-- Dies that two cluster masks share. -/
def shareDie (x y : Nat) : Bool := (List.range Config.dies).any fun d => bits x (8 * d + 7) (8 * d) != 0 && bits y (8 * d + 7) (8 * d) != 0

/-- PARTSET (R448, R450). -/
def execPartset (fn : BitVec 2) (s : State) : Out :=
  command 2 fn s fun d F =>
    let mask := F.argN 0 % 2 ^ 32
    let p := F.argN 1 % 32
    let x := F.argN 2
    let first := bits x 11 0
    let cnt := bits x 35 24
    let others := s.partitions.filter fun (k, _) => k != p
    if bits x 47 36 ≠ 0 ∨ bits x 23 12 ≠ 0 ∨ first + cnt > 4095 then s.ran d 2
    else if (s.teams.any fun (_, T) => T.phase == .resident && T.partition != p && bitOf mask (8 * T.die + T.core / 8)) ||
      (others.any fun (_, q) => q.clusters != 0 && decide (q.first ≤ first + cnt) && decide (first ≤ q.first + q.cnt) && shareDie q.clusters mask) then s.ran d 3
    else
      let old := s.partitions.get p {}
      let ps := s.partitions.each fun k q => if k = p then q else { q with clusters := q.clusters &&& (2 ^ 32 - 1 - mask) }
      State.ran { s with partitions := ps.ins p { old with clusters := mask, partid := bits x 63 48, first := first, cnt := cnt } } d 0

/-- The partition that a copy runs for. -/
def State.copyPart (s : State) (c : Copy) : Nat :=
  match c.team, c.entry with
  | some t, _ => (s.team t).partition
  | none, some (b, _, _) => (s.bundle b).part
  | none, none => 32

/-- Teams of some partitions leave their cores. -/
def State.leaveAllOf (s : State) (mine : Nat → Bool) : State :=
  (Map.keys (s.teams.filter fun (_, T) => T.phase == .resident && mine T.partition)).foldl State.leaveTeam s

/-- The drain of R441 is over for some partitions: no team is resident, no started copy or network operation is under way. -/
def State.drained (s : State) (mine : Nat → Bool) : Bool :=
  !(s.teams.any fun (_, T) => T.phase == .resident && mine T.partition) &&
  !(s.copies.any fun (k, c) => mine (s.copyPart c) && s.pending k && c.state != CopyState.queued) &&
  !(s.netops.any fun (_, o) => o.started && !o.done && (match o.team with | some t => mine (s.team t).partition | none => false))

/-- A copy still QUEUED that a partition stop exports. -/
def State.exports (s : State) (p : Nat) : Map Copy := s.copies.filter fun (_, c) => s.copyPart c == p && c.state == .queued && !c.exported

/-- The record of a QUEUED copy: D0 to D3; kind, ORD, engine, address space; the issuer, the tag; the model's number of the copy (PRESUMED, log entry 12). -/
def copyRecord (k : Nat) (c : Copy) : List Nat :=
  [c.d0.toNat, c.d1.toNat, c.d2.toNat, c.d3.toNat, c.kind + c.ord.toNat * 8 + c.engine * 16 + c.space * 2 ^ 16, c.issuer + c.tag * 2 ^ 16, k, 0]

/-- What PARTSTOP writes to its buffer (R441): a header of the partition and the numbers of addresses and records, with its complement; the QSB
addresses, each plus its die; the records of copies. The manual gives no layout (PRESUMED, log entry 12). -/
def State.exportWords (s : State) (p : Nat) : List Nat :=
  let qs := (List.range Config.dies).flatMap fun d => (s.die d).registered.filterMap fun (q, k) => if k = p then some (q + d) else none
  let cs := s.exports p
  let h := p + qs.length * 2 ^ 8 + cs.length * 2 ^ 32
  [h, 2 ^ 64 - 1 - h] ++ qs ++ cs.flatMap fun (k, c) => copyRecord k c

/-- PARTSTOP (R441, R448): the partition stops; once it has drained, its records go to the buffer and the command has executed. -/
def execPartstop (fn : BitVec 2) (s : State) : Out :=
  command 3 fn s fun d F =>
    let p := F.argN 1 % 32
    let s := if (s.partitions.get p {}).stopped then s
      else State.leaveAllOf { s with partitions := s.partitions.ins p { s.partitions.get p {} with stopped := true } } (· == p)
    if !s.drained (· == p) then { s with cmd := some d }
    else
      let t := s.wrFree d (F.argN 0) ((s.exportWords p).flatMap (bytesLE 8))
      State.ran { t with copies := t.copies.each fun k c => if (s.exports p).any fun x => x.1 == k then { c with exported := true } else c } d 0

/-- A copy's record is reinstalled: the copy that PARTSTOP has removed takes its place again; a record of another package's makes a new copy. -/
def State.reinstall (s : State) (p : Nat) (w : List Nat) : State :=
  let n (i : Nat) : Nat := w.getD i 0
  let word (i : Nat) : Word := BitVec.ofNat 64 (n i)
  let k := n 6
  let c := s.copy k
  if (s.copies.find k).isSome && c.exported && s.copyPart c == p then
    s.modCopy k fun c => { c with d0 := word 0, d1 := word 1, d2 := word 2, d3 := word 3, exported := false }
  else (s.enqueueCopy
    { kind := n 4 % 8, ord := bitOf (n 4) 3, engine := bits (n 4) 15 4 % 32, die := bits (n 4) 31 16 / 4096 % 4, asid := bits (n 4) 31 16 % 4096,
      issuer := n 5 % 2 ^ 16, tag := bits (n 5) 31 16, d0 := word 0, d1 := word 1, d2 := word 2, d3 := word 3 }).2

/-- PARTGO (R441, R448): the records in the buffer are reinstalled, and placement goes on. A buffer that holds none is a bad argument (DEDUCED, log entry 32). -/
def execPartgo (fn : BitVec 2) (s : State) : Out :=
  command 4 fn s fun d F =>
    let word (i : Nat) : Nat := (s.die d).tableWord (F.argN 0 + 8 * i)
    let h := word 0
    if h + word 1 ≠ 2 ^ 64 - 1 then s.ran d 2
    else
      let p := h % 32
      let first := 2 + bits h 31 8
      let s := (List.range (bits h 63 32)).foldl (fun s i => s.reinstall p ((List.range 8).map fun j => word (first + 8 * i + j)))
        { s with partitions := s.partitions.mod p fun q => { q with stopped := false } }
      ((List.range Config.dies).foldl (fun s d => (s.noteQueues d).offer d) s).ran d 0

/-! ### Clock steps (R453, R454) -/

/-- The effective step of a die (R453): the slowest of the commanded, state, cap and trip steps. -/
def State.stepOf (s : State) (d : Nat) : Nat :=
  let D := s.die d
  max (max D.step (if s.pstate = 1 then 7 else 0)) (max D.capStep (if D.trip then 7 else 0))

/-- Changes of step begin where the effective step is not the one in force. -/
def State.restep (s : State) : State :=
  (List.range Config.dies).foldl (fun s d => if (s.die d).eff = s.stepOf d ∨ (s.die d).change.isSome then s else s.modDie d fun D => { D with change := some s.now }) s

/-- CLOCK_STEP_CHANGE_DONE (R453): 20 us after it began. -/
def execClockStepChangeDone (die : Nat) (s : State) : Out :=
  match (s.die die).change with
  | some t =>
    if s.now < t + Config.usCycles 20 then .next s
    else
      let k := s.stepOf die
      .next ((s.modDie die fun D => { D with eff := k, change := none }).restep)
  | none => .next s

/-- CSTEP (R453). -/
def execCstep (fn : BitVec 2) (s : State) : Out :=
  command 6 fn s fun d F => ((s.modDie d fun D => { D with step := F.argN 0 % 8 }).restep).ran d 0

/-- POWERCAP (R448, R454). -/
def execPowercap (fn : BitVec 2) (s : State) : Out :=
  command 7 fn s fun d F =>
    let w := F.argN 0 % 4096
    if w < 1000 ∨ w > 2600 then s.ran d 2 else State.ran { s with cap := w } d 0

/-- POWER_MEASUREMENT (R454): the mean over 100 us; each change of the cap step is logged, with SOCKET 0, though every compute die changes (DESIGN
CHOICE, log entry 37). -/
def execPowerMeasurement (watts : Nat) (s : State) : Out :=
  let move (f : Nat → Nat) (s : State) : State :=
    let t := { s with dies := s.dies.each fun _ D => { D with capStep := f D.capStep } }
    if t.dies = s.dies then s else (t.event 5 0 watts).restep
  if watts > s.cap then .next (move (fun k => min (k + 1) 7) { s with below := none })
  else if 100 * watts < 95 * s.cap then
    let t := s.below.getD s.now
    if s.now ≥ t + Config.usCycles 1000 then .next (move (· - 1) { s with below := some s.now }) else .next { s with below := some t }
  else .next { s with below := none }

/-- THERMAL_TRIP (R455). -/
def execThermalTrip (die : Nat) (s : State) : Out :=
  .next ((State.event { (s.modDie die fun D => { D with trip := true }) with hot := setIns die s.hot } 4 die 105).restep)

/-- THERMAL_TRIP_END (R455): every sensor of the die has stayed below 95 degrees for 1 s. -/
def execThermalTripEnd (die : Nat) (s : State) : Out :=
  .next (State.restep { (s.modDie die fun D => { D with trip := false }) with hot := s.hot.filter (· != die) })

/-! ### Losing a die, resets (R455, R460) -/

/-- The places that a copy writes in device memory. -/
def Copy.targets (c : Copy) : List (Nat × Nat) :=
  if c.dstSp || c.kind == 2 || c.kind == 5 || c.state != CopyState.active then []
  else (List.range c.chunks).filterMap fun n => let p := c.piece n; if p.len = 0 then none else some (p.dst, p.len)

/-- Copies and network operations of a die end without completion; the bytes they were writing are unpredictable (R455). Where `keep`, those that
have not started and whose teams stay remain (DEDUCED, log entry 32). -/
def State.dropTransfers (s : State) (d : Nat) (keep : Bool) : State :=
  let stays (t : Option Nat) : Bool := keep && t.all fun t => (s.team t).phase != .resident
  let cs := s.copies.filter fun (_, c) => (c.die == d || c.engine / 8 == d) && !(c.state == .queued && stays c.team)
  let s := cs.foldl (fun s (_, c) => s.smear c.space c.targets) s
  let ops := s.netops.filter fun (_, o) => o.die == d && (o.started || !stays o.team)
  let s := ops.foldl (fun s (k, o) => if o.started && !o.done then s.endOp k 6 else s) s
  { s with
      copies := s.copies.filter fun (k, _) => !(Map.keys cs).contains k
      netops := s.netops.filter fun (k, _) => !(Map.keys ops).contains k
      netqs := if keep then s.netqs else s.netqs.filter fun (k, _) => k / 2 ^ 22 != d }

/-- Dirty lines of a die's caches are lost: their bytes are unpredictable. -/
def State.dropLines (s : State) (d : Nat) : State :=
  (s.die d).lines.foldl (fun s l => if l.dirty then (let (bs, s) := s.drawBytes 128; s.wrRaw d (l.pa * 128) bs) else s) s

/-- Teams on a die, and teams whose address space it holds, are lost; where `keep`, those resident at that instant (R455). A team of another die's
bundle counts there as faulted; the undecided origins of a handler warp die as when it halts (DEDUCED, log entry 32). -/
def State.dropTeams (s : State) (d : Nat) (keep : Bool) : State :=
  let gone (T : Team) : Bool := if keep then T.die == d && T.phase == .resident else T.die == d || T.origin == d
  let s := (Map.keys (s.teams.filter fun (_, T) => gone T)).foldl (fun s t =>
    (if (s.team t).handler then (s.team t).warps.foldl (fun s (w, _) => s.killOrigins t w lanes 4) s else s).endTeam t true) s
  { s with
      bundles := if keep then s.bundles else s.bundles.filter fun (_, B) => B.die != d
      trips := s.trips.filter fun tr => (s.teams.find tr.team).isSome }

/-- Requests of a die are gone; those to it go back to their sources (R341, R343), and packets detoured through it take another way. -/
def State.dropRequests (s : State) (d : Nat) : State :=
  let from_ (p : TwillPacket) : Bool := p.spkg == s.pkg && p.ssock == d
  let gone (p : TwillPacket) : Bool := from_ p || (p.dpkg == s.pkg && p.dsock == d)
  let via (p : TwillPacket) : Bool := p.via == some d && !gone p
  let back := s.wires.filter via ++ (s.outward.map (·.2)).filter via
  let s := { s with
    wires := s.wires.filter fun p => !gone p && p.via != some d
    outward := s.outward.filter fun (_, p) => !from_ p && p.via != some d
    egress := s.egress.each fun _ ps => ps.filter fun p => !from_ p
    dies := s.dies.each fun _ D => { D with waiting := D.waiting.filter fun p => !from_ p }
    reqs := Map.each (s.reqs.filter fun (_, r) => r.src != d) fun _ r => if r.packet.dpkg = s.pkg ∧ r.packet.dsock = d then { r with sent := false } else r }
  s.resend back

/-- A die's volatile state after its reset (R460): device memory, classes, poison, groups that are to retire or have retired, the dirty map, and the
words written last by programs stay, and so do its clock step with what the Monel controller commands of it, the fault log's end, and the numbers
performed for the other dies, which go on counting theirs (R338). -/
def Die.fresh (D : Die) (now : Nat) (up : Bool) : Die :=
  { ({} : Die) with
      up := up, mem := D.mem, poison := D.poison, cls := D.cls, retired := D.retired, dirty := D.dirty, detected := D.detected, plain := D.plain,
      step := D.step, capStep := D.capStep, trip := D.trip, eff := D.eff, change := D.change, reports := D.reports, performed := D.performed,
      fw := (List.range 9).map (fun c => (c, { kick := now })), ticks := D.ticks, windows := D.windows, adverts := D.adverts }

/-- Home slices of a die retire at its reset when one of their sets has fewer than two of its 16 ways left (R207) (DEDUCED, log entry 33). -/
def State.retireSlices (s : State) (d : Nat) : State :=
  let gone := s.ways.filter fun (x, set, _) =>
    decide (x / 2 ^ 16 = 1 ∧ x % 2 ^ 16 / 16 = d) && decide ((s.ways.filter fun (y, c, _) => y == x && c == set).length ≥ 15)
  { s with slices := gone.foldl (fun l (x, _, _) => setIns (x % 2 ^ 16) l) s.slices }

/-- A compute die loses what R455 and R460 say it loses, and its node's phasers break (R317); `func` is what its function keeps, `keep` says
that its teams in device memory stay, and that the die does not run on (R452) (DEDUCED, log entry 32). -/
def State.loseDie (s : State) (d : Nat) (func : Func) (keys : Map Key) (routes : Map Nat) (keep : Bool) : State :=
  let up := !keep
  let s := (((((s.dropTransfers d keep).dropLines d).dropTeams d keep).dropRequests d).nodeFails d).retireSlices d
  let s := s.modNode d fun _ => { up := up }
  let s := s.modDie d fun D => { D.fresh s.now up with func := func, keys := keys, routes := routes }
  { s with
      dies := s.dies.each fun _ D => { D with performed := D.performed.del (s.pkg * 32 + d), free := D.free.del d }
      scWrites := s.scWrites.filter fun k => (s.reqs.find k).isSome
      engines := if keep then s.engines else s.engines.filter fun (k, _) => k / 8 != d
      flits := s.flits.filter fun (n, _, _) => n != d
      groups := s.groups.each fun _ G => { G with msgs := G.msgs.filter fun m => m.die != d } }

/-- DIERESET (R460): the table bases read zero until the host installs them again (DEDUCED, log entry 32). -/
def execDiereset (fn : BitVec 2) (s : State) : Out :=
  command 9 fn s fun d F => ((s.loseDie d { F with base := [] } [] [] false).restep.ran d 0).pump

/-- The package enters PS3: the dies lose their power; device memory and tables stay, and with them the teams whose images it holds (R452) (DEDUCED,
log entry 32). -/
def State.powerOff (s : State) : State :=
  State.restep { (List.range Config.dies).foldl (fun s d => s.loseDie d (s.die d).func (s.die d).keys (s.die d).routes true) s with pstate := 3, goal := none }

/-- THERMAL_SHUTDOWN (R455): PS3 at once, with an event, the status bit, and vector 1 of function 0. -/
def execThermalShutdown (die : Nat) (s : State) : Out :=
  .next (State.raise (State.event { s.powerOff with thermal := true, hot := setIns die s.hot } 4 die 120) 0 1)

/-- The firmware cores of a die and its periodic events go on where their clocks were stopped (R452). -/
def Die.wake (D : Die) (now : Nat) : Die :=
  { D with
      fw := D.fw.each fun _ F => { F with kick := now }, ticks := max D.ticks (now / Config.usCycles 100), windows := max D.windows (now / Config.usCycles 10)
      adverts := max D.adverts (now / Config.usCycles 100) }

def State.bank (s : State) (k : Nat) : Bank := s.banks.get k {}
def State.modBank (s : State) (k : Nat) (f : Bank → Bank) : State := { s with banks := s.banks.mod k f }

/-- Step 5 of the cold reset (R460): the active Bronze and Tin images verify. -/
def State.imagesGood (s : State) : Bool := Config.imageSigned (s.bank 1).active && Config.imageSigned (s.bank 2).active

/-- The dies run again. -/
def State.powerOn (s : State) : State :=
  (List.range Config.dies).foldl State.noteQueues
    { s with dies := s.dies.each fun _ D => { D.wake s.now with up := true, clk := 0 }, nodes := s.nodes.each fun _ N => { N with up := true }, thermal := false }

/-- The package takes a state in which the dies have power. -/
def State.enter (s : State) (k : Nat) : State :=
  State.restep { (if s.pstate < 2 then s else { s with dies := s.dies.each fun _ D => D.wake s.now }) with pstate := k, goal := none }

/-- PSTATE (R452): PS2 and PS3 wait for the drain of every partition. Out of PS3 the die steps of R460 are made, which fail where an image does. After
a thermal shutdown only PS0 leaves PS3, and is denied until every sensor has been below 95 degrees for 1 s (R455) (DEDUCED, log entry 32). -/
def execPstate (fn : BitVec 2) (s : State) : Out :=
  command 5 fn s fun d F =>
    let k := F.argN 0 % 4
    if s.pstate = 3 then
      if k = 3 then s.ran d 0
      else if k = 2 then s.ran d 4
      else if s.thermal && (k == 1 || !s.hot.isEmpty) then s.ran d 3
      else if !s.imagesGood then s.ran d 4
      else (s.powerOn.enter k).ran d 0
    else if k ≤ 1 then (s.enter k).ran d 0
    else
      let s := if s.goal = some k then s else State.leaveAllOf { s with goal := some k } fun _ => true
      if !s.drained (fun _ => true) then { s with cmd := some d }
      else if k = 2 then (s.enter 2).ran d 0
      else s.powerOff.ran d 0

/-! ### Firmware images (R404, R457) and attestation (R458, R459) -/

/-- A live update (R404): each die's firmware cores restart one at a time, the Bronze core first. -/
def State.liveUpdate (s : State) : State :=
  (List.range Config.dies).foldl (fun s d => if (s.die d).up then State.restartCore { s with updating := s.updating ++ [(d, 0)] } d 0 else s) s

/-- FWLOAD (R457): the image goes to the inactive bank, is verified, and becomes active, a Monel image at the next cold reset (DESIGN CHOICE, log entry 13).
Uncorrectable bytes of it are free (R195) (DEDUCED, log entry 33). -/
def execFwload (fn : BitVec 2) (s : State) : Out :=
  command 8 fn s fun d F =>
    let (img, s) := s.hostBytes d (F.argN 0) (F.argN 1)
    let k := Config.imageKind img % 3
    let v := Config.imageVersion img
    let s := s.modBank k fun b => { b with inactive := img, staged := false }
    if !Config.imageSigned img || decide (v < (s.bank k).version) then (s.event 7 4 k).ran d 4
    else if k = 0 then (s.modBank 0 fun b => { b with staged := true }).ran d 0
    else ((s.modBank k fun b => { active := img, inactive := b.active, version := v }).liveUpdate).ran d 0

/-- An SPDM response: version 1.3, its code, two parameters, and the rest (PRESUMED, log entry 13). -/
def spdmHead (code p1 p2 : Nat) : List Byte := [0x13, BitVec.ofNat 8 code, BitVec.ofNat 8 p1, BitVec.ofNat 8 p2]

/-- An ERROR response (PRESUMED, log entry 13). -/
def spdmError (code data : Nat) : List Byte := spdmHead 0x7F code data

def State.spdmSend (s : State) (bs : List Byte) : State := s.send (.spdm bs)

/-- A request of the Monel controller's connection (R458): what comes before the one it follows is unexpected; `next` is how far it brings the
connection. The response is that of SPDM 1.3, which the manual names. -/
def spdmStep (need next : Nat) (body : List Byte) (s : State) : Out :=
  hostOnly s <|
    if s.spdm < need then .next (s.spdmSend (spdmError 4 0)) else .next (State.spdmSend { s with spdm := next } body)

/-- GET_VERSION (R458): a connection begins. -/
def execGetVersion (msg : List Byte) (s : State) : Out := spdmStep 0 1 (Config.spdmBody msg) s

/-- GET_CAPABILITIES (R458). -/
def execGetCapabilities (msg : List Byte) (s : State) : Out := spdmStep 1 2 (Config.spdmBody msg) s

/-- ALGORITHMS: of the requester's ECDSA P-384 and SHA-384 only (R458) (PRESUMED, log entry 13). -/
def spdmAlgorithms (msg : List Byte) : List Byte :=
  let asked (o bit : Nat) : Nat := if ((msg.drop o).head?.getD 0).getLsbD bit then 2 ^ bit else 0
  spdmHead 0x63 0 0 ++ bytesLE 2 36 ++ [1, 0] ++ bytesLE 4 4 ++ bytesLE 4 (asked 8 7) ++ bytesLE 4 (asked 12 1) ++ List.replicate 16 0

/-- NEGOTIATE_ALGORITHMS (R458). -/
def execNegotiateAlgorithms (msg : List Byte) (s : State) : Out := spdmStep 2 3 (spdmAlgorithms msg) s

/-- GET_DIGESTS (R458). -/
def execGetDigests (msg : List Byte) (s : State) : Out := spdmStep 3 3 (Config.spdmBody msg) s

/-- GET_CERTIFICATE (R458). -/
def execGetCertificate (msg : List Byte) (s : State) : Out := spdmStep 3 3 (Config.spdmBody msg) s

/-- CHALLENGE (R458). -/
def execChallenge (msg : List Byte) (s : State) : Out := spdmStep 3 3 (Config.spdmBody msg) s

/-- Any other request, KEY_EXCHANGE and those of secure sessions among them, is not supported (R458) (PRESUMED, log entry 13). -/
def State.spdmOther (s : State) (msg : List Byte) : State := if s.link then s.spdmSend (spdmError 7 ((msg.drop 1).head?.getD 0).toNat) else s

/-- The measured item of an index (R459); the serial form of the last two is the model's (PRESUMED, log entry 12). -/
def State.measured (s : State) (i : Nat) : Option (List Byte) :=
  match i with
  | 1 => some (s.bank 0).active
  | 2 => some (s.bank 1).active
  | 3 => some (s.bank 2).active
  | 4 => some ((List.range 3).flatMap fun k => bytesLE 8 (s.bank k).version)
  | 5 => some ((s.keys.flatMap fun (p, q) => bytesLE 2 p ++ bytesLE 2 q) ++ s.partitions.flatMap fun (k, p) =>
      bytesLE 1 k ++ bytesLE 4 p.clusters ++ bytesLE 2 p.partid ++ bytesLE 2 p.first ++ bytesLE 2 p.cnt)
  | _ => none

/-- GET_MEASUREMENTS (R459): the SHA-384 digest of the index; other indices are answered as SPDM 1.3 does. -/
def execGetMeasurements (index : Nat) (s : State) : Out :=
  spdmStep 3 3 (match s.measured index with | some bs => sha384 bs | none => Config.spdmBody (bytesLE 1 index)) s

/-! ### Cold reset and loss of power (R457, R460) -/

/-- The package without power: what the Monel controller keeps in persistent storage stays (R194, R195, R207, R456, R457) (DESIGN CHOICE, log entry 6). -/
def State.dark (s : State) (up : Bool) : State :=
  { State.reset with
      link := up, now := s.now, ctr := s.ctr, uid := s.uid, inputs := s.inputs, out := s.out, ptp := s.ptp, events := s.events, logHead := s.logHead, banks := s.banks,
      ways := s.ways, slices := ((List.range Config.dies).foldl State.retireSlices s).slices
      dies := s.dies.map fun (d, D) =>
        (d, { ({} : Die) with
                up := up, reports := D.reports, cls := D.cls, retired := D.retired, fw := (List.range 9).map (fun c => (c, { kick := s.now })), ticks := D.ticks, windows := D.windows,
                adverts := D.adverts }) }

/-- Step 1 (R457, R460): a staged Monel image becomes active; an active image that fails makes the controller boot the other bank. The Bool
says whether it boots. -/
def State.bootMonel (s : State) : Bool × State :=
  let s := s.modBank 0 fun b => if b.staged then { active := b.inactive, inactive := b.active, version := Config.imageVersion b.inactive } else b
  if Config.imageSigned (s.bank 0).active then (true, s)
  else
    let s := (s.modBank 0 fun b => { b with active := b.inactive, inactive := b.active }).event 7 4 0
    (Config.imageSigned (s.bank 0).active, s)

/-- COLD_RESET (R460): the steps in order, each after the one before has succeeded. Bronze and Tin images must verify before the dies run (DESIGN CHOICE, log entry 13). -/
def execColdReset (s : State) : Out :=
  let (ok, s) := s.bootMonel
  .next (s.dark (ok && s.imagesGood))

/-- POWER_LOSS (R457): the package is dark until a cold reset; an update under way leaves the active bank whole, and its image in the inactive
bank as far as it was written. -/
def execPowerLoss (s : State) : Out :=
  let F := (s.die 0).func
  if F.runs 8 then
    let img := rdBytes (s.die 0).mem (F.argN 0) (F.argN 1)
    let k := Config.imageKind img % 3
    let (bs, s) := s.drawBytes img.length
    .next ((s.modBank k fun b => { b with inactive := bs, staged := false }).dark false)
  else .next (s.dark false)

end Sys2Proof.Machine
end

