-- ==== Sys2Proof/Machine/Traps.lean ====
section
/-! DEFINITION. Handler warps (R417 to R419), the trap instructions (R420 to R426), SYS.EXIT, and the PRIV family (R435 to R440). -/

namespace Sys2Proof.Machine

/-! ### The end of a warp (R99, R306, R426) -/

/-- The warp ends, leaving its memberships (R99, R306); a handler warp's undecided origin lanes die UNRESOLVED (R426). -/
def State.endWarp (s : State) (t w : Nat) : State :=
  let s := if (s.team t).handler then s.killOrigins t w lanes 5 else s
  ((s.leaveAll t w).modWarp t w fun W => { W with life := .ended, wait := .none, asks := [], got := [] }).settle t

/-- The warp waits as LWAIT 0 does, then ends. -/
def exitInstr (s : State) : Out :=
  match s.cur with
  | .warp t w => if (s.warp t w).queue.isEmpty then .next (s.endWarp t w) else stay s
  | _ => .next s.illegal

/-- SYS.EXIT (R99); in a handler warp it acts as TRET (R426). -/
def execSysExit (s : State) : Out := warpOnly [] [] s (exitInstr s)

/-- TRET (R426). -/
def execTret (s : State) : Out := warpOnly [] [] s (if (s.team s.me).handler then exitInstr s else .next s.illegal)

/-! ### Gathering fragments (R417 to R419) -/

/-- The die and the cluster whose Tin leaf gathers a team's fragments: where the team is, or where it last ran (R418). -/
def Team.leaf (T : Team) : Nat × Nat := if T.phase = .away then (T.ran / 8, T.ran % 8) else (T.die, T.core / 8)

/-- A parked fragment with a program-visible cause, of a warp that runs (R418). -/
def State.gathers (s : State) (f : Nat) : Bool :=
  match s.frags.find f with
  | none => false
  | some F => F.state == .parked && F.cause * 256 + F.detail != cABSENT && F.cause * 256 + F.detail != cFETCHABSENT && s.fragLive f

/-- A parked fragment that a cluster's Tin leaf may take, in the table or in the image of a suspended team. -/
def State.gatherable (s : State) (d c f : Nat) : Bool := s.gathers f && (s.team (s.frag f).team).leaf == (d, c)

/-- The fragment's number in its table, or its place in its team's image. -/
def State.fragId (s : State) (F : Frag) (f : Nat) : Nat := F.entry.getD ((s.team F.team).saved.findIdx (· == f))

/-- Fragments of an address space that wait at a cluster, by (core, warp, fragment ID). -/
def State.waitingFrags (s : State) (d c space : Nat) : List Nat :=
  (s.frags.foldl (fun l (f, F) =>
    let T := s.team F.team
    if s.gatherable d c f && T.space == space then insFrag (f, (T.core * 64 + (T.warp F.warp).slot) * 64 + s.fragId F f) l else l) ([] : List (Nat × Nat))).map (·.1)

/-- Address spaces with fragments that wait at a cluster and are due: 32 lanes wait, or the oldest has waited 5 us (R418). -/
def State.dueSpaces (s : State) (d c : Nat) : List Nat :=
  let spaces := s.frags.foldl (fun l (f, F) => if s.gatherable d c f then setIns (s.team F.team).space l else l) []
  spaces.filter fun sp =>
    let fs := s.waitingFrags d c sp
    decide ((fs.map fun f => count (s.frag f).mask).sum ≥ 32) || fs.any fun f => decide (s.now ≥ (s.frag f).at_ + Config.usCycles 5)

/-- Whole fragments in order, as long as their lanes fit 32 (DEDUCED, log entry 29). -/
def State.takeFrags (s : State) : Nat → List Nat → List Nat
  | _, [] => []
  | n, f :: r => if count (s.frag f).mask ≤ n then f :: s.takeFrags (n - count (s.frag f).mask) r else []

/-- The origin tag of a lane (R416). -/
def State.originTag (s : State) (f l : Nat) : Nat :=
  let F := s.frag f
  let T := s.team F.team
  T.core * 2 ^ 26 + (T.warp F.warp).slot * 2 ^ 20 + s.fragId F f % 32 * 2 ^ 15 + l * 2 ^ 10 + F.cause

/-- INFO of LORIGIN for a lane (R422). -/
def Frag.info (F : Frag) (l : Nat) : Nat := F.pc * 2 ^ 16 + F.straddle.toNat * 2 ^ 15 + (F.idle.getLsbD l).toNat * 2 ^ 8 + F.detail

/-- The handler team of some fragments (R419): one warp, PRIO 255, REGC 1, no sequencer (DEDUCED, log entry 29). -/
def State.formHandler (s : State) (d c sp entry lane arg : Nat) (fs : List Nat) : State :=
  let os : List Origin := fs.flatMap fun f =>
    let F := s.frag f
    (lanesOf F.mask).map fun l =>
      { frag := f, lane := l, tag := s.originTag f l, team := F.team, warp := F.warp, addr := F.addr, info := F.info l, ref := (s.team F.team).ref.getD 0 }
  let (t, s) := s.fresh
  let T : Team :=
    { origin := sp / 4096, die := d, core := 8 * c, asid := sp % 4096, prio := 255, part := 1, grid := 1 + 2 ^ 16 + 2 ^ 32, sentry := entry, lanebase := lane,
      args := BitVec.ofNat 64 arg, partition := (fs.head?.map fun f => (s.team (s.frag f).team).partition).getD 0, handler := true, ready := some s.now,
      warps := [(0, { dead := ~~~maskOf (List.range os.length), origins := os })] }
  { s with teams := s.teams.ins t T, frags := s.frags.each fun f F => if fs.contains f then { F with state := .handling, decided := [] } else F }

/-- One address space's fragments are gathered: a handler warp forms, or the lanes die NOHANDLER, with one event where the descriptor cannot be read
(R417); while the descriptor's page is absent, or a peer has not answered, they wait (DEDUCED, log entry 29). -/
def State.gather (s : State) (d c sp : Nat) : State :=
  let fs := s.waitingFrags d c sp
  let vec := ((s.die (sp / 4096)).space.get (sp % 4096 * 64) 0).toNat
  let j := Job.gather d c sp
  let nobody (s : State) : State := fs.foldl (fun s f => (s.killLanes (s.frag f).team (s.frag f).warp (s.frag f).mask 6).settle (s.frag f).team) s
  if vec = 0 then nobody s
  else match s.partRead j sp [vec, vec + 8, vec + 16] with
    | (none, s) => s
    | (some none, s) => nobody ((s.jobDone j).eventOpen (sp / 4096) vec)
    | (some (some ws), s) =>
      let s := s.jobDone j
      if ws.getD 0 0 = 0 then nobody s else s.formHandler d c sp (ws.getD 0 0) (ws.getD 1 0) (ws.getD 2 0) (s.takeFrags 32 fs)

/-- A sequencer's restart that waits for a descriptor in a peer window goes on (R411, R417). -/
def State.pendRestart (s : State) (t : Nat) : State :=
  let sp := (s.team t).space
  let x := ((s.die (sp / 4096)).space.get (sp % 4096 * 64) 0).toNat + 24
  if (s.team t).seq.restart.isNone || !isWindow x then s
  else match s.partLoad (.restart t) sp x with
    | (none, s) => s
    | (some v, s) => (State.seqRestart { s.jobDone (.restart t) with jobs := s.jobs ++ [(Job.restart t, x, v)] } t).jobDone (.restart t)

/-- All of them. -/
def State.pendRestarts (s : State) : State :=
  (Map.keys (s.teams.filter fun (_, T) => T.seq.restart.isSome)).foldl State.pendRestart s

/-- HANDLER_GATHER_TIMEOUT (R418): the Tin leaf of a cluster forms a handler warp; it pauses while the leaf restarts (R403). -/
def execHandlerGatherTimeout (die cluster : Nat) (s : State) : Out :=
  if ((s.die die).fw.get (1 + cluster) {}).restarting then .next s
  else match s.dueSpaces die cluster with
    | [] => .next s
    | l => let (k, s) := s.choose l.length; .next (s.gather die cluster (l.getD k 0))

/-! ### The trap instructions (R420 to R424) -/

/-- LTRAP (R421): the effective lanes park as one fragment; with m0 zero it has no effect. -/
def execLtrap (f : LaneWord) (s : State) : Out :=
  lane s fun t w b =>
    let (s, whole) := s.park t w b ((lanesOf (s.eff t w b f)).map fun l => ⟨l, cSWTRAP, f.imm.toNat % 2 ^ 16, false⟩)
    .next (if whole then (s.nextIdx t w b).settle t else s)

/-- A lane instruction of handler warps only (R420, R443). -/
def handlerLane (s : State) (k : Nat → Nat → Bool → Out) : Out :=
  lane s fun t w b => if (s.team t).handler then k t w b else .next (s.laneIllegal t w b)

/-- A handler lane decides its origin lane once: a resume point, or none for a kill (R424). A decision for a discarded fragment has no
effect (R425). -/
def State.decideLane (s : State) (t w l : Nat) (pt : Frag → Option Nat) : State :=
  match (s.warp t w).origins[l]? with
  | none => s
  | some o =>
    let s := s.modWarp t w fun W => { W with origins := W.origins.modify l fun o => { o with settled := true } }
    if o.settled || !s.fragLive o.frag then s
    else (s.modFrag o.frag fun F => { F with decided := F.decided ++ [(o.lane, pt F)] }).resolveFrag o.frag

/-- LRESUME and LKILL: the deciding lanes leave the handler block as for LEXIT. -/
def decideLanes (f : LaneWord) (reads : List Nat) (pt : Warp → Nat → Frag → Option Nat) (s : State) : Out :=
  handlerLane s fun t w b =>
    let W := s.warp t w
    let e := s.eff t w b f
    let bad := W.badLanes e reads
    let ls := e &&& ~~~bad
    let s := (lanesOf ls).foldl (fun s l => s.decideLane t w l (pt W l)) s
    .next (((s.exitLanes t w b ls).laneEnd t w b bad).settle t)

/-- LKILL (R424). -/
def execLkill (f : LaneWord) (s : State) : Out := decideLanes f [] (fun _ _ _ => none) s

/-- LRESUME (R424): RETRY, SKIP, or AT v[va][15:0]. -/
def execLresume (f : LaneWord) (s : State) : Out :=
  let mode := f.sub.toNat % 4
  decideLanes f (if mode = 2 then [f.va.toNat] else [])
    (fun W l F => some (if mode = 0 then F.pc else if mode = 1 then F.pc + 1 else (W.vw f.va.toNat l).toNat % 2 ^ 16)) s

/-- What LORIGIN gives a handler lane (R422); of a fragment that is gone, what it was when the handler warp was formed. -/
def State.originWord (s : State) (o : Origin) (sel : Nat) : Nat :=
  let F := s.frags.find o.frag
  match sel with
  | 0 => o.tag
  | 1 => ((F.map (·.addr)).getD o.addr) % 2 ^ 32
  | 2 => ((F.map (·.addr)).getD o.addr) / 2 ^ 32
  | 3 => (F.map (·.info o.lane)).getD o.info
  | _ => (F.map fun F => (s.team F.team).ref.getD 0).getD o.ref

/-- LORIGIN (R422). -/
def execLorigin (f : LaneWord) (s : State) : Out :=
  handlerLane s fun t w b =>
    let W := s.warp t w
    .next (((lanesOf (s.eff t w b f)).foldl (fun s l => match W.origins[l]? with
      | some o => s.modWarp t w (·.setV f.vd.toNat l (BitVec.ofNat 32 (s.originWord o (f.sub.toNat % 8))))
      | none => s) s).nextIdx t w b)

/-- The warp and the lane that a handler lane's origin is (R423): those of its fragment, which the origin keeps when the fragment is gone; none when
the warp's team has completed. -/
def State.originLane (s : State) (W : Warp) (l : Nat) : Option (Nat × Nat × Nat) :=
  (W.origins[l]?).bind fun o =>
    let (t, w) := match s.frags.find o.frag with | some F => (F.team, F.warp) | none => (o.team, o.warp)
    if (s.teams.find t).isSome then some (t, w, o.lane) else none

/-- VOGET (R423): the origin lane's register, through its register cache or its image; an uncorrectable word kills the handler lane, and
its origin lane dies NESTED. A register of a team that has completed is free. -/
def execVoget (f : LaneWord) (s : State) : Out :=
  handlerLane s fun t w b =>
    let W := s.warp t w
    let rs := regs1 (Lane.wide f.ty) f.va
    let ls := lanesOf (s.eff t w b f)
    let bad := maskOf (ls.filter fun l => (s.originLane W l).any fun (u, v, k) => rs.any fun r => (s.warp u v).badV.contains (32 * r + k))
    .next ((ls.foldl (fun s l =>
      if bad.getLsbD l then s
      else match s.originLane W l with
        | some (u, v, k) => s.modWarp t w (·.setVs l (out1 (Lane.wide f.ty) f.vd ((s.warp u v).vval (Lane.wide f.ty) f.va.toNat k)))
        | none =>
          let (x, s) := s.draw 64
          s.modWarp t w (·.setVs l (out1 (Lane.wide f.ty) f.vd x))) s).laneEnd t w b bad)

/-- VOPUT (R423): the origin lane's register takes opb; it replaces an uncorrectable word. -/
def execVoput (f : LaneWord) (s : State) : Out :=
  handlerLane s fun t w b =>
    let W := s.warp t w
    let e := s.eff t w b f
    let bad := W.badLanes e (regsB f (Lane.wide f.ty))
    .next (((lanesOf (e &&& ~~~bad)).foldl (fun s l => match s.originLane W l with
      | some (u, v, k) => s.modWarp u v (·.setVs k (out1 (Lane.wide f.ty) f.vd (W.opb f (Lane.wide f.ty) l)))
      | none => s) s).laneEnd t w b bad)

/-! ### The PRIV family (R49, R435 to R440) -/

/-- The frame of the PRIV family: it runs where R49 allows it, and elsewhere is illegal before it reads a register (DEDUCED, log entry 30). -/
def priv (fields : List Reg) (reads : List Nat) (s : State) (k : Out) : Out :=
  warpOnly fields (if s.mayPriv then reads else []) s (if s.mayPriv then k else .next s.illegal)

/-- An operand of another partition (R435): PERMISSION, detail PARTITION, with a fault address that the manual does not state (DEDUCED, log entry 30). -/
def State.foreign (s : State) : State :=
  let (x, s) := s.draw 64
  s.streamFault { code := cPARTITION, addr := x }

/-- FRAGRD (R437). -/
def execFragrd (d a b : Reg) (s : State) : Out :=
  priv [d, a, b] [a.toNat, b.toNat] s <|
    let x := (s.reg a).toNat
    let T := s.team s.me
    let c := bits x 31 26
    if c / 8 ≠ T.core / 8 then .next s.foreign
    else
      let hit := s.frags.find? fun (_, F) =>
        let U := s.team F.team
        U.die == T.die && U.core == c && F.entry == some (bits x 19 15) && (U.warp F.warp).slot == bits x 25 20 && F.mask.getLsbD (bits x 14 10) && F.cause == bits x 7 0
      .next (s.result d (match hit with | some (_, F) => BitVec.ofNat 64 (s.fragWord F ((s.reg b).toNat % 4)) | none => 0))

/-- A page range of PINV, CWB and CINV (R438): ASID, first address, and length in bytes, none for the whole address space. -/
structure PageRange where
  asid : Nat
  start : Nat
  len : Option Nat
  deriving DecidableEq, Repr

/-- The range holds some byte of [base, base + size). -/
def PageRange.meets (r : PageRange) (asid base size : Nat) : Bool :=
  r.asid == asid && match r.len with | none => true | some n => decide (base < r.start + n) && decide (r.start < base + size)

/-- The frame of PINV, CWB and CINV: the issuing die and the range. -/
def rangeOp (a b : Reg) (s : State) (k : Nat → PageRange → State → State) : Out :=
  priv [a, b] [a.toNat, b.toNat] s <|
    let y := (s.reg b).toNat
    let T := s.team s.me
    let r : PageRange := ⟨bits y 43 32, (s.reg a).toNat / 4096 * 4096, if bits y 31 0 = 0 then none else some (bits y 31 0 * 4096)⟩
    match s.partitionOf T.die r.asid with
    | some (p, _) => if p ≠ T.partition then .next s.foreign else .next ((k T.die r s).advance 4)
    | none => .next ((k T.die r s).advance 4)

/-- PINV (R438): translations of the range leave the base dies and the filters, import indices included; the range's mappings are no longer in
use (R179). -/
def Die.pinv (D : Die) (r : PageRange) : Die :=
  { D with
      tcache := D.tcache.each fun _ ts => ts.filter fun t => !r.meets (t.page.space % 4096) t.page.base t.page.size
      uses := (D.uses.each fun _ us => us.filter fun u => !r.meets (u.space % 4096) (u.va * 128) 128).filter fun (_, us) => !us.isEmpty
      filters := D.filters.each fun _ ps => ps.filter fun p => !r.meets (p.space % 4096) p.base p.size
      imports := D.imports.filter fun (k, _) => !r.meets (k / 65536) (15 * 2 ^ 48 + k % 65536 * 2 ^ 32) (2 ^ 32) }

def execPinv (a b : Reg) (s : State) : Out := rangeOp a b s fun d r s => s.modDie d (·.pinv r)

/-- A cached line lies in the range. -/
def CLine.inRange (l : CLine) (r : PageRange) : Bool := r.meets (l.asid % 4096) (l.va * 128) 128

/-- CWB (R438): dirty lines of the range are written back through their recorded addresses, which the dirty map records (R439). -/
def State.cwb (s : State) (d : Nat) (r : PageRange) : State :=
  (s.writeBack d ((s.die d).lines.filter (·.inRange r))).modDie d fun D =>
    { D with lines := D.lines.map fun l => if l.inRange r then { l with dirty := false } else l }

def execCwb (a b : Reg) (s : State) : Out := rangeOp a b s fun d r s => s.cwb d r

/-- CINV (R438): written back, then removed from the die cache, the L1s and the instruction caches; fetches find no older words of the range (R42). -/
def State.cinv (s : State) (d : Nat) (r : PageRange) : State :=
  let out (ls : List CLine) : List CLine := ls.filter fun l => !l.inRange r
  let s := (s.cwb d r).modDie d fun D => { D with lines := out D.lines, l1 := D.l1.each (fun _ ls => out ls), icache := D.icache.each fun _ ls => out ls }
  let stale (k : Nat) : Bool := !((s.die d).mapsOf d (4 * k)).any fun u => r.meets (u.space % 4096) (u.va * 128) 128
  { s with teams := s.teams.each fun _ T => if T.origin = d then { T with old := T.old.filter fun (k, _) => stale k } else T }

def execCinv (a b : Reg) (s : State) : Out := rangeOp a b s fun d r s => s.cinv d r

/-- A 2 MiB frame is another partition's: address spaces map it, and none of them is the partition's (R435) (DEDUCED, log entry 30). -/
def State.frameForeign (s : State) (d p frame : Nat) : Bool :=
  let ps := ((s.die d).spacesOf d frame).filterMap fun sp => (s.partitionOf d (sp % 4096)).map (·.1)
  !ps.isEmpty && !ps.contains p

/-- DIRTYGET (R439) (DEDUCED, log entry 30). -/
def execDirtyget (d a b : Reg) (s : State) : Out :=
  priv [d, a, b] [a.toNat, b.toNat] s <|
    let x := (s.reg a).toNat
    let die := (s.team s.me).die
    let first := x / 2 ^ 22 * 2
    if x ≥ Config.physBytes then .next (s.streamFault { code := cBADPFN, addr := x })
    else if s.frameForeign die (s.team s.me).partition first || s.frameForeign die (s.team s.me).partition (first + 1) then .next s.foreign
    else
      let base := x / 2 ^ 22 * 64
      let hits := (s.die die).dirty.filter fun g => decide (base ≤ g) && decide (g < base + 64)
      let v := (hits.map fun g => 2 ^ (g - base)).sum
      let s := if (s.reg b).getLsbD 0 then s else s.modDie die fun D => { D with dirty := D.dirty.filter fun g => !hits.contains g }
      .next (s.result d (BitVec.ofNat 64 v))

/-- Every running warp and the sequencer of a team stop, without reports; the matrix operations that it has issued complete, those of a replay list among
them, and a team that was to leave its core stays there for them (R440). -/
def State.haltTeam (s : State) (u : Nat) : State :=
  let s := (Map.keys ((s.team u).warps.filter fun (_, W) => W.life == .running)).foldl (fun s w => s.haltWarp u w) s
  s.modTeam u fun T =>
    { T with halt := true, faulted := true, mq := T.mq ++ T.replay, replay := [], frozen := false, leaving := false, held := none
             seq := { T.seq with life := if T.seq.life = .running then .halted else T.seq.life, wait := .none, asks := [], restart := none } }

/-- TEAMHALT (R440) (DEDUCED, log entry 30). -/
def execTeamhalt (d a : Reg) (s : State) : Out :=
  priv [d, a] [a.toNat] s <|
    let T := s.team s.me
    match s.teams.find? fun (_, U) => U.origin == T.die && U.ref == some ((s.reg a).toNat % 2 ^ 32) with
    | none => .next (s.result d 1)
    | some (u, U) => if U.partition ≠ T.partition then .next s.foreign else .next ((s.result d 0).haltTeam u)

end Sys2Proof.Machine
end

