-- ==== Sys2Proof/Machine/Dispatch.lean ====
section
/-! DEFINITION. The meaning of every operation of the table: one arm per constructor, each one direct call. -/

namespace Sys2Proof.Machine

def exec (i : Instr) (s : State) : Host.Outcome State Fault Refusal :=
  match i with
  | .add d a b => Sys2Proof.Machine.execAdd d a b s
  | .sub d a b => Sys2Proof.Machine.execSub d a b s
  | .and d a b => Sys2Proof.Machine.execAnd d a b s
  | .or d a b => Sys2Proof.Machine.execOr d a b s
  | .xor d a b => Sys2Proof.Machine.execXor d a b s
  | .andn d a b => Sys2Proof.Machine.execAndn d a b s
  | .shl d a b => Sys2Proof.Machine.execShl d a b s
  | .shr d a b => Sys2Proof.Machine.execShr d a b s
  | .sar d a b => Sys2Proof.Machine.execSar d a b s
  | .mul d a b => Sys2Proof.Machine.execMul d a b s
  | .mulhu d a b => Sys2Proof.Machine.execMulhu d a b s
  | .mulhs d a b => Sys2Proof.Machine.execMulhs d a b s
  | .divu d a b => Sys2Proof.Machine.execDivu d a b s
  | .remu d a b => Sys2Proof.Machine.execRemu d a b s
  | .divs d a b => Sys2Proof.Machine.execDivs d a b s
  | .rems d a b => Sys2Proof.Machine.execRems d a b s
  | .min d a b => Sys2Proof.Machine.execMin d a b s
  | .max d a b => Sys2Proof.Machine.execMax d a b s
  | .minu d a b => Sys2Proof.Machine.execMinu d a b s
  | .maxu d a b => Sys2Proof.Machine.execMaxu d a b s
  | .clz d a => Sys2Proof.Machine.execClz d a s
  | .ctz d a => Sys2Proof.Machine.execCtz d a s
  | .popc d a => Sys2Proof.Machine.execPopc d a s
  | .seq d a b => Sys2Proof.Machine.execSeq d a b s
  | .sne d a b => Sys2Proof.Machine.execSne d a b s
  | .slt d a b => Sys2Proof.Machine.execSlt d a b s
  | .sltu d a b => Sys2Proof.Machine.execSltu d a b s
  | .sle d a b => Sys2Proof.Machine.execSle d a b s
  | .sleu d a b => Sys2Proof.Machine.execSleu d a b s
  | .cmov d a b => Sys2Proof.Machine.execCmov d a b s
  | .bfx d a b => Sys2Proof.Machine.execBfx d a b s
  | .bfi d a b => Sys2Proof.Machine.execBfi d a b s
  | .addi d a imm => Sys2Proof.Machine.execAddi d a imm s
  | .andi d a imm => Sys2Proof.Machine.execAndi d a imm s
  | .ori d a imm => Sys2Proof.Machine.execOri d a imm s
  | .xori d a imm => Sys2Proof.Machine.execXori d a imm s
  | .shli d a n => Sys2Proof.Machine.execShli d a n s
  | .shri d a n => Sys2Proof.Machine.execShri d a n s
  | .sari d a n => Sys2Proof.Machine.execSari d a n s
  | .slti d a imm => Sys2Proof.Machine.execSlti d a imm s
  | .sltui d a imm => Sys2Proof.Machine.execSltui d a imm s
  | .seqi d a imm => Sys2Proof.Machine.execSeqi d a imm s
  | .sld d a sz imm => Sys2Proof.Machine.execSld d a sz imm s
  | .sldz d a sz imm => Sys2Proof.Machine.execSldz d a sz imm s
  | .sst d a sz imm => Sys2Proof.Machine.execSst d a sz imm s
  | .sldp d a sz imm => Sys2Proof.Machine.execSldp d a sz imm s
  | .sstp d a sz imm => Sys2Proof.Machine.execSstp d a sz imm s
  | .satomAdd d a b scope wide => Sys2Proof.Machine.execSatomAdd d a b scope wide s
  | .satomAnd d a b scope wide => Sys2Proof.Machine.execSatomAnd d a b scope wide s
  | .satomOr d a b scope wide => Sys2Proof.Machine.execSatomOr d a b scope wide s
  | .satomXor d a b scope wide => Sys2Proof.Machine.execSatomXor d a b scope wide s
  | .satomMin d a b scope wide => Sys2Proof.Machine.execSatomMin d a b scope wide s
  | .satomMax d a b scope wide => Sys2Proof.Machine.execSatomMax d a b scope wide s
  | .satomMinu d a b scope wide => Sys2Proof.Machine.execSatomMinu d a b scope wide s
  | .satomMaxu d a b scope wide => Sys2Proof.Machine.execSatomMaxu d a b scope wide s
  | .satomXchg d a b scope wide => Sys2Proof.Machine.execSatomXchg d a b scope wide s
  | .satomCas d a b scope wide => Sys2Proof.Machine.execSatomCas d a b scope wide s
  | .br cc a b off => Sys2Proof.Machine.execBr cc a b off s
  | .j off => Sys2Proof.Machine.execJ off s
  | .jal off => Sys2Proof.Machine.execJal off s
  | .jr d a imm => Sys2Proof.Machine.execJr d a imm s
  | .lgo a imm => Sys2Proof.Machine.execLgo a imm s
  | .lwait n => Sys2Proof.Machine.execLwait n s
  | .fence order scope ack opr => Sys2Proof.Machine.execFence order scope ack opr s
  | .sysNop => Sys2Proof.Machine.execSysNop s
  | .sysExit => Sys2Proof.Machine.execSysExit s
  | .sysYield => Sys2Proof.Machine.execSysYield s
  | .sysSleep a => Sys2Proof.Machine.execSysSleep a s
  | .sysTrap a => Sys2Proof.Machine.execSysTrap a s
  | .sysBrk => Sys2Proof.Machine.execSysBrk s
  | .sysClock d => Sys2Proof.Machine.execSysClock d s
  | .sysPtpread d a => Sys2Proof.Machine.execSysPtpread d a s
  | .sget d idx => Sys2Proof.Machine.execSget d idx s
  | .sput a idx => Sys2Proof.Machine.execSput a idx s
  | .awinit a b => Sys2Proof.Machine.execAwinit a b s
  | .awexpect d a b => Sys2Proof.Machine.execAwexpect d a b s
  | .awarrive d a b => Sys2Proof.Machine.execAwarrive d a b s
  | .awwait d a b => Sys2Proof.Machine.execAwwait d a b s
  | .awtest d a b => Sys2Proof.Machine.execAwtest d a b s
  | .phnew d a b => Sys2Proof.Machine.execPhnew d a b s
  | .phfree d a => Sys2Proof.Machine.execPhfree d a s
  | .phjoin d a b => Sys2Proof.Machine.execPhjoin d a b s
  | .phleave d a => Sys2Proof.Machine.execPhleave d a s
  | .phsig d a b => Sys2Proof.Machine.execPhsig d a b s
  | .phsigb d a b => Sys2Proof.Machine.execPhsigb d a b s
  | .phwait d a b => Sys2Proof.Machine.execPhwait d a b s
  | .phtest d a b => Sys2Proof.Machine.execPhtest d a b s
  | .phany d a b => Sys2Proof.Machine.execPhany d a b s
  | .phval d a b => Sys2Proof.Machine.execPhval d a b s
  | .phread d a => Sys2Proof.Machine.execPhread d a s
  | .cpy d a b phs sto => Sys2Proof.Machine.execCpy d a b phs sto s
  | .cpy2 d a b phs sto => Sys2Proof.Machine.execCpy2 d a b phs sto s
  | .cpyw d a b phs sto => Sys2Proof.Machine.execCpyw d a b phs sto s
  | .cpyx d a b phs sto => Sys2Proof.Machine.execCpyx d a b phs sto s
  | .cpyfill d a b phs sto => Sys2Proof.Machine.execCpyfill d a b phs sto s
  | .cpyr d a b phs ord sto => Sys2Proof.Machine.execCpyr d a b phs ord sto s
  | .cpyst d b => Sys2Proof.Machine.execCpyst d b s
  | .cpycan d b => Sys2Proof.Machine.execCpycan d b s
  | .nput d a b => Sys2Proof.Machine.execNput d a b s
  | .nget d a b => Sys2Proof.Machine.execNget d a b s
  | .natom d a b => Sys2Proof.Machine.execNatom d a b s
  | .nsend d a b => Sys2Proof.Machine.execNsend d a b s
  | .nkey d a => Sys2Proof.Machine.execNkey d a s
  | .nchain d a b => Sys2Proof.Machine.execNchain d a b s
  | .npoll d a => Sys2Proof.Machine.execNpoll d a s
  | .nrxpop d a b => Sys2Proof.Machine.execNrxpop d a b s
  | .enq d a b => Sys2Proof.Machine.execEnq d a b s
  | .enqst d a => Sys2Proof.Machine.execEnqst d a s
  | .qwait d a b => Sys2Proof.Machine.execQwait d a b s
  | .mighint d a => Sys2Proof.Machine.execMighint d a s
  | .tret => Sys2Proof.Machine.execTret s
  | .fragrd d a b => Sys2Proof.Machine.execFragrd d a b s
  | .pinv a b => Sys2Proof.Machine.execPinv a b s
  | .cwb a b => Sys2Proof.Machine.execCwb a b s
  | .cinv a b => Sys2Proof.Machine.execCinv a b s
  | .dirtyget d a b => Sys2Proof.Machine.execDirtyget d a b s
  | .teamhalt d a => Sys2Proof.Machine.execTeamhalt d a s
  | .li d imm => Sys2Proof.Machine.execLi d imm s
  | .lih d imm => Sys2Proof.Machine.execLih d imm s
  | .addx d a imm => Sys2Proof.Machine.execAddx d a imm s
  | .mzero t => Sys2Proof.Machine.execMzero t s
  | .macc g a b save t => Sys2Proof.Machine.execMacc g a b save t s
  | .mdrain g z rnd lc a b fmt t => Sys2Proof.Machine.execMdrain g z rnd lc a b fmt t s
  | .mchk d t => Sys2Proof.Machine.execMchk d t s
  | .mloc d t => Sys2Proof.Machine.execMloc d t s
  | .mfix a t => Sys2Proof.Machine.execMfix a t s
  | .mwait => Sys2Proof.Machine.execMwait s
  | .mma t a b slot bi4 lc k ap sp => Sys2Proof.Machine.execMma t a b slot bi4 lc k ap sp s
  | .mmas t a b slot bi4 lc k ap sp => Sys2Proof.Machine.execMmas t a b slot bi4 lc k ap sp s
  | .vadd f => Sys2Proof.Machine.execVadd f s
  | .vsub f => Sys2Proof.Machine.execVsub f s
  | .vmul f => Sys2Proof.Machine.execVmul f s
  | .vmulh f => Sys2Proof.Machine.execVmulh f s
  | .vmad f => Sys2Proof.Machine.execVmad f s
  | .vaddc f => Sys2Proof.Machine.execVaddc f s
  | .vand f => Sys2Proof.Machine.execVand f s
  | .vor f => Sys2Proof.Machine.execVor f s
  | .vxor f => Sys2Proof.Machine.execVxor f s
  | .vshl f => Sys2Proof.Machine.execVshl f s
  | .vshr f => Sys2Proof.Machine.execVshr f s
  | .vsar f => Sys2Proof.Machine.execVsar f s
  | .vmin f => Sys2Proof.Machine.execVmin f s
  | .vmax f => Sys2Proof.Machine.execVmax f s
  | .vabs f => Sys2Proof.Machine.execVabs f s
  | .vclz f => Sys2Proof.Machine.execVclz f s
  | .vpopc f => Sys2Proof.Machine.execVpopc f s
  | .vbfx f => Sys2Proof.Machine.execVbfx f s
  | .vbfi f => Sys2Proof.Machine.execVbfi f s
  | .vicmp f => Sys2Proof.Machine.execVicmp f s
  | .vsel f => Sys2Proof.Machine.execVsel f s
  | .vmov f => Sys2Proof.Machine.execVmov f s
  | .vdiv f => Sys2Proof.Machine.execVdiv f s
  | .vrem f => Sys2Proof.Machine.execVrem f s
  | .vsad f => Sys2Proof.Machine.execVsad f s
  | .vdot4 f => Sys2Proof.Machine.execVdot4 f s
  | .vsreg f => Sys2Proof.Machine.execVsreg f s
  | .vfadd f => Sys2Proof.Machine.execVfadd f s
  | .vfsub f => Sys2Proof.Machine.execVfsub f s
  | .vfmul f => Sys2Proof.Machine.execVfmul f s
  | .vfma f => Sys2Proof.Machine.execVfma f s
  | .vfmin f => Sys2Proof.Machine.execVfmin f s
  | .vfmax f => Sys2Proof.Machine.execVfmax f s
  | .vfcmp f => Sys2Proof.Machine.execVfcmp f s
  | .vfclass f => Sys2Proof.Machine.execVfclass f s
  | .vfrcp f => Sys2Proof.Machine.execVfrcp f s
  | .vfrsq f => Sys2Proof.Machine.execVfrsq f s
  | .vfsqrt f => Sys2Proof.Machine.execVfsqrt f s
  | .vfdiv f => Sys2Proof.Machine.execVfdiv f s
  | .vfexp2 f => Sys2Proof.Machine.execVfexp2 f s
  | .vflog2 f => Sys2Proof.Machine.execVflog2 f s
  | .vfsin f => Sys2Proof.Machine.execVfsin f s
  | .vfcos f => Sys2Proof.Machine.execVfcos f s
  | .vfrnd f => Sys2Proof.Machine.execVfrnd f s
  | .vfldexp f => Sys2Proof.Machine.execVfldexp f s
  | .vfgetexp f => Sys2Proof.Machine.execVfgetexp f s
  | .vcvt f => Sys2Proof.Machine.execVcvt f s
  | .vqnt f => Sys2Proof.Machine.execVqnt f s
  | .vdqnt f => Sys2Proof.Machine.execVdqnt f s
  | .vshfl f => Sys2Proof.Machine.execVshfl f s
  | .vbcast f => Sys2Proof.Machine.execVbcast f s
  | .vvote f => Sys2Proof.Machine.execVvote f s
  | .vreduce f => Sys2Proof.Machine.execVreduce f s
  | .vscan f => Sys2Proof.Machine.execVscan f s
  | .vmatch f => Sys2Proof.Machine.execVmatch f s
  | .mlog f => Sys2Proof.Machine.execMlog f s
  | .mpopc f => Sys2Proof.Machine.execMpopc f s
  | .mfirst f => Sys2Proof.Machine.execMfirst f s
  | .mset f => Sys2Proof.Machine.execMset f s
  | .mget f => Sys2Proof.Machine.execMget f s
  | .mput f => Sys2Proof.Machine.execMput f s
  | .lbr f => Sys2Proof.Machine.execLbr f s
  | .ljmp f => Sys2Proof.Machine.execLjmp f s
  | .ljmpi f => Sys2Proof.Machine.execLjmpi f s
  | .lpad f => Sys2Proof.Machine.execLpad f s
  | .lcall f => Sys2Proof.Machine.execLcall f s
  | .lcalli f => Sys2Proof.Machine.execLcalli f s
  | .lret f => Sys2Proof.Machine.execLret f s
  | .ljoin f => Sys2Proof.Machine.execLjoin f s
  | .lend f => Sys2Proof.Machine.execLend f s
  | .lexit f => Sys2Proof.Machine.execLexit f s
  | .lbar f => Sys2Proof.Machine.execLbar f s
  | .lfrag f => Sys2Proof.Machine.execLfrag f s
  | .lnop f => Sys2Proof.Machine.execLnop f s
  | .vld f => Sys2Proof.Machine.execVld f s
  | .vst f => Sys2Proof.Machine.execVst f s
  | .vldp f => Sys2Proof.Machine.execVldp f s
  | .vstp f => Sys2Proof.Machine.execVstp f s
  | .vldf f => Sys2Proof.Machine.execVldf f s
  | .vatom f => Sys2Proof.Machine.execVatom f s
  | .vred f => Sys2Proof.Machine.execVred f s
  | .vcas f => Sys2Proof.Machine.execVcas f s
  | .vpref f => Sys2Proof.Machine.execVpref f s
  | .vldr f => Sys2Proof.Machine.execVldr f s
  | .vstr f => Sys2Proof.Machine.execVstr f s
  | .vatomr f => Sys2Proof.Machine.execVatomr f s
  | .vfence f => Sys2Proof.Machine.execVfence f s
  | .ltrap f => Sys2Proof.Machine.execLtrap f s
  | .lkill f => Sys2Proof.Machine.execLkill f s
  | .lresume f => Sys2Proof.Machine.execLresume f s
  | .lorigin f => Sys2Proof.Machine.execLorigin f s
  | .voget f => Sys2Proof.Machine.execVoget f s
  | .voput f => Sys2Proof.Machine.execVoput f s
  | .hostMemoryWrite fn off data => Sys2Proof.Machine.execHostMemoryWrite fn off data s
  | .hostMemoryRead fn off n => Sys2Proof.Machine.execHostMemoryRead fn off n s
  | .hostRegisterWrite fn off data => Sys2Proof.Machine.execHostRegisterWrite fn off data s
  | .framefmt fn => Sys2Proof.Machine.execFramefmt fn s
  | .partset fn => Sys2Proof.Machine.execPartset fn s
  | .partstop fn => Sys2Proof.Machine.execPartstop fn s
  | .partgo fn => Sys2Proof.Machine.execPartgo fn s
  | .pstate fn => Sys2Proof.Machine.execPstate fn s
  | .cstep fn => Sys2Proof.Machine.execCstep fn s
  | .powercap fn => Sys2Proof.Machine.execPowercap fn s
  | .fwload fn => Sys2Proof.Machine.execFwload fn s
  | .diereset fn => Sys2Proof.Machine.execDiereset fn s
  | .commandCompletion fn => Sys2Proof.Machine.execCommandCompletion fn s
  | .getVersion msg => Sys2Proof.Machine.execGetVersion msg s
  | .getCapabilities msg => Sys2Proof.Machine.execGetCapabilities msg s
  | .negotiateAlgorithms msg => Sys2Proof.Machine.execNegotiateAlgorithms msg s
  | .getDigests msg => Sys2Proof.Machine.execGetDigests msg s
  | .getCertificate msg => Sys2Proof.Machine.execGetCertificate msg s
  | .challenge msg => Sys2Proof.Machine.execChallenge msg s
  | .getMeasurements index => Sys2Proof.Machine.execGetMeasurements index s
  | .coldReset => Sys2Proof.Machine.execColdReset s
  | .powerLoss => Sys2Proof.Machine.execPowerLoss s
  | .powerMeasurement watts => Sys2Proof.Machine.execPowerMeasurement watts s
  | .clockStepChangeDone die => Sys2Proof.Machine.execClockStepChangeDone die s
  | .thermalTrip die => Sys2Proof.Machine.execThermalTrip die s
  | .thermalTripEnd die => Sys2Proof.Machine.execThermalTripEnd die s
  | .thermalShutdown die => Sys2Proof.Machine.execThermalShutdown die s
  | .watchdogKick die core => Sys2Proof.Machine.execWatchdogKick die core s
  | .watchdogExpiry die core => Sys2Proof.Machine.execWatchdogExpiry die core s
  | .firmwareTablesRebuilt die core => Sys2Proof.Machine.execFirmwareTablesRebuilt die core s
  | .commandLinkMessage die leaf toLeaf msg => Sys2Proof.Machine.execCommandLinkMessage die leaf toLeaf msg s
  | .mappingTick die => Sys2Proof.Machine.execMappingTick die s
  | .bundleStart die qsb => Sys2Proof.Machine.execBundleStart die qsb s
  | .teamPlace t core => Sys2Proof.Machine.execTeamPlace t core s
  | .preemptWaitExpiry t => Sys2Proof.Machine.execPreemptWaitExpiry t s
  | .teamRestore t core => Sys2Proof.Machine.execTeamRestore t core s
  | .teamComplete t => Sys2Proof.Machine.execTeamComplete t s
  | .bundleRetire b => Sys2Proof.Machine.execBundleRetire b s
  | .shareWindowEnd die => Sys2Proof.Machine.execShareWindowEnd die s
  | .slotAdvertise die => Sys2Proof.Machine.execSlotAdvertise die s
  | .migrationSend t die => Sys2Proof.Machine.execMigrationSend t die s
  | .sleepExpiry t w => Sys2Proof.Machine.execSleepExpiry t w s
  | .qwaitTimeout t w => Sys2Proof.Machine.execQwaitTimeout t w s
  | .laneBlockStart t w => Sys2Proof.Machine.execLaneBlockStart t w s
  | .slotTakesWork t w slotB => Sys2Proof.Machine.execSlotTakesWork t w slotB s
  | .joinExpiry t w id => Sys2Proof.Machine.execJoinExpiry t w id s
  | .demandPageResolved die asid page => Sys2Proof.Machine.execDemandPageResolved die asid page s
  | .handlerGatherTimeout die cluster => Sys2Proof.Machine.execHandlerGatherTimeout die cluster s
  | .translationReply die core asid va store => Sys2Proof.Machine.execTranslationReply die core asid va store s
  | .regcacheFillDone t w v => Sys2Proof.Machine.execRegcacheFillDone t w v s
  | .loadDataReturn t w slotB => Sys2Proof.Machine.execLoadDataReturn t w slotB s
  | .wayDisable struct set way => Sys2Proof.Machine.execWayDisable struct set way s
  | .groupRetire die frame group => Sys2Proof.Machine.execGroupRetire die frame group s
  | .streamSlotAccept die => Sys2Proof.Machine.execStreamSlotAccept die s
  | .copyChunk engine serial => Sys2Proof.Machine.execCopyChunk engine serial s
  | .copyComplete engine serial => Sys2Proof.Machine.execCopyComplete engine serial s
  | .matrixOpStart t => Sys2Proof.Machine.execMatrixOpStart t s
  | .mmaAttemptDone t => Sys2Proof.Machine.execMmaAttemptDone t s
  | .matrixOpComplete t => Sys2Proof.Machine.execMatrixOpComplete t s
  | .gauzeSignal node m => Sys2Proof.Machine.execGauzeSignal node m s
  | .gauzeComplete node m => Sys2Proof.Machine.execGauzeComplete node m s
  | .gauzeJoin node m => Sys2Proof.Machine.execGauzeJoin node m s
  | .gauzeLeave node m => Sys2Proof.Machine.execGauzeLeave node m s
  | .gauzeCreate node m => Sys2Proof.Machine.execGauzeCreate node m s
  | .gauzeCreateReply node m => Sys2Proof.Machine.execGauzeCreateReply node m s
  | .gauzeFree node m => Sys2Proof.Machine.execGauzeFree node m s
  | .gauzeLate node m => Sys2Proof.Machine.execGauzeLate node m s
  | .gauzeBroken node m => Sys2Proof.Machine.execGauzeBroken node m s
  | .gauzeCredit node m => Sys2Proof.Machine.execGauzeCredit node m s
  | .gauzeJoinReply node m => Sys2Proof.Machine.execGauzeJoinReply node m s
  | .gauzeReservedFlit node m => Sys2Proof.Machine.execGauzeReservedFlit node m s
  | .gauzePortLost port => Sys2Proof.Machine.execGauzePortLost port s
  | .valuePhaseTimeout node entry => Sys2Proof.Machine.execValuePhaseTimeout node entry s
  | .twillRead p => Sys2Proof.Machine.execTwillRead p s
  | .twillWrite p => Sys2Proof.Machine.execTwillWrite p s
  | .twillAtomic p => Sys2Proof.Machine.execTwillAtomic p s
  | .twillData p => Sys2Proof.Machine.execTwillData p s
  | .twillAck p => Sys2Proof.Machine.execTwillAck p s
  | .twillNak p => Sys2Proof.Machine.execTwillNak p s
  | .twillReservedPacket p => Sys2Proof.Machine.execTwillReservedPacket p s
  | .ucieLinkFailure a b => Sys2Proof.Machine.execUcieLinkFailure a b s
  | .twillPortFailure port => Sys2Proof.Machine.execTwillPortFailure port s
  | .routeLostTimeout req => Sys2Proof.Machine.execRouteLostTimeout req s
  | .keyInstallation part peer vcIntegrity => Sys2Proof.Machine.execKeyInstallation part peer vcIntegrity s
  | .calicoWrite grp p => Sys2Proof.Machine.execCalicoWrite grp p s
  | .calicoRead grp p => Sys2Proof.Machine.execCalicoRead grp p s
  | .calicoData grp p => Sys2Proof.Machine.execCalicoData grp p s
  | .calicoAtomic grp p => Sys2Proof.Machine.execCalicoAtomic grp p s
  | .calicoAtomresp grp p => Sys2Proof.Machine.execCalicoAtomresp grp p s
  | .calicoAck grp p => Sys2Proof.Machine.execCalicoAck grp p s
  | .calicoNak grp p => Sys2Proof.Machine.execCalicoNak grp p s
  | .calicoBadPacket grp p => Sys2Proof.Machine.execCalicoBadPacket grp p s
  | .calicoRetransmitTimeout grp opid n => Sys2Proof.Machine.execCalicoRetransmitTimeout grp opid n s
  | .messageRecordRelease grp src opid => Sys2Proof.Machine.execMessageRecordRelease grp src opid s
  | .messageRecordAgeOut grp src opid => Sys2Proof.Machine.execMessageRecordAgeOut grp src opid s
  | .frameReceive f => Sys2Proof.Machine.execFrameReceive f s
  | .frameSent grp opid => Sys2Proof.Machine.execFrameSent grp opid s
  | .illegalInstruction => Sys2Proof.Machine.execIllegalInstruction s
  | .fetchFault cause detail addr straddle => Sys2Proof.Machine.execFetchFault cause detail addr straddle s
  | .linkLevelRetry link => Sys2Proof.Machine.execLinkLevelRetry link s
  | .linkRepair a b => Sys2Proof.Machine.execLinkRepair a b s
  | .gauzeNodeFailure node => Sys2Proof.Machine.execGauzeNodeFailure node s

end Sys2Proof.Machine
end

