-- ==== Sys2Proof/Machine/Shadow.lean ====
section
/-! DEFINITION. Shadow pairing (R427 to R430): what a leader issues goes to its trailer as a record, and the trailer executes it with its own
registers, behind the leader. Results from outside the warp come from the leader through the load queue; outbound effects wait in the comparison buffer
until the trailer has produced its own. -/

namespace Sys2Proof.Machine

/-- Entries of a load queue (R428) and of a comparison buffer (R429). -/
def loadQueue : Nat := 64
def compareBuffer : Nat := 32

/-! ### Results and effects (R428, R429) -/

/-- Scalar registers that take a result from outside the warp: loads, old values of atomics, SGET, clocks, phaser, arrival-word, copy, queue and
network results (R428). -/
def takesScalar (i : Instr) : List Reg :=
  match i with
  | .sld d .. | .sldz d .. | .sldp d .. | .satomAdd d .. | .satomAnd d .. | .satomOr d .. | .satomXor d .. | .satomMin d .. | .satomMax d ..
  | .satomMinu d .. | .satomMaxu d .. | .satomXchg d .. | .satomCas d .. | .sget d .. | .sysClock d | .awexpect d .. | .awarrive d .. | .awwait d ..
  | .awtest d .. | .phnew d .. | .phfree d .. | .phjoin d .. | .phleave d .. | .phsig d .. | .phsigb d .. | .phwait d .. | .phtest d .. | .phany d ..
  | .phval d .. | .phread d .. | .cpy d .. | .cpy2 d .. | .cpyw d .. | .cpyx d .. | .cpyfill d .. | .cpyr d .. | .cpyst d .. | .cpycan d ..
  | .nput d .. | .nget d .. | .natom d .. | .nsend d .. | .nkey d .. | .nchain d .. | .npoll d .. | .nrxpop d .. | .enq d .. | .enqst d ..
  | .qwait d .. | .mighint d .. | .fragrd d .. | .dirtyget d .. | .teamhalt d .. => [d]
  | .sysPtpread d a => [d, a]
  | _ => []

/-- Lane instructions whose result comes from outside the warp (R428). -/
def takesLane (i : Instr) : Bool :=
  match i with
  | .lfrag _ | .vld _ | .vldp _ | .vldf _ | .vatom _ | .vcas _ | .vldr _ | .vatomr _ | .voget _ | .lorigin _ => true
  | _ => false

/-- The instruction sends a result through the load queue. -/
def takesResult (i : Instr) : Bool := !(takesScalar i).isEmpty || takesLane i

/-- The registers that give a scalar outbound effect its address, data and operation, each with the bits of it that count: stores, atomics, CPY, NET
and LAUNCH issues, phaser signals, arrival-word updates and SPUT (R429). -/
def outScalar (i : Instr) : Option (List (Nat × Nat)) :=
  let whole (l : List Nat) : Option (List (Nat × Nat)) := some (l.map fun r => (r, 64))
  let atom (a b : Reg) (wide : Bool) (c : List Reg) : Option (List (Nat × Nat)) :=
    some ((a.toNat, 64) :: (b :: c).map fun r => (r.toNat, if wide then 64 else 32))
  match i with
  | .sst d a sz _ | .sstp d a sz _ => some [(a.toNat, 64), (d.toNat, 8 * 2 ^ sz.toNat)]
  | .satomAdd _ a b _ x | .satomAnd _ a b _ x | .satomOr _ a b _ x | .satomXor _ a b _ x | .satomMin _ a b _ x | .satomMax _ a b _ x
  | .satomMinu _ a b _ x | .satomMaxu _ a b _ x | .satomXchg _ a b _ x => atom a b x []
  | .satomCas d a b _ x => atom a b x [d]
  | .sput a _ | .nkey _ a | .mighint _ a => whole [a.toNat]
  | .awinit a b | .awexpect _ a b | .awarrive _ a b | .phsig _ a b | .phsigb _ a b | .nchain _ a b | .nrxpop _ a b | .enq _ a b => whole [a.toNat, b.toNat]
  | .cpy _ a b p _ | .cpy2 _ a b p _ | .cpyw _ a b p _ | .cpyx _ a b p _ | .cpyfill _ a b p _ | .cpyr _ a b p _ _ =>
    whole (descRegs a ++ if p then [b.toNat] else [])
  | .cpycan _ b => whole [b.toNat]
  | .nput _ a b | .nget _ a b | .natom _ a b | .nsend _ a b => whole (b.toNat :: descRegs a)
  | _ => none

/-- What gives one lane's outbound effect its address, data and operation, for stores, atomics, remote operations and VOPUT (R429). -/
def outLane (i : Instr) : Option (LaneWord × (Warp → Nat → List Nat)) :=
  let data (f : LaneWord) (W : Warp) (l : Nat) : Nat := natLE (W.storeBytes f.vd.toNat (sizeOf' (bits f.sub.toNat 2 0)) l)
  let place (f : LaneWord) (W : Warp) (l : Nat) : Nat := if f.sub.getLsbD 5 then W.saddr f l else W.gaddr f l
  let far (f : LaneWord) (W : Warp) (l : Nat) : List Nat := [W.opb f false l, (W.vw f.va.toNat l).toNat]
  let atom (f : LaneWord) (cas : Bool) : Option (LaneWord × (Warp → Nat → List Nat)) :=
    some (f, fun W l => [place f W l, (atomArgs f cas W l).1, (atomArgs f cas W l).2])
  match i with
  | .vst f => some (f, fun W l => [W.gaddr f l, data f W l])
  | .vstp f => some (f, fun W l => [W.saddr f l, data f W l])
  | .vatom f | .vred f => atom f false
  | .vcas f => atom f true
  | .vldr f => some (f, far f)
  | .vstr f => some (f, fun W l => data f W l :: far f W l)
  | .vatomr f => some (f, fun W l => (atomrArgs f W l).1 :: (if bits f.sub.toNat 3 0 = 11 then (atomrArgs f W l).2 else 0) :: far f W l)
  | .voput f => some (f, fun W l => [W.opb f (Lane.wide f.ty) l])
  | _ => none

/-- Instructions with an outbound effect (R429). -/
def outbound (i : Instr) : Bool := (outScalar i).isSome || (outLane i).isSome

/-- What the effect of a scalar instruction is made of, in a warp. -/
def Warp.scalarEffect (W : Warp) (i : Instr) : List Nat := ((outScalar i).getD []).map fun (r, n) => (W.s.get r 0).toNat % 2 ^ n

/-- The lanes with effect of a path's instruction, and what each one's effect is made of (R61). -/
def Warp.laneEffect (W : Warp) (b : Bool) (i : Instr) : Half × List (Nat × List Nat) :=
  match outLane i with
  | none => (0, [])
  | some (f, g) =>
    let e := W.laneEff b f
    (e, (lanesOf e).map fun l => (l, g W l))

/-- The effect is made of the same in two warps. -/
def sameEffect (x : Stream) (i : Instr) (V W : Warp) : Bool :=
  match x with
  | .path _ _ b => V.laneEffect b i == W.laneEffect b i
  | _ => V.scalarEffect i == W.scalarEffect i

/-! ### The leader issues -/

/-- The warp of a stream when it leads a trailer (R427). -/
def State.leads (s : State) (x : Stream) : Option (Nat × Nat) :=
  match x with
  | .warp t w => if (s.team t).shadow then some (t, w) else none
  | .path t w _ => if (s.team t).shadow then some (t, w) else none
  | _ => none

def State.trailer (s : State) (t w : Nat) : Trailer := (s.team t).trailers.get w {}
def State.modTrailer (s : State) (t w : Nat) (f : Trailer → Trailer) : State := s.modTeam t fun T => { T with trailers := T.trailers.mod w f }

/-- Where a stream of a warp stands; none where its path is gone. -/
def Warp.standsAt (W : Warp) (x : Stream) : Option Nat :=
  match x with
  | .path _ _ b => (W.path b).map (·.pc)
  | _ => some W.spc.toNat

/-- A stream's instruction is done: the stream has gone on, or its registers have changed. -/
def Warp.moved (W V : Warp) (x : Stream) : Bool :=
  W.standsAt x != V.standsAt x || W.s != V.s || W.v != V.v || W.m != V.m || W.queue != V.queue

/-- The lane registers that the loads on a path's scoreboard fill. -/
def State.boardRegs (s : State) (p : Path) : List Nat :=
  p.board.flatMap fun x => match x.req.bind s.reqs.find with
    | some r => (loadRegs r.size r.vd 0).map (·.1)
    | none => x.regs.map (·.1)

/-- An instruction of a leader is done: the trailer gets its record, and its result, when it has come, through the load queue (R427, R428). -/
def State.record (s s' : State) (x : Stream) (t w : Nat) (i : Instr) (e : Half) : State :=
  let p : Path := match x with | .path _ _ b => s'.path t w b | _ => {}
  let f : List Nat := match i with | .lfrag f | .lorigin f => [f.vd.toNat] | .voget f => regs1 true f.vd | _ => []
  s'.modTrailer t w fun R => { R with
    issued := (R.issued.filter fun r => !(r.waits && r.stream == x)) ++
      [{ stream := x, instr := i, ilen := s.ilen, eff := e, ctr := s.ctr, before := s.warp t w, after := s'.warp t w, loads := takesResult i,
         dest := f ++ s'.boardRegs p, come := p.board.isEmpty }] }

/-- Results that a leader's loads have brought since are on their way to the trailer (R428). -/
def Team.resultsCome (T : Team) : Team :=
  { T with trailers := T.trailers.each fun w R => { R with issued := R.issued.map fun r =>
      match r.stream with
      | .path _ _ b => if r.come || !(((T.warp w).path b).getD {}).board.isEmpty then r else { r with come := true, after := { r.after with v := (T.warp w).v } }
      | _ => r } }

/-- Lanes whose effects disagree leave the path at the instruction as one fragment SHADOW, LANE, with none of their effects (R430); `p` is the path
as it stood. Those that find no entry stay in a path there (R410). -/
def State.disagree (s : State) (t w : Nat) (p : Path) (ls : Half) : State :=
  (s.parkAll t w p (groupFails 32 ((lanesOf ls).map fun l => ⟨l, cSHADOWLANE, 0, false⟩)) 0).1.settle t

/-- An effect that the trailer has produced is compared (R429, R430): per lane for a path, whose lanes `d` disagree; per stream for a scalar
stream, which takes the warp-level fault SHADOW, SCALAR. What agrees is done. -/
def State.compared (s : State) (x : Stream) (i : Instr) (d : Half) (scalar : Bool) : Out :=
  match x with
  | .path t w b =>
    let p := s.path t w b
    let dis := p.mem &&& d
    if dis = 0 then exec i s
    else
      let s := s.modWarp t w fun W => { W.leave b dis with stack := .part { p with m0 := p.m0 &&& dis, mem := dis, board := p.boardOf dis } :: W.stack }
      if ((s.warp t w).path b).isNone then .next (s.disagree t w p dis)
      else match exec i s with
        | .next s => .next (s.disagree t w p dis)
        | r => r
  | .warp t w => if scalar then .next (s.warpFault t w { code := cSHADOWSCALAR, pc := (s.warp t w).spc.toNat }) else exec i s
  | _ => exec i s

/-- What a leader has done goes on record when its instruction is done. -/
def State.recorded (s : State) (x : Stream) (t w : Nat) (i : Instr) (e : Half) (r : Out) : Out :=
  match r with
  | .next s' => .next (if (s.warp t w).moved (s'.warp t w) x then s.record s' x t w i e else s')
  | r => r

/-- A leader's stream issues (R428, R429): an outbound effect waits in the comparison buffer until the trailer has produced it; nothing issues while
the load queue is full, nor, but for effects produced, while the comparison buffer is (DESIGN CHOICE, log entry 27). -/
def State.leadIssue (s : State) (x : Stream) (t w : Nat) (i : Instr) (e : Half) : Out :=
  let R := s.trailer t w
  let W := s.warp t w
  let mine := R.issued.find? fun r => r.waits && r.stream == x && r.instr == i && r.before.standsAt x == W.standsAt x && sameEffect x i r.before W
  if (R.issued.filter (·.loads)).length ≥ loadQueue then .next s
  else match mine with
    | some r => if r.made then s.recorded x t w i e (s.compared x i r.lanes r.scalar) else .next s
    | none =>
      let rest := R.issued.filter fun r => !(r.waits && r.stream == x)
      if (rest.filter (·.waits)).length ≥ compareBuffer then .next s
      else if !outbound i then s.recorded x t w i e (exec i s)
      else .next (s.modTrailer t w fun R => { R with
        issued := rest ++ [{ stream := x, instr := i, ilen := s.ilen, eff := e, ctr := s.ctr, before := W, after := W, waits := true }] })

/-! ### The trailer executes (R427) -/

/-- Blocks that the leader has completed are complete for the trailer too (R95); the leader still has `n`. -/
def Trailer.sync (R : Trailer) (n : Nat) : Trailer :=
  { R with
      queue := R.queue.drop (R.queue.length - n)
      s := (R.queue.take (R.queue.length - n)).foldl
        (fun m b => (lanesOf b.written).foldl (fun m i => m.put 0 (32 + i) (b.snap.get (32 + i) 0)) m) R.s }

/-- The leader's warp with the trailer's registers. -/
def Trailer.as (R : Trailer) (B : Warp) : Warp :=
  { B with
      s := R.s, v := R.v, m := R.m
      queue := (R.queue.zip B.queue).map (fun (q, b) => { b with snap := q.snap, written := q.written }) ++ B.queue.drop R.queue.length }

/-- The trailer takes over what a warp's registers hold, but for its lanes that have gone another way. -/
def Trailer.take (R : Trailer) (W : Warp) : Trailer :=
  { R with
      spc := W.spc, s := W.s, queue := W.queue
      v := if R.lanes = 0 then W.v else copyLanes R.lanes W.v R.v
      m := if R.lanes = 0 then W.m else copyMasks R.lanes W.m R.m }

/-- Where a lane of a warp stands: the index of its path, and its bit of m0. -/
def Warp.laneAt (W : Warp) (l : Nat) : Option (Nat × Bool) :=
  ((W.a.toList ++ W.b.toList ++ W.stack.filterMap fun x => match x with | .part p => some p | _ => none).find? fun p => p.mem.getLsbD l).map
    fun p => (p.pc, p.m0.getLsbD l)

/-- Lanes that stand elsewhere in two warps. -/
def Warp.apart (V W : Warp) : Half := maskOf ((List.range 32).filter fun l => V.laneAt l != W.laneAt l)

/-- The trailer executes an instruction that needs nothing from outside: what the warp would be, with the trailer's registers. No traffic leaves it
(R427). -/
def State.trailerRuns (s : State) (t w : Nat) (R : Trailer) (r : Issued) : Warp :=
  match exec r.instr { s.modWarp t w (fun _ => R.as r.before) with cur := r.stream, ctr := r.ctr, ilen := r.ilen } with
  | .next s => s.warp t w
  | _ => R.as r.before

/-- The trailer executes a scalar instruction: results from outside come from the leader (R428). A trailer whose scalar stream has gone another way
executes no more of it. -/
def State.trailScalar (s : State) (t w : Nat) (R : Trailer) (r : Issued) : Trailer :=
  if R.scalar then R
  else if takesResult r.instr || outbound r.instr then
    { R with spc := r.after.spc, s := (takesScalar r.instr).foldl (fun m d => if d = 0 then m else m.put 0 d.toNat (r.after.s.get d.toNat 0)) R.s }
  else
    let W := s.trailerRuns t w R r
    { R.take W with scalar := W.spc != r.after.spc }

/-- The trailer executes a lane instruction. -/
def State.trailLane (s : State) (t w : Nat) (b : Bool) (R : Trailer) (r : Issued) : Trailer :=
  if takesResult r.instr || outbound r.instr then
    let e := match outLane r.instr with | some (f, _) => r.eff &&& (R.as r.before).laneEff b f | none => r.eff
    { R with v := (lanesOf (e &&& ~~~R.lanes)).foldl (fun m l => r.dest.foldl (fun m v => m.put 0 (32 * v + l) (r.after.v.get (32 * v + l) 0)) m) R.v }
  else
    let W := s.trailerRuns t w R r
    { R.take W with lanes := R.lanes ||| W.apart r.after }

/-- The trailer produces its own effect for the one that waits (R429): a lane, or the scalar stream, disagrees when it has gone another way, when only
one of the two makes an effect, or when the effects are made of something else. -/
def Trailer.makes (R : Trailer) (r : Issued) : Issued :=
  let V := R.as r.before
  match r.stream with
  | .path _ _ b =>
    let (e, xs) := r.before.laneEffect b r.instr
    let (d, ys) := V.laneEffect b r.instr
    { r with made := true, lanes := R.lanes ||| (e ^^^ d) ||| maskOf ((xs.filter fun x => !ys.contains x).map (·.1)) }
  | _ => { r with made := true, scalar := R.scalar || V.scalarEffect r.instr != r.before.scalarEffect r.instr }

/-- The record that a trailer executes next: the oldest but for effects that it has produced. It keeps two instructions behind its leader, but where its
leader has stopped: at an effect, at a full load queue, or halted (R427) (DESIGN CHOICE, log entry 27). -/
def State.trailNext (s : State) (t w : Nat) : Option Issued :=
  let R := s.trailer t w
  match R.issued.find? fun r => !(r.waits && r.made) with
  | none => none
  | some r =>
    let stopped := R.issued.any (fun r => r.waits) || decide ((R.issued.filter (·.loads)).length ≥ loadQueue) || (s.warp t w).life != .running
    if r.come && (stopped || decide (R.issued.length > 2)) then some r else none

/-- A trailer executes one instruction (R427). -/
def State.trail (s : State) (t w : Nat) : State :=
  match s.trailNext t w with
  | none => s
  | some r =>
    let R := (s.trailer t w).sync r.before.queue.length
    let pre := R.issued.takeWhile fun r => r.waits && r.made
    let post := (R.issued.dropWhile fun r => r.waits && r.made).drop 1
    let R := { R with issued := if r.waits then pre ++ R.makes r :: post else pre ++ post }
    s.modTrailer t w fun _ =>
      if r.waits then R
      else match r.stream with
        | .path _ _ b => s.trailLane t w b R r
        | _ => s.trailScalar t w R r

/-- What the trailers can do now. -/
def State.trailerMoves (s : State) : List (State → Out) :=
  s.teams.flatMap fun (t, T) =>
    if !T.shadow || T.phase != .resident then []
    else (T.trailers.filter fun (w, _) => (s.trailNext t w).isSome).map fun (w, _) s => .next (s.trail t w)

/-- Results of leaders' loads that have come (R428). -/
def State.resultsCome (s : State) : State :=
  if s.teams.any fun (_, T) => T.trailers.any fun (_, R) => R.issued.any fun r => !r.come then { s with teams := s.teams.each fun _ T => T.resultsCome } else s

end Sys2Proof.Machine
end

