-- ==== Sys2Proof/Machine/Turns.lean ====
section
/-! DEFINITION. Turns: what an agent does when it moves, which agents can move in a state, and what every step adds (R8, R33, R76, R77, R386).
One step is one turn; where several agents can move, which of them does is a free choice; what a deadline or the end of a cycle brings happens in
every step. -/

namespace Sys2Proof.Machine

/-! ### A stream issues (R38 to R42, R80) -/

/-- The words of a stream's next instruction, as its first word's OP6 or its kind says (R38, R39, R41). -/
def State.fetchNext (s : State) (x : Stream) : Fetched × State :=
  match x with
  | .path t w b => s.fetchWords t ((s.team t).laneAddr (s.path t w b).pc) 3
  | .none => (.words [], s)
  | _ =>
    let t := s.me
    let va := s.pc.toNat
    match s.fetchWords t va 1 with
    | (.words [w0], s) =>
      if scalarWords w0 = 1 then (.words [w0], s)
      else match s.fetchWord t (va + 4) with
        | (.words w, s) => (.words (w0 :: w), s)
        | (.fail d a _, s) => if a / 4096 = va / 4096 then (.fail d va false, s) else (.fail d a true, s)
        | (.poison, s) => (.poison, s)
    | r => r

/-- The address of a stream's next instruction. -/
def State.fetchAddr (s : State) (x : Stream) : Nat :=
  match x with
  | .path t w b => (s.team t).laneAddr (s.path t w b).pc
  | _ => s.pc.toNat

/-- The length of a scalar or matrix instruction. -/
def fetchedLen (r : Fetched) : Nat := match r with | .words [_, _] => 8 | _ => 4

/-- The lanes of a path with effect for a lane instruction's words (R61). -/
def State.effOf (s : State) (x : Stream) (ws : List Half) : Half :=
  match x with
  | .path t w b => s.eff t w b (Dec.laneFields (ws.getD 0 0).toNat (ws.getD 1 0).toNat (ws.getD 2 0).toNat)
  | _ => 0

/-- A stream fetches, decodes and executes one instruction; the stream of a leader as R428 and R429 say. -/
def State.issue (s : State) (x : Stream) : Out :=
  let s := { s with cur := x, ilen := 4 }
  let (r, s') := s.fetchNext x
  let s' := { s' with ilen := fetchedLen r }
  match r with
  | .words ws => match decodeWords ws with
    | .ok i => match s'.leads x with
      | none => exec i s'
      | some (t, w) => s'.leadIssue x t w i (s'.effOf x ws)
    | .error _ => exec .illegalInstruction s'
  | .fail d a straddle => execFetchFault 11 (BitVec.ofNat 8 d) a straddle s'
  | .poison => execFetchFault 14 4 (s.fetchAddr x) false s'

/-- The scalar unit of a warp's quarter, by number of four times the core and the quarter, and the core's sequencer port have served a stream
(R76, R77). -/
def State.served (s : State) (x : Stream) : State :=
  match x with
  | .warp t w =>
    let T := s.team t
    let k := (T.warp w).slot
    { s with lastScalar := s.lastScalar.ins (4 * coreKey T.die T.core + k % 4) (k / 4) }
  | .seq t =>
    let T := s.team t
    { s with lastSeq := s.lastSeq.ins (coreKey T.die T.core) T.sslot }
  | _ => s

/-! ### Time (R8, R102, R453) -/

/-- `n` cycles pass; the core clocks of the dies advance at their steps, and stand still in PS2 and PS3 (R452) (DESIGN CHOICE, log entry 10). -/
def State.pass (s : State) (n : Nat) : State :=
  { s with
      now := s.now + n
      dies := s.dies.each fun _ D => if D.up && decide (s.pstate < 2) then { D with clk := D.clk + n * stepRate D.eff } else D }

/-- Calls of events one after another; an event never stops. -/
def runAll (fs : List (State → Out)) (s : State) : State := fs.foldl (fun s f => match f s with | .next s' => s' | _ => s) s

/-- A copy whose chunks are all performed and whose requests are all answered. -/
def State.copyOver (s : State) (c : Copy) : Bool := c.state == CopyState.active && c.left.isEmpty && !(c.reqs.any fun r => (s.reqs.find r).isSome)

/-- Copies complete with their last arrival, which is the completion event (R233) (DEDUCED, log entry 23). -/
def State.finishCopies (s : State) : State := runAll ((s.copies.filter fun (_, c) => s.copyOver c).map fun (_, c) => execCopyComplete c.engine c.serial) s

/-! ### Deadlines (R101, R149, R313, R343, R354, R380, R385, R393, R395, R399, R402, R403, R453) -/

/-- The clocks of a die run: it has power, and the package is in PS0 or PS1 (R452). -/
def State.clocked (s : State) (d : Nat) : Bool := (s.die d).up && decide (s.pstate < 2)

/-- The team runs on a core of a die whose clocks run; placement may have stopped (R452). -/
def State.onCore (s : State) (T : Team) : Bool := T.phase == .resident && s.clocked T.die

/-- The instant at which a die's core clock reads `c` cycles, at the step in force. -/
def State.coreInstant (s : State) (D : Die) (c : Nat) : Nat := s.now + (35 * c - D.clk + stepRate D.eff - 1) / stepRate D.eff

/-- JOIN entries of resident teams with a deadline (R149): team, warp, entry, and the instant. -/
def State.joinBounds (s : State) : List (Nat × Nat × Nat × Nat) :=
  s.teams.flatMap fun (t, T) =>
    if !s.onCore T then []
    else T.warps.flatMap fun (w, W) => if W.life ≠ .running then [] else W.stack.filterMap fun x => match x with
      | .join id _ _ _ _ (some d) _ => some (t, w, id, s.coreInstant (s.die T.die) d)
      | _ => none

/-- What happens at an instant that is known: the instant, and the event. -/
def State.timed (s : State) : List (Nat × (State → Out)) :=
  (s.dies.flatMap fun (d, D) =>
    (match D.change with | some t => [(t + Config.usCycles 20, execClockStepChangeDone d)] | none => []) ++
    if !s.clocked d then []
    else
      (if (D.fw.get 0 {}).restarting then [] else [((D.ticks + 1) * Config.usCycles 100, execMappingTick d)]) ++
      (List.range 9).map (fun c =>
        let F := D.fw.get c {}
        if F.restarting then (F.kick + Config.usCycles 5000, execFirmwareTablesRebuilt d c) else (F.kick + Config.usCycles 10000, watchdogDue d c)) ++
      [((D.windows + 1) * Config.usCycles 10, execShareWindowEnd d), ((D.adverts + 1) * Config.usCycles 100, execSlotAdvertise d)]) ++
  (s.frags.filterMap fun (f, F) =>
    let (d, c) := (s.team F.team).leaf
    if s.gathers f && s.clocked d then some (F.at_ + Config.usCycles 5, execHandlerGatherTimeout d c) else none) ++
  (s.teams.flatMap fun (t, T) =>
    (match T.preemptDue with
      | some r => if s.blockedTeam t then [(r, execPreemptWaitExpiry t)] else []
      | none => []) ++
    if !s.onCore T then []
    else T.warps.flatMap fun (w, W) =>
      (match W.wait with | .sleep till => [(till, execSleepExpiry t w)] | _ => []) ++
      (match W.qwait with | some (since, _, _) => [(since + Config.usCycles 4, execQwaitTimeout t w)] | none => [])) ++
  (s.nodes.flatMap fun (n, N) => N.entries.filterMap fun (i, P) => P.expired.map fun t => (t, execValuePhaseTimeout n i)) ++
  (s.groups.flatMap fun (g, G) => G.msgs.map fun m =>
    if m.complete then (m.at_ + Config.usCycles 1000, execMessageRecordRelease g m.src m.opid)
    else (m.at_ + Config.usCycles 1000000, execMessageRecordAgeOut g m.src m.opid)) ++
  s.reqs.filterMap fun (k, r) => if r.sent then none else r.noRoute.map fun t => (t + Config.usCycles 100, execRouteLostTimeout k)

/-- Events whose instant has come. -/
def State.runTimed (s : State) : State := runAll ((s.timed.filter fun x => decide (x.1 ≤ s.now)).map (·.2)) s

/-- Requests to a lost target end at once (R343). -/
def State.endLost (s : State) : State :=
  if s.lost.isEmpty then s else runAll ((s.reqs.filter fun (k, _) => s.routeLost k).map fun (k, _) => execRouteLostTimeout k) s

/-- JOIN entries expire in the cycle of their deadline, after the arrivals of that cycle (R149); of several in one cycle the topmost of a warp first, and
what that completes before the next (DESIGN CHOICE, log entry 37). -/
def State.expireJoins (s : State) : State :=
  runAll ((s.joinBounds.filter fun x => decide (x.2.2.2 ≤ s.now)).map fun (t, w, id, _) => execJoinExpiry t w id) s

/-- The cycles that may pass in a turn before the next deadline: a join expires at the end of the turn's own cycle (R149), other events happen when the
cycle after it begins. -/
def State.toDeadline (s : State) : Option Nat :=
  (((s.timed.filter fun x => decide (s.now < x.1)).map fun x => x.1 - s.now - 1) ++ s.joinBounds.map fun x => x.2.2.2 - s.now).foldl
    (fun m n => some (match m with | none => n | some k => min k n)) none

/-- Time passes up to the next deadline; the rest stays to pass (DESIGN CHOICE, log entry 10). -/
def State.elapse (s : State) (n : Nat) : State :=
  let k := match s.toDeadline with | some m => min m n | none => n
  (if k + 1 < n then { s with inputs := .elapse (n - k - 1) :: s.inputs } else s).pass k

/-- One turn (DESIGN CHOICE, log entry 10). -/
def State.move (s : State) (x : Turn) : Out :=
  match x with
  | .stream x => (s.served x).issue x
  | .event i => exec i s
  | .upset u => .next (s.upset u)
  | .registerRead d o n => .next (s.registerRead d o n)
  | .vfRead d v o n => .next (s.vfRead d v o n)
  | .vfWrite d v o bs => .next (s.vfWrite d v o bs)
  | .firmwareWrite d _ a bs => .next (s.firmwareWrite d a bs)
  | .spdm msg => .next (s.spdmOther msg)
  | .elapse n => .next (s.elapse n)

/-! ### The end of a cycle -/

/-- Lanes of a warp's paths that a release or a split has put past index 65,535 park; those that a halted warp keeps stay there (R40, R153, R158). -/
def State.parkPastWarp (s : State) (t w : Nat) : Nat → State
  | 0 => s
  | n + 1 => match (s.warp t w).pastPaths with
    | [] => s
    | p :: _ => if (s.warp t w).life = .running then (s.pastEnd t w p).parkPastWarp t w n else s.modWarp t w Warp.heldBack

/-- All of them; one release can bring another. -/
def State.parkPast (s : State) : State :=
  s.teams.foldl (fun s (t, T) => if T.phase != .resident then s
    else T.warps.foldl (fun s (w, W) => if W.pastPaths.isEmpty then s else s.parkPastWarp t w (2 * Config.stackEntries)) s) s

/-- Every empty slot takes work, A before B (R139) (DESIGN CHOICE, log entry 37). -/
def State.fillPaths (s : State) : State :=
  s.teams.foldl (fun s (t, T) => if !s.onCore T || T.leaving then s
    else T.warps.foldl (fun s (w, W) => if !W.started then s else runAll [execSlotTakesWork t w false, execSlotTakesWork t w true] s) s) s

/-- Ways that have had three corrected errors within 24 hours are disabled (R207), groups with an uncorrectable error or as many corrected ones are
retired (R195). -/
def State.retireWorn (s : State) : State :=
  let worn := s.recent.filter fun (x, c, w, _) => s.worn x c w
  runAll ((worn.filter fun (x, _) => decide (x / 65536 ≤ 2)).map (fun (x, c, w, _) => execWayDisable x c w) ++
    (worn.filter fun (x, _) => decide (x / 65536 = 6)).map (fun (x, c, _) => execGroupRetire (x % 65536) (c / 2048) (c % 2048)) ++
    s.dies.flatMap fun (d, D) => D.detected.map fun k => execGroupRetire d (k / 2048) (k % 2048)) s

/-- Requests that wait at their targets go on where they can (R325, R338). -/
def State.serveAllDies (s : State) : State := s.dies.foldl (fun s (d, D) => if D.waiting.isEmpty then s else s.serveWaiting d) s

/-- Blocks, joins and barriers that could not complete before the scalar stream's instruction did so now (R95, R152). -/
def State.settleAll (s : State) : State :=
  s.teams.foldl (fun s (t, T) => if T.phase = .resident then s.settle t else s) s

/-- What the end of a cycle brings: expiries and work for empty slots, combined signals, what completions release, and reports in memory (R139, R149, R233,
R300, R307, R312, R412). -/
def State.endCycle (s : State) : State :=
  s.settleAll.parkPast.expireJoins.parkPast.fillPaths.finishCopies.payOwed.releaseHeld.forwardAll.retireWorn.serveAllDies.serveLocal.pendRestarts.resultsCome.logReports

/-- What every step adds: the end of the cycle, a cycle passes, events whose instant has come happen, ports that have stalled are lost (R290),
stopped teams whose copies are done leave their cores, and teams whose bits are set become dispatchable (R252, R387). -/
def State.tidy (s : State) : State :=
  let s := (s.endCycle.pass 1).runTimed.endLost.parkPast
  { (s.stalledPorts.foldl State.portLost s).saveReady.noteReady with turns := s.turns + 1 }

/-- A step's outcome, tidied (DESIGN CHOICE, log entry 10). -/
def after (r : Out) : Out :=
  match r with
  | .next s => .next s.tidy
  | .fault f => .fault f
  | .refused f => .refused f

/-! ### Streams that can issue (R76, R77, R80, R99, R107, R386) -/

/-- Every page asked has been answered (R182). -/
def allAnswered (l : List Ask) : Bool := l.all fun a => a.answer.isSome

/-- A wait that another agent ends. -/
def Wait.blocks : Wait → Bool
  | .absent _ _ => true
  | .tree => true
  | .remote _ => true
  | _ => false

/-- The fields of the lane word at a path's index, where it can be fetched. -/
def State.pathWord (s : State) (t w : Nat) (b : Bool) : Option LaneWord :=
  match (s.fetchWords t ((s.team t).laneAddr (s.path t w b).pc) 3).1 with
  | .words ws => some (Dec.laneFields (ws.getD 0 0).toNat (ws.getD 1 0).toNat (ws.getD 2 0).toNat)
  | _ => none

/-- Register lines that a path waits for (R107) (DESIGN CHOICE, log entry 17). -/
def State.coldLines (s : State) (t w : Nat) (b : Bool) : List Nat :=
  let W := s.warp t w
  if W.cold.isEmpty then []
  else match s.pathWord t w b with
    | some f => (LaneNamed f).filter W.cold.contains
    | none => []

/-- A scalar stream may issue. -/
def State.warpIssues (s : State) (T : Team) (W : Warp) : Bool :=
  s.onCore T && W.life == .running && !W.wait.blocks && allAnswered W.asks && (!T.leaving || inside W.wait W.asks (!W.got.isEmpty)) &&
  (match W.wait with | .sleep _ => false | _ => true)

/-- A path may issue: its loads have landed, it is at no barrier, its lines are present; that of a halted warp only to complete its outstanding
instruction (R410) (DESIGN CHOICE, log entry 9). -/
def State.pathIssues (s : State) (t w : Nat) (b : Bool) : Bool :=
  let T := s.team t
  match (T.warp w).path b with
  | none => false
  | some p => s.onCore T && s.pathLive t w b && p.board.isEmpty && p.bar.isNone && allAnswered p.asks && (!T.leaving || !p.asks.isEmpty || !p.scales.isEmpty) && (s.coldLines t w b).isEmpty

/-- A sequencer may issue while some warp of its team runs (R99). -/
def State.seqIssues (s : State) (T : Team) : Bool :=
  let q := T.seq
  s.onCore T && q.life == .running && !q.idle && q.restart.isNone && !q.wait.blocks && allAnswered q.asks && (!T.leaving || inside q.wait q.asks false) &&
  T.warps.any fun (_, W) => W.life == .running

/-- An issue of a stream changes its team: its instruction does not wait for a condition. -/
def State.issues (s : State) (x : Stream) (t : Nat) : Bool :=
  match s.issue x with
  | .next s' => s'.teams.find t != s.teams.find t
  | _ => true

/-- A path is ready. -/
def State.pathReady (s : State) (t w : Nat) (b : Bool) : Bool := s.pathIssues t w b && s.issues (.path t w b) t

/-- Ready paths: team, warp, slot. -/
def State.readyPaths (s : State) : List (Nat × Nat × Bool) :=
  s.teams.flatMap fun (t, T) => T.warps.flatMap fun (w, _) => ([false, true].filter fun b => s.pathReady t w b).map fun b => (t, w, b)

/-- The vector unit of a quarter takes the ready path of highest PRIO, and among equals the one that has waited longest (R386). -/
def State.beats (s : State) (x y : Nat × Nat × Bool) : Bool :=
  let (t, w, b) := x
  let (u, v, c) := y
  let T := s.team t
  let U := s.team u
  T.die == U.die && T.core == U.core && (T.warp w).slot % 4 == (U.warp v).slot % 4 &&
  (decide (T.prio > U.prio) || (T.prio == U.prio && decide ((s.path t w b).issued < (s.path u v c).issued)))

/-- Ready scalar streams (R76): team and warp. -/
def State.readyWarps (s : State) : List (Nat × Nat) :=
  s.teams.flatMap fun (t, T) => ((T.warps.filter fun (w, W) => s.warpIssues T W && s.issues (.warp t w) t)).map fun (w, _) => (t, w)

/-- The quarter's scalar unit takes the first of two streams before the second, round-robin (R76). -/
def State.warpBefore (s : State) (x y : Nat × Nat) : Bool :=
  let T := s.team x.1
  let U := s.team y.1
  let k := (T.warp x.2).slot
  let j := (U.warp y.2).slot
  let last := s.lastScalar.find (4 * coreKey T.die T.core + k % 4)
  T.die == U.die && T.core == U.core && k % 4 == j % 4 && decide (roundRobin last 16 (k / 4) < roundRobin last 16 (j / 4))

/-- Ready sequencers (R77). -/
def State.readySeqs (s : State) : List Nat := Map.keys (s.teams.filter fun (t, T) => s.seqIssues T && s.issues (.seq t) t)

/-- The core's sequencer port takes the first of two sequencers before the second, round-robin (R77). -/
def State.seqBefore (s : State) (t u : Nat) : Bool :=
  let T := s.team t
  let U := s.team u
  let last := s.lastSeq.find (coreKey T.die T.core)
  T.die == U.die && T.core == U.core && decide (roundRobin last 8 T.sslot < roundRobin last 8 U.sslot)

/-- Streams that can issue now. -/
def State.streams (s : State) : List Stream :=
  let ps := s.readyPaths
  let ws := s.readyWarps
  let qs := s.readySeqs
  ((ws.filter fun y => !ws.any fun x => s.warpBefore x y).map fun (t, w) => .warp t w) ++
  ((qs.filter fun y => !qs.any fun x => s.seqBefore x y).map .seq) ++
  (ps.filter fun y => !ps.any fun x => s.beats x y).map fun (t, w, b) => .path t w b

/-! ### Events that can happen -/

/-- Answers to pages asked (R182), and pages that something waits for (R159, R199, R239). -/
def State.pageEvents (s : State) : List (State → Out) :=
  (s.teams.flatMap fun (_, T) => (T.allAsks.filter fun a => a.answer.isNone).map fun a =>
    execTranslationReply T.die T.core (a.space % 4096) (a.page * 4096 + 128 * a.stack) a.store) ++
  (s.teams.flatMap fun (_, T) =>
    let of (x : Wait) : List (State → Out) := match x with | .absent sp p => [execDemandPageResolved (sp / 4096) (sp % 4096) p] | _ => []
    of T.seq.wait ++ T.warps.flatMap fun (_, W) => of W.wait) ++
  (s.frags.flatMap fun (_, F) => if F.state = .parked ∧ (F.cause = 1 ∨ F.cause = 11) ∧ F.detail = 1 then
    [execDemandPageResolved (s.team F.team).origin (s.team F.team).asid (F.addr / 4096)] else []) ++
  s.copies.flatMap fun (_, c) => match c.absent with | some p => [execDemandPageResolved c.die c.asid p] | none => []

/-- Events of the lane streams of resident teams (R93, R107, R201); a halted warp's outstanding instructions complete (R410). -/
def State.warpEvents (s : State) : List (State → Out) :=
  s.teams.flatMap fun (t, T) =>
    if !s.onCore T then []
    else T.warps.flatMap fun (w, W) =>
      ([false, true].flatMap fun b => match W.path b with
        | some p => (if p.board.any fun x => x.req.isNone then [execLoadDataReturn t w b] else []) ++
            (if s.pathLive t w b then (s.coldLines t w b).map fun v => execRegcacheFillDone t w v else [])
        | none => []) ++
      if W.life == .running && !W.started && !W.queue.isEmpty && !T.leaving then [execLaneBlockStart t w] else []

/-- Events of copy engines and matrix engines (R238, R257). -/
def State.engineEvents (s : State) : List (State → Out) :=
  (s.copies.flatMap fun (k, c) =>
    if c.state.over then []
    else (if s.copyReady k c && (c.state == .queued || !c.left.isEmpty) then [execCopyChunk c.engine c.serial] else []) ++
      (if s.copyOver c then [execCopyComplete c.engine c.serial] else [])) ++
  s.teams.flatMap fun (t, T) => if T.mq.isEmpty || !s.onCore T then []
    else (if s.canStart T && s.startNext T.die T.core == some t then [execMatrixOpStart t] else []) ++ [execMmaAttemptDone t, execMatrixOpComplete t]

/-- The event of a Gauze message (R291). -/
def flitEvent (node type : Nat) (m : GauzeMsg) : State → Out :=
  match type with
  | 1 => execGauzeSignal node m
  | 2 => execGauzeComplete node m
  | 3 => execGauzeJoin node m
  | 4 => execGauzeLeave node m
  | 5 => execGauzeCreate node m
  | 6 => execGauzeCreateReply node m
  | 7 => execGauzeFree node m
  | 8 => execGauzeLate node m
  | 9 => execGauzeBroken node m
  | 10 => execGauzeCredit node m
  | 11 => execGauzeJoinReply node m
  | _ => execGauzeReservedFlit node m

/-- The port of a node by which a message comes, and whether from below (R286): a die's node has its parent apart from its children. -/
def flitPort (x : Nat × Nat × GauzeMsg) : Bool × Nat :=
  if x.1 < 4 && [2, 6, 9, 11].contains x.2.1 then (false, 0) else (true, x.2.2.port)

/-- The quarter of a core's warp that signals. -/
def flitQuarter (x : Nat × Nat × GauzeMsg) : Nat := if x.1 < 4 then msgQuarter x.2.2 else 0

/-- What a port's messages bring next: class 0 before the others (R290); of a core's messages of one cycle the lowest quarter's (R288); else the order
in which they were sent. -/
def portNext (l : List (Nat × Nat × GauzeMsg)) : Option (Nat × Nat × GauzeMsg) :=
  let c := l.filter fun x => x.2.2.cls == 0
  match (if c.isEmpty then l else c) with
  | [] => none
  | x :: r => some (r.foldl (fun m y => if y.2.2.sent = m.2.2.sent ∧ flitQuarter y < flitQuarter m then y else m) x)

/-- The next message of every port of every node. -/
def portHeads : Nat → List (Nat × Nat × GauzeMsg) → List (Nat × Nat × GauzeMsg)
  | 0, _ => []
  | _, [] => []
  | n + 1, x :: r =>
    let same (y : Nat × Nat × GauzeMsg) : Bool := y.1 == x.1 && flitPort y == flitPort x
    (portNext ((x :: r).filter same)).toList ++ portHeads n (r.filter fun y => !same y)

/-- The messages that nodes can take next: of those that reach a node in one cycle, the lowest child port's (R288) (DESIGN CHOICE, log entry 18). -/
def nextFlits (l : List (Nat × Nat × GauzeMsg)) : List (Nat × Nat × GauzeMsg) :=
  let hs := portHeads l.length l
  hs.filter fun x => !hs.any fun y => y.1 == x.1 && y.2.2.sent == x.2.2.sent && (flitPort x).1 && (flitPort y).1 && decide ((flitPort y).2 < (flitPort x).2)

/-- Messages between nodes, flits that Gauze ports send, and value phases that may expire, a contribution that reaches the root counted first
(R288, R290, R313). -/
def State.gauzeEvents (s : State) : List (State → Out) :=
  let next := nextFlits s.flits
  (next.map fun (n, type, m) => flitEvent n type m) ++
  ((List.range 4).filterMap fun p => if (s.portHead p).isSome then some (fun (s : State) => (.next (s.portSend p) : Out)) else none) ++
  s.nodes.flatMap fun (n, N) => N.entries.filterMap fun (i, P) =>
    if (P.expiry.any fun t => decide (t ≤ s.now)) && !next.any fun x => x.1 == n && x.2.1 == gSIGNAL && msgHandle x.2.2 == P.handle then
      some (execValuePhaseTimeout n i)
    else none

/-- The packets that links deliver next: those of one virtual channel on one way arrive in order (R333, R336) (DESIGN CHOICE, log entry 18). -/
def nextPackets : Nat → List TwillPacket → List TwillPacket
  | 0, _ => []
  | _, [] => []
  | n + 1, p :: r => p :: nextPackets n (r.filter fun q => !(q.ssock == p.ssock && q.dsock == p.dsock && q.via == p.via && packetChan q == packetChan p))

/-- The packets that reach the I/O dies next, in the order of their channel and way. -/
def nextOutward : Nat → List (Nat × TwillPacket) → List (Nat × TwillPacket)
  | 0, _ => []
  | _, [] => []
  | n + 1, x :: r => x :: nextOutward n (r.filter fun y =>
      !(portSocket y.1 == portSocket x.1 && y.2.ssock == x.2.ssock && y.2.via == x.2.via && packetChan y.2 == packetChan x.2))

/-- Packets between dies, packets that Twill ports send, and streams that wait for a slot (R232, R325, R335). -/
def State.fabricEvents (s : State) : List (State → Out) :=
  ((nextPackets s.wires.length s.wires).map packetEvent) ++
  ((nextOutward s.outward.length s.outward).map fun x s => .next (s.outTo x)) ++
  ((s.egress.filter fun (k, ps) => k != noPort && !ps.isEmpty).map fun x => (fun s => .next (s.transmit x.1) : State → Out)) ++
  s.dies.filterMap fun (d, D) => if D.slotQ.isEmpty then none else some (execStreamSlotAccept d)

/-- The event of a Calico packet that waits (R352). -/
def calicoEvent (g op : Nat) (p : CalicoPacket) : State → Out :=
  match op with
  | 1 => execCalicoWrite g p
  | 2 => execCalicoRead g p
  | 3 => execCalicoData g p
  | 4 => execCalicoAtomic g p
  | 5 => execCalicoAtomresp g p
  | 6 => execCalicoAck g p
  | 7 => execCalicoNak g p
  | _ => execCalicoBadPacket g p

/-- Events of the network engines (R351, R352, R358, R364). -/
def State.netEvents (s : State) : List (State → Out) :=
  (s.groups.flatMap fun (g, G) =>
    (G.held.map fun (op, p) => calicoEvent g op p) ++ (G.frames.head?.map fun (f, _, _) => if s.stampPast f then [execFrameReceive f] else []).getD []) ++
  s.netops.flatMap fun (k, o) =>
    if o.done then (if s.netops.any fun (_, x) => x.die == o.die && x.asid == o.asid && x.queue == o.queue && decide (x.seq < o.seq) then []
      else [execCalicoRetransmitTimeout o.grp o.opid 0])
    else if o.kind = 5 then (if (s.netq o.die o.asid o.watch).counted ≥ o.target then [execCalicoRetransmitTimeout o.grp o.opid 0] else [])
    else if !o.started then (if s.opReady k o then [execCalicoRetransmitTimeout o.grp o.opid 0] else [])
    else if o.kind = 3 then [execFrameSent o.grp o.opid]
    else (List.range o.packets).filterMap fun n =>
      if !o.acked.contains n && (o.sent.get n 0 == 0 || decide (s.now ≥ o.due.get n 0)) then some (execCalicoRetransmitTimeout o.grp o.opid n) else none

/-- Events of scheduling (R382 to R394, R418, R432). -/
def State.schedEvents (s : State) : List (State → Out) :=
  (s.dies.flatMap fun (d, D) =>
    if !s.clocked d then []
    else
      (D.queues.filterMap fun (q, Q) => if Q.mapped && s.mayStart d q then some (execBundleStart d q) else none) ++
      (List.range 8).filterMap fun c => if (s.dueSpaces d c).isEmpty then none else some (execHandlerGatherTimeout d c)) ++
  (s.teams.flatMap fun (t, T) =>
    (if T.dispatchable && s.offered t then ((List.range Config.cores).filter (s.mayPlace t)).map fun c => if T.phase = .waiting then execTeamPlace t c else execTeamRestore t c else []) ++
    (if s.clocked T.die then ((List.range Config.dies).filter (s.maySend t)).map (execMigrationSend t) else []) ++
    (if s.teamDone t then [execTeamComplete t] else [])) ++
  s.bundles.filterMap fun (b, B) => if B.status.isNone && s.clocked B.die && s.bundleDone b then some (execBundleRetire b) else none

/-- The event that carries out a command (R447, R448). -/
def commandEvent (fn : BitVec 2) (op : Nat) : List (State → Out) :=
  match op with
  | 1 => [execFramefmt fn]
  | 2 => [execPartset fn]
  | 3 => [execPartstop fn]
  | 4 => [execPartgo fn]
  | 5 => [execPstate fn]
  | 6 => [execCstep fn]
  | 7 => [execPowercap fn]
  | 8 => [execFwload fn]
  | 9 => [execDiereset fn]
  | _ => []

/-- Events of commands and firmware cores (R402, R403, R447): a command waits for one that has begun. -/
def State.controlEvents (s : State) : List (State → Out) :=
  s.dies.flatMap fun (d, D) =>
    (if !D.func.busy then []
      else if D.func.code.isSome then [execCommandCompletion (BitVec.ofNat 2 d)]
      else if s.cmd.all (· == d) then commandEvent (BitVec.ofNat 2 d) D.func.running else []) ++
    if !s.clocked d then []
    else (List.range 9).flatMap fun c =>
      let F := D.fw.get c {}
      if F.restarting then [execFirmwareTablesRebuilt d c]
      else if s.now ≥ F.kick + Config.usCycles 10000 then [execWatchdogExpiry d c]
      else if s.now ≥ F.kick + Config.usCycles 2000 then [execWatchdogKick d c]
      else []

/-- What the agents other than streams can do now. -/
def State.agents (s : State) : List (State → Out) :=
  s.pageEvents ++ s.warpEvents ++ s.trailerMoves ++ s.engineEvents ++ s.gauzeEvents ++ s.fabricEvents ++ s.netEvents ++ s.schedEvents ++ s.controlEvents

/-! ### Whose turn it is -/

/-- What each agent that can move would do. -/
def State.moves (s : State) : List (State → Out) := s.streams.map (fun x s => (State.served s x).issue x) ++ s.agents

/-- One step before tidying: what the outside has fixed, else one of the agents that can move, or none of them for a while (R4, R33) (DESIGN CHOICE, log entry 10) (DEDUCED, log entry 35). -/
def State.turn (s : State) : Out :=
  match s.inputs with
  | x :: r => State.move { s with inputs := r } x
  | [] =>
    let ts := s.moves
    let (k, s) := s.choose (ts.length + 1)
    match ts[k]? with
    | some f => f s
    | none => let (n, s) := s.draw 64; .next (s.pass (min n (s.toDeadline.getD n)))

end Sys2Proof.Machine
end

