-- ==== Sys2Proof/Machine/Place.lean ====
section
/-! DEFINITION. A program placed from outside, as a launch would leave it (log entry 16): address-space table, page tables, code bytes,
and a team on core 0 of die 0. -/

namespace Sys2Proof.Machine

/-- Physical addresses of the placed address-space table, its tables, and the code, which stands at the same virtual address. -/
def placeAst : Nat := 0x10000
def placeRoot : Nat := 0x11000
def placeMid : Nat := 0x12000
def placeLow : Nat := 0x13000
def placeCode : Nat := 0x20000

/-- The entries that map the first GiB of virtual addresses to the first GiB of device memory, readable, writable and executable, of class
S (R184 to R186). -/
def placeTables : List (Nat × Nat) :=
  [(placeAst, placeRoot + 1), (placeRoot, placeMid / 4096 * 2 ^ 20 + 1), (placeMid, placeLow / 4096 * 2 ^ 20 + 1),
   (placeLow, 2 ^ 48 + 2 ^ 12 + 2 ^ 9 + 2 ^ 8 + 2 ^ 7 + 3)]

/-- Device memory with the tables and the bytes of an instruction. -/
def placeMem (m : List Host.Cell) (bs : List Byte) : List Host.Cell :=
  wrBytes (placeTables.foldl (fun m (a, e) => wrBytes m a (bytesLE 8 e)) m) placeCode bs

/-- The die with the tables and the bytes of an instruction; nothing held of older tables stands in the fetch's way (DESIGN CHOICE, log entry 16). -/
def Die.placed (D : Die) (bs : List Byte) : Die :=
  { D with
      up := true, mem := placeMem D.mem bs, cls := D.cls.ins 0 1, tcache := [], lines := [], l1 := [], icache := [], msb := [], uses := [], plain := [], func := { D.func with base := (D.func.base.ins 0x10000 placeAst).ins 0x10008 4096 }
      poison := D.poison.filter fun l => decide (l * 128 ≥ 2 ^ 21), retired := D.retired.filter fun g => decide (g ≥ 2048) }

/-- An instruction of the matrix stream (R48): OP6 0x28 to 0x2E, 0x3C and 0x3D. -/
def matrixOp6 (w : Nat) : Bool :=
  let op := bits w 31 26
  decide (0x28 ≤ op ∧ op ≤ 0x2E) || decide (op = 0x3C ∨ op = 0x3D)

/-- The stream that runs an instruction of a row: a path for a lane instruction, the sequencer for a matrix instruction, else a warp. -/
def placeStream (t nbits w : Nat) : Stream := if nbits > 64 then .path t 0 false else if matrixOp6 w then .seq t else .warp t 0

/-- The placed team: one warp and a sequencer, all at the code, one lane block begun at index 0 (DESIGN CHOICE, log entry 16). -/
def placedTeam : Team :=
  { ref := some 0, phase := .resident, part := 2 ^ 16 + 2 ^ 8 + 1, grid := 1 + 2 ^ 16 + 2 ^ 32, sentry := placeCode, mentry := placeCode, lanebase := placeCode,
    pmgr := true, seq := { pc := BitVec.ofNat 64 placeCode }
    warps := [(0, { spc := BitVec.ofNat 64 placeCode })] }

/-- The team with its lane block running (DESIGN CHOICE, log entry 16). -/
def placedLaneTeam : Team :=
  { placedTeam with warps := [(0, { spc := BitVec.ofNat 64 placeCode, queue := [{}], started := true, a := some { m0 := ~~~0, mem := ~~~0 } })] }

end Sys2Proof.Machine
end

