-- ==== Sys2Proof/Machine/Step.lean ====
section
/-! DEFINITION. One step of the machine, and the state in which a given instruction is the next to run. -/

namespace Sys2Proof.Machine

/-- One step: one turn, then what every step adds (DESIGN CHOICE, log entry 10). -/
def step (s : State) : Host.Outcome State Fault Refusal := after s.turn

/-- `s` with an instruction of `nbits` bits, `w`, placed so that the very next step fetches and runs it (log entry 16). -/
def State.withFetchWord (s : State) (nbits w : Nat) : State :=
  let t := s.uid + 1
  { s with
      uid := t, pstate := 0
      inputs := .stream (placeStream t nbits w) :: s.inputs
      dies := s.dies.mod 0 (·.placed (bytesLE 12 (w % 2 ^ nbits)))
      teams := s.teams.ins t (if nbits > 64 then placedLaneTeam else placedTeam) }

end Sys2Proof.Machine
end

