-- ==== Sys2Proof/Safety.lean ====
section
/-! DEFINITION. What counts as a safe run, and the terms in which claims about the machine are stated. -/

namespace Sys2Proof.Machine

/-! ### Safe runs -/

/-- The stream that is to issue stands in the state and runs. -/
def State.issuing (s : State) : Bool :=
  match s.cur with
  | .warp t w => s.warpLive t w
  | .path t w b => s.warpLive t w && ((s.warp t w).path b).isSome
  | .seq t => s.seqLive t
  | .none => false

/-- A turn that the outside may fix: a stream that runs, an event of the part, an upset, an access of the host or of
firmware, or the passing of time. -/
def Turn.sound (s : State) : Turn → Bool
  | .stream x => State.issuing { s with cur := x }
  | .event i => !i.coded && i != .illegalInstruction && (match i with | .fetchFault _ _ _ _ => false | _ => true)
  | .upset _ => true
  | .registerRead _ _ _ | .vfRead _ _ _ _ | .vfWrite _ _ _ _ | .firmwareWrite _ _ _ _ | .spdm _ => true
  | .elapse _ => true

/-- `n` steps answer a next state each: no fault, no refusal. -/
def SafeFor : Nat → State → Prop
  | 0, _ => True
  | n + 1, s => ∃ t, step s = .next t ∧ SafeFor n t

/-- Instruction `i` runs to a next state of which `P` holds. -/
def Runs (i : Instr) (s : State) (P : State → Prop) : Prop := ∃ t, exec i s = .next t ∧ P t

/-! ### The canonical form of memory -/

/-- Device memory of every die and the scratchpad of every team are in canonical form. -/
def State.canonical (s : State) : Prop := (∀ x ∈ s.dies, Memory.wf x.2.mem = true) ∧ ∀ x ∈ s.teams, Memory.wf x.2.sp = true

/-! ### Bytes -/

/-- A byte of a die's device memory, and of a team's scratchpad. -/
def State.byte (s : State) (d a : Nat) : Byte := Map.get (s.die d).mem a 0
def State.spByte (s : State) (t a : Nat) : Byte := Map.get (s.team t).sp a 0

/-- Bytes `a` to `a + n - 1` of a die hold the number, little-endian; every other byte is as in `s`. -/
def State.storedAt (s s' : State) (d a n v : Nat) : Prop :=
  (∀ i < n, s'.byte d (a + i) = BitVec.ofNat 8 (v / 2 ^ (8 * i))) ∧ ∀ x, (x < a ∨ a + n ≤ x) → s'.byte d x = s.byte d x

/-- The same of a scratchpad. -/
def State.spStoredAt (s s' : State) (t a n v : Nat) : Prop :=
  (∀ i < n, s'.spByte t (a + i) = BitVec.ofNat 8 (v / 2 ^ (8 * i))) ∧ ∀ x, (x < a ∨ a + n ≤ x) → s'.spByte t x = s.spByte t x

/-! ### Scalar and matrix streams -/

/-- The issuing stream is warp `w` of team `t`, which runs, and none of its registers holds an uncorrectable error. -/
def State.onWarp (s : State) (t w : Nat) : Prop := s.cur = .warp t w ∧ s.warpLive t w = true ∧ (s.warp t w).badS = []

/-- The issuing stream is the sequencer of team `t`, which runs, with no matrix operation outstanding and no bad register. -/
def State.onSeq (s : State) (t : Nat) : Prop := s.cur = .seq t ∧ s.seqLive t = true ∧ (s.team t).seq.badT = [] ∧ (s.team t).mOps = []

/-- A scalar-encoded instruction with these register fields can run in the issuing stream (R48, R78, R80): a warp reads no register with
an uncorrectable error; a sequencer's fields name t0 to t31, and none of them waits for a matrix operation. -/
def State.ready (s : State) (fields : List Reg) : Prop :=
  match s.cur with
  | .warp t w => s.warpLive t w = true ∧ ∀ r ∈ fields, r.toNat ∉ (s.warp t w).badS
  | .seq t => s.seqLive t = true ∧ (∀ r ∈ fields, r.toNat < 32 ∧ r.toNat ∉ (s.team t).seq.badT) ∧ (s.team t).awaits (fields.map (·.toNat)) = false
  | _ => False

/-- Nothing but warp `w` of team `t` differs. -/
def WarpOnly (t w : Nat) (s s' : State) : Prop := s' = s.modWarp t w fun _ => s'.warp t w

/-- Nothing but the registers of the issuing scalar or matrix stream and its program counter differs; it waits for nothing. -/
def StreamOnly (s s' : State) : Prop :=
  match s.cur with
  | .warp t w => s' = s.modWarp t w fun W =>
      { W with s := (s'.warp t w).s, badS := (s'.warp t w).badS, spc := s'.pc, wait := .none, asks := [], got := [], qwait := none }
  | .seq t => s' = s.modSeq t fun q => { q with t := (s'.team t).seq.t, badT := (s'.team t).seq.badT, pc := s'.pc, wait := .none, asks := [] }
  | _ => False

/-- Register `d` of the issuing stream takes `x`, or nothing where `d` is register 0, the program counter becomes `p`, and nothing else
changes. -/
structure Wrote (s s' : State) (d : Nat) (x p : Word) : Prop where
  only : StreamOnly s s'
  regs : ∀ r < 64, s'.sreg r = if r = d ∧ r ≠ 0 then x else s.sreg r
  pc : s'.pc = p

/-- A one-word instruction's result. -/
def Result (s s' : State) (d : Reg) (x : Word) : Prop := Wrote s s' d.toNat x (s.pc + 4)

/-! ### Lane paths -/

/-- The issuing stream is the path in a slot of warp `w` of team `t`; the warp runs and none of its registers holds an uncorrectable
error. -/
def State.onPath (s : State) (t w : Nat) (b : Bool) : Prop :=
  s.cur = .path t w b ∧ s.warpLive t w = true ∧ ((s.warp t w).path b).isSome ∧ (s.warp t w).badV = []

/-- The path goes on at the next index: it is not at index 65,535. -/
def State.goesOn (s : State) (t w : Nat) (b : Bool) : Prop := (s.path t w b).pc < 65535

/-- The path in the slot after a lane instruction that only advances it. -/
def Path.stepped (p : Path) (now : Nat) : Path := { p with pc := p.pc + 1, asks := [], scales := [], issued := now }

/-- Lane `l` of register `r` reads `x l r` where it gives a value, else as before; the path advances; nothing else changes. -/
structure LaneWrote (s s' : State) (t w : Nat) (b : Bool) (x : Nat → Nat → Option Half) : Prop where
  only : s' = s.modWarp t w fun W => { W.setPath b (some ((s.path t w b).stepped s.now)) with v := (s'.warp t w).v, badV := (s'.warp t w).badV }
  vals : ∀ l < 32, ∀ r, (s'.warp t w).vw r l = (x l r).getD ((s.warp t w).vw r l)

/-! ### Faults that stop a stream -/

/-- The fault report of a warp's fault at the scalar stream's instruction (R412). -/
def State.warpReport (s : State) (t w cause detail addr code : Nat) : Report :=
  { teamref := (s.team t).ref.getD 0, teamid := (s.team t).teamid, asid := (s.team t).asid, socket := (s.team t).origin, core := (s.team t).core,
    warp := (s.warp t w).slot, detail := detail, cause := cause, code := code, pc := (s.warp t w).spc.toNat, addr := addr, time := s.time,
    host := (s.team t).die, team := t, windex := some w }

/-- The fault report of the matrix stream's instruction (R412), which has `n` bytes. -/
def State.seqReport (s : State) (t cause detail addr n : Nat) : Report :=
  { teamref := (s.team t).ref.getD 0, teamid := (s.team t).teamid, asid := (s.team t).asid, socket := (s.team t).origin, core := (s.team t).core,
    seq := true, detail := detail, cause := cause, pc := (s.team t).seq.pc.toNat, nxt := (s.team t).seq.pc.toNat + n, addr := addr, time := s.time,
    host := (s.team t).die, team := t }

/-- The warp has halted with this report; its program counter and scalar registers stand (R50, R410, R412). -/
structure WarpHalted (s s' : State) (t w : Nat) (R : Report) : Prop where
  life : (s'.warp t w).life = .halted
  report : (s'.warp t w).report = some R
  logged : s'.faults = s.faults ++ [R]
  pc : (s'.warp t w).spc = (s.warp t w).spc
  regs : ∀ r, (s'.warp t w).s.get r 0 = (s.warp t w).s.get r 0
  faulted : (s'.team t).faulted = true

/-- The sequencer has stopped with this report (R411, R412). -/
structure SeqStopped (s s' : State) (t : Nat) (R : Report) : Prop where
  life : (s'.team t).seq.life = .halted
  report : (s'.team t).seq.report = some R
  logged : s'.faults = s.faults ++ [R]
  pc : (s'.team t).seq.pc = (s.team t).seq.pc
  regs : ∀ r, (s'.team t).seq.t.get r 0 = (s.team t).seq.t.get r 0

/-- TRAPVEC of a team's address space (R81). -/
def State.trapvec (s : State) (t : Nat) : Word := (s.die (s.team t).origin).space.get ((s.team t).asid % 4096 * 64) 0

/-! ### Plain memory accesses -/

/-- No matrix operation is outstanding in any team, so no access races with one (R277). -/
def State.quiet (s : State) : Prop := ∀ x ∈ s.teams, x.2.mOps = []

/-- The little-endian value of `n` bytes of a die. -/
def State.value (s : State) (d a n : Nat) : Nat := ((List.range n).map fun i => (s.byte d (a + i)).toNat * 2 ^ (8 * i)).sum

/-- The same of a scratchpad. -/
def State.spValue (s : State) (t a n : Nat) : Nat := ((List.range n).map fun i => (s.spByte t (a + i)).toNat * 2 ^ (8 * i)).sum

/-- The issuing stream's access of `n` bytes at `x` passes every check of R183, and acts on the bytes at `p` of the team's origin die, which
are not poisoned, not mapped in a way that breaks R179, of no receive slot that has been released (R367) and no completion record (R349), and not
read by a matrix operation (R277); `s1` holds what the check and the caches have noted. -/
structure Reaches (s : State) (x n : Nat) (k : Acc) (p : Nat) (s1 : State) : Prop where
  quiet : s.quiet
  path : ∃ page pa s0, s.check s.view x n k = (.local page pa, s0) ∧ s0.place (s.team s.me).space x page pa (decide (k ≠ .read)) = (p, s1) ∧
    (s1.die (s.team s.me).origin).aliased (s.team s.me).space x page p = false ∧ s1.recordAt (s.team s.me).space x n = none
  kept : s1.releasedSlot (s.team s.me).space x = false
  clean : (s1.die (s.team s.me).origin).poisoned p = false

/-- Two states differ in what the dies' caches and base dies keep of translations, lines and mappings, in corrected errors counted and logged (R206), and in
the count of free values, only. -/
def NotesOnly (s s' : State) : Prop :=
  s' = { s with dies := s'.dies, ctr := s'.ctr, corrected := s'.corrected, recent := s'.recent, events := s'.events, logHead := s'.logHead } ∧
  ∀ d, { s'.die d with
    tcache := (s.die d).tcache, lines := (s.die d).lines, l1 := (s.die d).l1, icache := (s.die d).icache, msb := (s.die d).msb, uses := (s.die d).uses,
    dirty := (s.die d).dirty, imports := (s.die d).imports } = s.die d

/-- The teams, but for the old contents that fetches of running sub-launches may still see (R42). -/
def State.teamsButOld (s : State) : Map Team := s.teams.each fun _ T => { T with old := [] }

/-- The address of the leaf entry that maps an address (R186, R188). -/
def State.leafOf (s : State) (space va : Nat) : Option Nat := match (s.translate space va).1 with | .ok t => some (t.entryOf va) | .error _ => none

/-- No queue state block that the Bronze core knows of, and not the registration table, shares a byte with these (R372, R373). -/
def State.offQueues (s : State) (d a n : Nat) : Prop :=
  (∀ q ∈ (s.die d).queues, q.1 + 64 ≤ a ∨ a + n ≤ q.1) ∧
  ((s.die d).func.base.get 0x11000 0 = 0 ∨ a + n ≤ (s.die d).func.base.get 0x11000 0 ∨ (s.die d).func.base.get 0x11000 0 + 65536 ≤ a)

/-- A store at `x` to the bytes at `p` of die `d`: they hold `v`, and every other byte of every die stands but for the leaf entry, whose D
bit is set (R189). -/
def StoredGlobal (s s' : State) (d space x p n v : Nat) : Prop :=
  (∀ i < n, s'.byte d (p + i) = BitVec.ofNat 8 (v / 2 ^ (8 * i))) ∧
  ∀ e a, (e ≠ d ∨ a < p ∨ p + n ≤ a) → (e = d → ∀ l, s.leafOf space x = some l → a < l ∨ l + 8 ≤ a) → s'.byte e a = s.byte e a

/-- An access that the part makes for a unit, of `n` bytes within one line, passes every check and acts on an alias page at `pa`, on bytes that are not
poisoned, not mapped in a way that breaks R179, of no receive slot that has been released (R367), no completion record (R349), no queue state block, and
that no matrix operation reads (R277); `s1` holds what the check has noted. -/
structure PartReaches (s : State) (space va n : Nat) (k : Acc) (page : Page) (pa : Nat) (s1 : State) : Prop where
  quiet : s.quiet
  check : s.checkNow space va 1 k = (.local page pa, s1)
  bypass : page.a = true
  single : (s1.die (space / 4096)).aliased space va page pa = false
  clean : (s1.die (space / 4096)).poisoned pa = false
  kept : s1.releasedSlot space va = false
  plain : s1.recordAt space va n = none
  off : s1.offQueues (space / 4096) pa n

/-! ### What lane instructions write -/

/-- Lane `l` has effect: it is in the path's execution mask, not dead, and the predicate mask, or its complement, holds it (R61). -/
def State.acts (s : State) (t w : Nat) (b : Bool) (f : LaneWord) (l : Nat) : Bool :=
  (s.path t w b).m0.getLsbD l && !(s.warp t w).dead.getLsbD l && (f.pm == 0 || ((s.warp t w).m.get f.pm.toNat 0).getLsbD l != f.pn)

/-- The lanes with effect, in ascending order. -/
def State.acting (s : State) (t w : Nat) (b : Bool) (f : LaneWord) : List Nat := (List.range 32).filter (s.acts t w b f)

/-- Each lane with effect takes its value in vd, or in vd:vd+1 with the low word in vd. -/
def LaneResult (s s' : State) (t w : Nat) (b : Bool) (f : LaneWord) (wide : Bool) (v : Nat → Nat) : Prop :=
  LaneWrote s s' t w b fun l r =>
    if s.acts t w b f l then
      (if r = f.vd.toNat then some (BitVec.ofNat 32 (v l)) else if wide ∧ r = f.vd.toNat + 1 then some (BitVec.ofNat 32 (v l / 2 ^ 32)) else none)
    else none

/-- Each lane with effect takes its bit in mask `k`: m1 to m7 are written, bits of the execution mask m0 are only cleared (R154). The path
advances; nothing else changes. -/
structure MaskWrote (s s' : State) (t w : Nat) (b : Bool) (f : LaneWord) (k : Nat) (p : Nat → Bool) : Prop where
  only : s' = s.modWarp t w fun W =>
    { W.setPath b (some { (s.path t w b).stepped s.now with m0 := (s'.path t w b).m0 }) with m := (s'.warp t w).m }
  masks : ∀ j, 1 ≤ j → j < 8 → ∀ l < 32, ((s'.warp t w).m.get j 0).getLsbD l =
    if j = k ∧ s.acts t w b f l = true then p l else ((s.warp t w).m.get j 0).getLsbD l
  m0 : ∀ l < 32, (s'.path t w b).m0.getLsbD l = ((s.path t w b).m0.getLsbD l && (decide (k ≠ 0) || !s.acts t w b f l || p l))

/-- Shared register `r` of the running block takes `x`, with its bit in the written mask (R94); the path advances; nothing else changes. -/
def SharedWrote (s s' : State) (t w : Nat) (b : Bool) (r : Nat) (x : Word) : Prop :=
  s' = s.modWarp t w fun W => (W.setSnap r x).setPath b (some ((s.path t w b).stepped s.now))

/-- The path advances; nothing else changes. -/
def PathSteps (s s' : State) (t w : Nat) (b : Bool) : Prop := s' = s.modWarp t w fun W => W.setPath b (some ((s.path t w b).stepped s.now))

/-- The path goes to another index; nothing else changes. -/
def PathGoes (s s' : State) (t w : Nat) (b : Bool) (i : Nat) : Prop :=
  s' = s.modWarp t w fun W => W.setPath b (some { (s.path t w b).stepped s.now with pc := i })

end Sys2Proof.Machine
end

