-- ==== Sys2Proof/Certificates/Slice0/Obligations.lean ====
section
/-! DEFINITION. The statements for the provers. -/

open Sys2Proof Sys2Proof.Machine

/-! ### Scalar and matrix streams -/

/-- R85 and R86: the ALU family in either stream, whatever register a field names. `x` and `y` are the unsigned operands, `sx` and `sy` the
signed ones, `n` the shift count; BFX and BFI take the position from y[5:0] and the width from y[13:8]. Everything else of the package stays
as it is. -/
def Obligations.ScalarRegisterResults : Prop :=
  ∀ (s : State) (d a b : Reg), s.ready [d, a, b] →
    let x := (s.reg a).toNat
    let y := (s.reg b).toNat
    let sx := (s.reg a).toInt
    let sy := (s.reg b).toInt
    let n := y % 64
    let p := y % 2 ^ 6
    let w := y / 2 ^ 8 % 2 ^ 6
    let old := (s.reg d).toNat
    let nat (k : Nat) : Word := BitVec.ofNat 64 k
    let int (k : Int) : Word := BitVec.ofInt 64 k
    let one (c : Bool) : Word := if c then 1 else 0
    let gives (i : Instr) (v : Word) : Prop := Runs i s fun t => Result s t d v
    gives (.add d a b) (nat (x + y)) ∧ gives (.sub d a b) (int ((x : Int) - y)) ∧ gives (.and d a b) (nat (x &&& y)) ∧
    gives (.or d a b) (nat (x ||| y)) ∧ gives (.xor d a b) (nat (x ^^^ y)) ∧ gives (.andn d a b) (nat (x &&& (2 ^ 64 - 1 - y))) ∧
    gives (.shl d a b) (nat (x * 2 ^ n)) ∧ gives (.shr d a b) (nat (x / 2 ^ n)) ∧ gives (.sar d a b) (int (sx / 2 ^ n)) ∧
    gives (.mul d a b) (nat (x * y)) ∧ gives (.mulhu d a b) (nat (x * y / 2 ^ 64)) ∧ gives (.mulhs d a b) (int (sx * sy / 2 ^ 64)) ∧
    gives (.divu d a b) (if y = 0 then nat (2 ^ 64 - 1) else nat (x / y)) ∧ gives (.remu d a b) (if y = 0 then nat x else nat (x - y * (x / y))) ∧
    gives (.divs d a b) (if y = 0 then int (-1) else if sx = -2 ^ 63 ∧ sy = -1 then int (-2 ^ 63) else int (sx.tdiv sy)) ∧
    gives (.rems d a b) (if y = 0 then int sx else if sx = -2 ^ 63 ∧ sy = -1 then int 0 else int (sx - sy * sx.tdiv sy)) ∧
    gives (.min d a b) (int (min sx sy)) ∧ gives (.max d a b) (int (max sx sy)) ∧ gives (.minu d a b) (nat (min x y)) ∧
    gives (.maxu d a b) (nat (max x y)) ∧
    gives (.clz d a) (nat ((List.range 64).takeWhile fun i => !x.testBit (63 - i)).length) ∧
    gives (.ctz d a) (nat ((List.range 64).takeWhile fun i => !x.testBit i).length) ∧
    gives (.popc d a) (nat ((List.range 64).filter fun i => x.testBit i).length) ∧
    gives (.seq d a b) (one (x = y)) ∧ gives (.sne d a b) (one (x ≠ y)) ∧ gives (.slt d a b) (one (sx < sy)) ∧
    gives (.sltu d a b) (one (x < y)) ∧ gives (.sle d a b) (one (sx ≤ sy)) ∧ gives (.sleu d a b) (one (x ≤ y)) ∧
    gives (.cmov d a b) (if y ≠ 0 then nat x else nat old) ∧
    gives (.bfx d a b) (nat (x / 2 ^ p % 2 ^ w)) ∧
    gives (.bfi d a b) (nat ((old &&& ((2 ^ 128 - 1) ^^^ ((2 ^ w - 1) * 2 ^ p))) ||| (x % 2 ^ w * 2 ^ p)))

/-- R87 and R88: the immediate forms, LI, LIH and ADDX in either stream. -/
def Obligations.ScalarImmediateResults : Prop :=
  ∀ (s : State) (d a : Reg), s.ready [d, a] → ∀ (imm : BitVec 14) (sh : BitVec 6) (j : Half),
    let x := (s.reg a).toNat
    let sx := (s.reg a).toInt
    let i := imm.toInt
    let u := imm.toNat
    let nat (k : Nat) : Word := BitVec.ofNat 64 k
    let int (k : Int) : Word := BitVec.ofInt 64 k
    let one (c : Bool) : Word := if c then 1 else 0
    let gives (i : Instr) (v : Word) : Prop := Runs i s fun t => Result s t d v
    let gives2 (i : Instr) (v : Word) : Prop := Runs i s fun t => Wrote s t d.toNat v (s.pc + 8)
    gives (.addi d a imm) (int (x + i)) ∧ gives (.andi d a imm) (nat (x &&& u)) ∧ gives (.ori d a imm) (nat (x ||| u)) ∧
    gives (.xori d a imm) (nat (x ^^^ u)) ∧ gives (.shli d a sh) (nat (x * 2 ^ sh.toNat)) ∧ gives (.shri d a sh) (nat (x / 2 ^ sh.toNat)) ∧
    gives (.sari d a sh) (int (sx / 2 ^ sh.toNat)) ∧ gives (.slti d a imm) (one (sx < i)) ∧
    gives (.sltui d a imm) (one ((x : Int) < i % 2 ^ 64)) ∧ gives (.seqi d a imm) (one (sx = i)) ∧
    gives2 (.li d j) (int j.toInt) ∧ gives2 (.lih d j) (nat (j.toNat * 2 ^ 32 + (s.reg d).toNat % 2 ^ 32)) ∧
    gives2 (.addx d a j) (int (x + j.toInt))

/-- R89: branches and jumps from an instruction on a 4-byte boundary: where they go, and the link they leave. JR reads s_a before it writes
s_d; a JAL of a sequencer that awaits its link register waits (R80); a misaligned target is the subject of `TransferMisaligned`. -/
def Obligations.TransfersGo : Prop :=
  (∀ (s : State) (a b : Reg), s.ready [a, b] → s.pc.toNat % 4 = 0 → ∀ (cc : Cond) (off : BitVec 11),
    let taken : Bool := match cc with
      | .eq => decide (s.reg a = s.reg b)
      | .ne => decide (s.reg a ≠ s.reg b)
      | .lt => decide ((s.reg a).toInt < (s.reg b).toInt)
      | .ge => decide ((s.reg a).toInt ≥ (s.reg b).toInt)
      | .ltu => decide ((s.reg a).toNat < (s.reg b).toNat)
      | .geu => decide ((s.reg a).toNat ≥ (s.reg b).toNat)
    Runs (.br cc a b off) s fun t => Wrote s t 0 0 (if taken then BitVec.ofInt 64 (s.pc.toNat + 4 * off.toInt) else s.pc + 4)) ∧
  (∀ s : State, s.ready [] → s.pc.toNat % 4 = 0 → ∀ off : BitVec 26,
    Runs (.j off) s (fun t => Wrote s t 0 0 (BitVec.ofInt 64 (s.pc.toNat + 4 * off.toInt))) ∧
    ((∀ t, s.cur = .seq t → (s.team t).awaits [31] = false) →
      Runs (.jal off) s fun t => Wrote s t 31 (s.pc + 4) (BitVec.ofInt 64 (s.pc.toNat + 4 * off.toInt))) ∧
    (∀ t, s.cur = .seq t → (s.team t).awaits [31] = true → Runs (.jal off) s (· = s))) ∧
  ∀ (s : State) (d a : Reg), s.ready [d, a] → ∀ imm : BitVec 14,
    let target := BitVec.ofInt 64 ((s.reg a).toNat + imm.toInt)
    target.toNat % 4 = 0 → Runs (.jr d a imm) s fun t => Wrote s t d.toNat (s.pc + 4) target

/-- R38: in the scalar stream a JR to a misaligned address is a warp-level fault, cause alignment (R408: 5), taken at the instruction: no
register and no program counter changes. -/
def Claims.TransferMisaligned : Prop :=
  ∀ (s : State) (t w : Nat), s.onWarp t w → ∀ (d a : Reg) (imm : BitVec 14),
    let target := ((s.reg a).toNat + imm.toInt) % 2 ^ 64
    target % 4 ≠ 0 → Runs (.jr d a imm) s fun s' => WarpHalted s s' t w (s.warpReport t w 5 0 target.toNat 0)

/-- R38, R411: the same in the matrix stream of an address space without a handler: the sequencer stops. -/
def Claims.SequencerFaultStops : Prop :=
  ∀ (s : State) (t : Nat), s.onSeq t → s.ilen = 4 → s.trapvec t = 0 → ∀ (d a : Reg) (imm : BitVec 14), d.toNat < 32 → a.toNat < 32 →
    let target := ((s.reg a).toNat + imm.toInt) % 2 ^ 64
    target % 4 ≠ 0 → Runs (.jr d a imm) s fun s' => SeqStopped s s' t (s.seqReport t 5 0 target.toNat 4) ∧ (s'.team t).faulted = true

/-- R98, R46, R50: SYS.TRAP and SYS.BRK take the software trap (cause 8, with the code s_a[15:0]) and the breakpoint (cause 10) at the
instruction; a word that encodes no instruction takes the illegal-instruction fault (cause 7). -/
def Claims.ScalarTraps : Prop :=
  ∀ (s : State) (t w : Nat), s.onWarp t w → ∀ a : Reg,
    Runs (.sysTrap a) s (fun s' => WarpHalted s s' t w (s.warpReport t w 8 0 0 ((s.reg a).toNat % 2 ^ 16))) ∧
    Runs .sysBrk s (fun s' => WarpHalted s s' t w (s.warpReport t w 10 0 0 0)) ∧
    Runs .illegalInstruction s (fun s' => WarpHalted s s' t w (s.warpReport t w 7 0 0 0))

/-- R41: a fetch of the scalar stream that fails. A page that is absent suspends the warp (R409); a page that is not executable is a
warp-level fault, cause 11, detail 2, with the address and STRADDLE of the fetch; poisoned bytes kill the warp, cause 14, detail 4, and
every living lane dies. -/
def Claims.FetchFaults : Prop :=
  ∀ (s : State) (t w : Nat), s.onWarp t w → ∀ (addr : Nat) (straddle : Bool),
    Runs (.fetchFault 11 1 addr straddle) s
      (fun s' => s' = s.modWarp t w fun W => { W with wait := .absent (s.team t).space (addr / 4096) }) ∧
    Runs (.fetchFault 11 2 addr straddle) s
      (fun s' => WarpHalted s s' t w { s.warpReport t w 11 2 addr 0 with straddle := straddle }) ∧
    Runs (.fetchFault 14 4 addr straddle) s
      (fun s' => (s'.warp t w).life = .halted ∧ (s'.warp t w).dead = ~~~0 ∧ (s'.warp t w).report.map (fun R => (R.cause, R.detail, R.addr)) = some (14, 4, addr))

/-- R41, R46, R281, R411: a fetch of the matrix stream that fails, and a word that encodes no instruction for it. A page that is absent suspends the sequencer; the
other faults stop it, here in an address space without a handler (TRAPVEC 0): FETCH, POISON with detail 4, or ILLEGAL. -/
def Claims.MatrixFetchFaults : Prop :=
  ∀ (s : State) (t : Nat), s.onSeq t → ∀ (addr : Nat) (straddle : Bool),
    Runs (.fetchFault 11 1 addr straddle) s (fun s' => s' = s.modSeq t fun q => { q with wait := .absent (s.team t).space (addr / 4096) }) ∧
    (s.trapvec t = 0 →
      Runs (.fetchFault 11 2 addr straddle) s (fun s' => SeqStopped s s' t { s.seqReport t 11 2 addr s.ilen with straddle := straddle }) ∧
      Runs (.fetchFault 14 4 addr straddle) s (fun s' => SeqStopped s s' t (s.seqReport t 14 4 addr s.ilen)) ∧
      Runs .illegalInstruction s fun s' => SeqStopped s s' t (s.seqReport t 7 0 0 s.ilen))

/-- R40, R41, R62, R158, R161, R417: a fetch of a lane stream that fails, and a word that encodes no lane instruction, here in a warp that is no handler's, with an
empty stack and an entry free. The members of the path park as one fragment, its idle lanes noted; for a word without meaning the lanes of m0 do,
and with m0 zero the word has no effect. Where the address space has no handler, what a program would see kills the lanes, cause NOHANDLER; poisoned bytes
kill the members. -/
def Claims.LaneFetchFaults : Prop :=
  ∀ (s : State) (t w : Nat) (b : Bool), s.onPath t w b → ∀ (addr : Nat) (straddle : Bool),
    let p := s.path t w b
    let W := s.warp t w
    let T := s.team t
    let die_ (i : Instr) (ls : Half) (cause : Nat) : Prop := Runs i s fun s' => (s'.warp t w).dead = W.dead ||| ls ∧
      ∀ l < 32, ls.getLsbD l = true → W.dead.getLsbD l = false → (s'.warp t w).deaths.get l 0 = cause
    let parks (i : Instr) (F : Frag) : Prop := Runs i s fun s' => (∃ k ∈ s.freeFrags T.die T.core, s'.frags.find (s.uid + 1) = some
        { F with team := t, warp := w, entry := some k, pc := p.pc, join := p.join, at_ := s.now, state := .parked }) ∧
      (F.mask = p.mem → (s'.warp t w).path b = none) ∧ (s'.warp t w).dead = W.dead
    T.handler = false → W.stack = [] → s.freeFrags T.die T.core ≠ [] → p.mem ≠ 0 →
    parks (.fetchFault 11 1 addr straddle) { mask := p.mem, idle := p.mem &&& ~~~p.m0, cause := 11, detail := 1, addr := addr, straddle := straddle } ∧
    die_ (.fetchFault 14 4 addr straddle) p.mem 1 ∧
    (s.trapvec t ≠ 0 →
      parks (.fetchFault 11 2 addr straddle) { mask := p.mem, idle := p.mem &&& ~~~p.m0, cause := 11, detail := 2, addr := addr, straddle := straddle } ∧
      (p.m0 ≠ 0 → parks .illegalInstruction { mask := p.m0, cause := 7 })) ∧
    (s.trapvec t = 0 → die_ (.fetchFault 11 2 addr straddle) p.mem 6 ∧ (p.m0 ≠ 0 → die_ .illegalInstruction p.m0 6)) ∧
    (p.m0 = 0 → s.goesOn t w b → Runs .illegalInstruction s fun s' => PathSteps s s' t w b)

/-- R92: LGO puts an entry at the end of a lane queue that has room, with the start index s_a + imm14, the values of s32 to s63, a written mask
of 0 and the STREAM of its warp; it notes the remote writes that precede the block (R97); nothing else changes. With the four entries taken it does not issue. A start outside 0 to 65,535 is an
illegal-instruction fault. -/
def Obligations.LgoQueuesBlock : Prop :=
  ∀ (s : State) (t w : Nat), s.onWarp t w → ∀ (a : Reg) (imm : BitVec 14),
    let start : Int := (s.reg a).toNat + imm.toInt
    (0 ≤ start → start ≤ 65535 → (s.warp t w).queue.length < 4 → Runs (.lgo a imm) s fun s' =>
      ∃ b : Block, (b.start : Int) = start ∧ b.written = 0 ∧ b.stream = (s.warp t w).stream ∧ b.before = (s.warp t w).writes ∧
        (∀ r, 32 ≤ r → b.snap.get r 0 = (s.warp t w).s.get r 0) ∧
        s' = (s.modWarp t w fun W => { W with queue := W.queue ++ [b] }).advance 4) ∧
    (0 ≤ start → start ≤ 65535 → 4 ≤ (s.warp t w).queue.length → Runs (.lgo a imm) s (· = s)) ∧
    (start < 0 ∨ 65535 < start → Runs (.lgo a imm) s fun s' => WarpHalted s s' t w (s.warpReport t w 7 0 0 0))

/-- R96, R98 to R103: LWAIT, and the SYS instructions that are not traps. LWAIT waits until at most n entries remain. SLEEP of no time is
NOP; else the stream waits until its nanoseconds have passed, at 7 cycles in 4 ns, and SLEEP_EXPIRY then resumes it after the SLEEP. EXIT waits
for the lane queue and ends the warp, here one of a team that is no handler's; its membership records stand until the root answers the leaves that it sends (R306). -/
def Claims.WaitsAndEnds : Prop :=
  ∀ (s : State) (t w : Nat), s.onWarp t w → ∀ (a : Reg) (n : BitVec 2),
    let W := s.warp t w
    let ns := (s.reg a).toNat % 2 ^ 32
    (W.queue.length ≤ n.toNat → Runs (.lwait n) s (· = s.advance 4)) ∧ (n.toNat < W.queue.length → Runs (.lwait n) s (· = s)) ∧
    Runs .sysNop s (· = s.advance 4) ∧
    ((∀ till, W.wait ≠ .sleep till) → (ns = 0 → Runs (.sysSleep a) s (· = s.advance 4)) ∧
      (ns ≠ 0 → Runs (.sysSleep a) s fun s' => ∃ till, 4 * till ≥ 4 * s.now + 7 * ns ∧ 4 * till < 4 * s.now + 7 * ns + 4 ∧
        s' = s.modWarp t w fun W => { W with wait := .sleep till })) ∧
    (∀ till, W.wait = .sleep till → till ≤ s.now →
      Runs (.sleepExpiry t w) s (· = s.modWarp t w fun W => { W with wait := .none, spc := W.spc + 4 })) ∧
    (W.queue ≠ [] → Runs .sysExit s (· = s)) ∧
    (W.queue = [] → (s.team t).handler = false → Runs .sysExit s fun s' =>
      (s'.warp t w).life = .ended ∧ (s'.warp t w).members = W.members ∧ ∀ r, (s'.warp t w).s.get r 0 = W.s.get r 0)

/-- R102, R103: SYS.CLOCK and SYS.PTPREAD; both results of PTPREAD come from one reading, and register 0 takes none of them. -/
def Claims.ClockReads : Prop :=
  ∀ (s : State) (t w : Nat), s.onWarp t w → ∀ (d a : Reg),
    let sec := s.ptpNs / 10 ^ 9
    Runs (.sysClock d) s (fun s' => Result s s' d (BitVec.ofNat 64 (s.die (s.team t).die).cycles)) ∧
    Runs (.sysPtpread d a) s fun s' => StreamOnly s s' ∧ s'.pc = s.pc + 4 ∧
      ∀ r < 64, s'.sreg r = if r = 0 then 0 else if r = a.toNat then BitVec.ofNat 64 (sec / 2 ^ 32 % 2 ^ 16)
        else if r = d.toNat then BitVec.ofNat 64 (sec % 2 ^ 32 * 2 ^ 32 + s.ptpNs % 10 ^ 9) else s.sreg r

/-- R100: SYS.YIELD passes the YIELD and makes its team leave its core, with its engine frozen and its warps' waits ended; a team that is
leaving already is not suspended twice. The team is saved at once where nothing holds it (R252, R431), else by a later step. -/
def Obligations.YieldLeaves : Prop :=
  ∀ (s : State) (t w : Nat), s.onWarp t w → (s.team t).phase = .resident →
    Runs .sysYield s fun s' =>
      let s1 := (s.advance 4).startLeave t
      (s1.team t).leaving = true ∧ (s1.warp t w).spc = (s.warp t w).spc + 4 ∧
      ((s.team t).leaving = false → (s1.team t).frozen = true) ∧
      (s1.maySave t = true → s' = s1.saveTeam t ∧ (s'.team t).phase = .away ∧ (s'.team t).leaving = false) ∧ (s1.maySave t = false → s' = s1)

/-- The control registers that SGET reads, with their values (R81, R258); the sequencer counts as warp 32. -/
def controlRegisters (s : State) (t w : Nat) : List (Nat × Nat) :=
  let T := s.team t
  [(0x00, T.teamid), (0x01, T.xyz), (0x02, T.grid), (0x03, w), (0x04, T.nwarps), (0x05, T.die * 256 + T.core), (0x06, T.subidx), (0x07, T.part),
   (0x08, T.lanebase), (0x09, T.asid), (0x0A, T.prio), (0x0B, if w = 32 then 0 else (s.warp t w).dead.toNat),
   (0x10, if w = 32 then T.seq.stream else (s.warp t w).stream), (0x11, (s.trapvec t).toNat),
   (0x20, T.badcols * 2 ^ 40 + T.badrows * 2 ^ 32 + T.mq.length * 2 ^ 28 + T.fcause * 2 ^ 24 + T.ftile * 2 ^ 16 + (if T.frozen then 2 ^ 8 else 0) + T.retry),
   (0x21, T.mretry), (0x22, T.mtol8), (0x23, T.mtol4), (0x24, T.minj.toNat)] ++
  (List.range 8).flatMap fun k => (List.range 3).map fun j => (0x40 + 4 * k + j, ((s.die T.origin).space.get (64 * (T.asid % 4096) + 4 * k + j + 1) 0).toNat)

/-- R81 to R83: SGET reads the control register that its index names, in either stream; a reserved index is an illegal-instruction fault,
here of a warp. That TEAMID gives the whole linear index is the model's reading (log entry 36). -/
def Obligations.SgetReads : Prop :=
  (∀ (s : State) (d : Reg), s.ready [d] → ∀ t w, s.cur.ids = some (t, w) → ∀ (idx : BitVec 14) (x : Nat), (idx.toNat, x) ∈ controlRegisters s t w →
    Runs (.sget d idx) s fun s' => Result s s' d (BitVec.ofNat 64 x)) ∧
  ∀ (s : State) (t w : Nat), s.onWarp t w → ∀ (d : Reg) (idx : BitVec 14), (∀ x, (idx.toNat, x) ∉ controlRegisters s t w) →
    Runs (.sget d idx) s fun s' => WarpHalted s s' t w (s.warpReport t w 7 0 0 0)

/-- R81 to R83: SPUT of a warp. STREAM, MRETRY, MTOL_BI8 and MTOL_BI4 take the low bits; MINJ takes its bits but the reserved ones (R259);
TRAPVEC and the scale windows take a value where the warp may execute PRIV; a register that is read only keeps its value; a reserved index is
an illegal-instruction fault. -/
def Obligations.SputWrites : Prop :=
  ∀ (s : State) (t w : Nat), s.onWarp t w → w < 32 → ∀ (a : Reg) (idx : BitVec 14),
    let x := (s.reg a).toNat
    let T := s.team t
    (idx = 0x10 → Runs (.sput a idx) s (· = (s.modWarp t w fun W => { W with stream := x % 2 ^ 16 }).advance 4)) ∧
    (idx = 0x21 → Runs (.sput a idx) s (· = (s.modTeam t fun T => { T with mretry := x % 2 ^ 8 }).advance 4)) ∧
    (idx = 0x22 → Runs (.sput a idx) s (· = (s.modTeam t fun T => { T with mtol8 := x % 2 ^ 8 }).advance 4)) ∧
    (idx = 0x23 → Runs (.sput a idx) s (· = (s.modTeam t fun T => { T with mtol4 := x % 2 ^ 8 }).advance 4)) ∧
    (idx = 0x24 → T.mOps = [] → Runs (.sput a idx) s (· = (s.modTeam t fun T => { T with minj := s.reg a &&& 0xFFFFFFFFFF3F3F33 }).advance 4)) ∧
    (idx = 0x11 → T.pmgr || T.handler →
      Runs (.sput a idx) s (· = (s.modDie T.origin fun D => { D with space := D.space.put 0 (64 * (T.asid % 4096)) (s.reg a) }).advance 4)) ∧
    (∀ k < 8, ∀ j < 3, idx.toNat = 0x40 + 4 * k + j → T.pmgr || T.handler → Runs (.sput a idx) s fun s' =>
      s' = (s.modDie T.origin fun D =>
        { D with space := D.space.put 0 (64 * (T.asid % 4096) + 4 * k + j + 1) (if j = 2 then s.reg a &&& 3 else s.reg a) }).advance 4) ∧
    ((idx = 0x11 ∨ 0x40 ≤ idx.toNat) → (T.pmgr || T.handler) = false → (∃ y, (idx.toNat, y) ∈ controlRegisters s t w) →
      Runs (.sput a idx) s (· = s.advance 4)) ∧
    (idx.toNat ≤ 0xB ∨ idx = 0x20 → Runs (.sput a idx) s (· = s.advance 4)) ∧
    ((∀ y, (idx.toNat, y) ∉ controlRegisters s t w) → Runs (.sput a idx) s fun s' => WarpHalted s s' t w (s.warpReport t w 7 0 0 0))

/-- R38, R50, R411, R412: what a misaligned transfer does in a warp, and in a sequencer of an address space without a handler (TRAPVEC 0) at a 4-byte
instruction. Both parts, as `Claims.TransferMisaligned` and `Claims.SequencerFaultStops` state them. That the fault address is the misaligned target
is the model's reading (log entry 36). -/
def Obligations.TransfersStop : Prop := Claims.TransferMisaligned ∧ Claims.SequencerFaultStops

/-- R41, R46, R50, R62, R98, R281: the software trap and the breakpoint, and in the scalar, the matrix and the lane stream the illegal instruction and a fetch that
fails. All parts, as `Claims.ScalarTraps`, `Claims.FetchFaults`, `Claims.MatrixFetchFaults` and `Claims.LaneFetchFaults` state them. -/
def Obligations.TrapsAndFetchFaults : Prop := Claims.ScalarTraps ∧ Claims.FetchFaults ∧ Claims.MatrixFetchFaults ∧ Claims.LaneFetchFaults

/-- R96, R98 to R103: LWAIT and the SYS instructions of waiting, ending and reading clocks. Both parts, as `Claims.WaitsAndEnds` and `Claims.ClockReads` state them.
The clock's value at reset is the model's (log entry 5). -/
def Obligations.WaitsEndsAndClock : Prop := Claims.WaitsAndEnds ∧ Claims.ClockReads

/-! ### Memory of the scalar stream -/

/-- R198: the loads of the scalar stream. The value's bytes lie little-endian at the place that the address is served from; SLD and SLDP
extend the sign, SLDZ zeros. A load changes its register and the program counter, and what the part keeps of translations and lines. -/
def Obligations.ScalarLoads : Prop :=
  ∀ (s : State) (t w : Nat), s.onWarp t w → (s.warp t w).got = [] → (∀ r, (s.warp t w).wait ≠ .remote r) →
    ∀ (d a : Reg) (sz : BitVec 2) (imm : BitVec 12),
      let n := 2 ^ sz.toNat
      let x := (BitVec.ofInt 64 ((s.reg a).toNat + imm.toInt)).toNat
      let signed (v : Nat) : Word := BitVec.ofInt 64 (BitVec.ofNat (8 * n) v).toInt
      (∀ p s1, Reaches s x n .read p s1 →
        let v := s.value (s.team t).origin p n
        NotesOnly s s1 ∧ Runs (.sld d a sz imm) s (fun s' => ∃ s2, NotesOnly s s2 ∧ Result s2 s' d (signed v)) ∧
        Runs (.sldz d a sz imm) s fun s' => ∃ s2, NotesOnly s s2 ∧ Result s2 s' d (BitVec.ofNat 64 v)) ∧
      (x % n = 0 → x + n ≤ (s.team t).spad → (s.team t).spBad = [] → (s.team t).mOps = [] →
        Runs (.sldp d a sz imm) s fun s' => Result s s' d (signed (s.spValue t x n)))

/-- R198: the stores of the scalar stream write the low bytes of s_d, little-endian, at the place that the address is served from; every
register and every other byte stands, but the D bit of the page (R189). -/
def Claims.StoredBytes : Prop :=
  ∀ (s : State) (t w : Nat), s.onWarp t w → ∀ (d a : Reg) (sz : BitVec 2) (imm : BitVec 12),
    let n := 2 ^ sz.toNat
    let x := (BitVec.ofInt 64 ((s.reg a).toNat + imm.toInt)).toNat
    let o := (s.team t).origin
    (∀ p s1, (s.dies.find o).isSome → Reaches s x n .write p s1 → s1.offQueues o p n →
      Runs (.sst d a sz imm) s fun s' =>
        StoredGlobal s s' o (s.team t).space x p n (s.reg d).toNat ∧ s'.teamsButOld = (s.advance 4).teamsButOld) ∧
    (x % n = 0 → x + n ≤ (s.team t).spad → (s.team t).mOps = [] → Runs (.sstp d a sz imm) s fun s' =>
      s.spStoredAt s' t x n (s.reg d).toNat ∧ (∀ u, u ≠ t → (s'.team u) = s.team u) ∧ s'.dies = s.dies ∧ s'.pc = s.pc + 4 ∧ ∀ r < 64, s'.sreg r = s.sreg r)

/-- A request has been made under the number `id`: it stands with the others, and is held at its source or has left its die, onto the package's
links or for a Twill port. Nothing else differs but the dies' tags and sequence numbers (R337, R338) and the remote bytes of a queue (R344). -/
def RequestMade (s s' : State) (id : Nat) (r : Req) : Prop :=
  s' = { s with uid := s'.uid, dies := s'.dies, reqs := s.reqs.ins id r, wires := s'.wires, outward := s'.outward } ∧
  (∀ d, { s'.die d with nextTag := (s.die d).nextTag, seq := (s.die d).seq, queues := (s.die d).queues } = s.die d) ∧
  ((r.sent = false ∧ s'.wires = s.wires ∧ s'.outward = s.outward) ∨ (r.sent = true ∧ s'.wires = s.wires ++ [r.packet] ∧ s'.outward = s.outward) ∨
    (r.sent = true ∧ s'.wires = s.wires ∧ ∃ port, s'.outward = s.outward ++ [(port, r.packet)]))

/-- R198: a store of the scalar stream completes. SST whose check finds local memory stores the low bytes of s_d there; one whose check passes at a peer
window posts a remote store (R332), a write of the low bytes of s_d at the offset in the export that the window's import entry names (R322), which the
warp remembers (R221), and else only advances; SSTP that is aligned and inside the scratchpad stores there. -/
def Claims.StoresComplete : Prop :=
  ∀ (s : State) (t w : Nat), s.onWarp t w → ∀ (d a : Reg) (sz : BitVec 2) (imm : BitVec 12),
    let n := 2 ^ sz.toNat
    let x := (BitVec.ofInt 64 ((s.reg a).toNat + imm.toInt)).toNat
    let bs : List Byte := (List.range n).map fun i => BitVec.ofNat 8 ((s.reg d).toNat / 2 ^ (8 * i))
    let T := s.team t
    (∀ page pa s1, s.check s.view x n .write = (.local page pa, s1) →
      exec (.sst d a sz imm) s = .next ((s1.store T.space x page pa bs).advance 4)) ∧
    (∀ e s1, s.quiet → s.check s.view x n .write = (.remote e, s1) → ∃ (r : Req) (s2 : State), NotesOnly s s1 ∧ RequestMade s1 s2 (s1.uid + 1) r ∧
      exec (.sst d a sz imm) s = .next ((s2.posted (s1.uid + 1)).advance 4) ∧ r.owner = .scalar t w ∧ r.src = T.origin ∧ r.packet.type = .write ∧
      r.packet.dpkg = e / 2 ^ 52 % 2 ^ 12 ∧ r.packet.dsock = e / 2 ^ 50 % 4 ∧ r.packet.exp = e / 2 ^ 34 % 2 ^ 16 ∧ r.packet.egen = e / 2 ^ 18 % 2 ^ 16 ∧
      r.packet.offset = x % 2 ^ 32 ∧ r.packet.len = n ∧ r.packet.data = bs) ∧
    (x % n = 0 → x + n ≤ T.spad → exec (.sstp d a sz imm) s = .next ((s.spWrite t x bs).advance 4))

/-- R198, R189, R332: the stores of the scalar stream complete, at the bytes that they reach and at peer windows. Both parts, as `Claims.StoredBytes` and
`Claims.StoresComplete` state them. -/
def Obligations.ScalarStores : Prop := Claims.StoredBytes ∧ Claims.StoresComplete

/-- R183, R199: what a scalar load does that cannot act at once. A page that the filter does not hold is asked of the base die, and the
instruction issues again (R182); an absent page suspends the stream; every other failing check is a warp-level fault at the instruction, with
the check's cause and address. Alignment comes first, then the canonical form, for a scratchpad its size. -/
def Obligations.ScalarAccessFaults : Prop :=
  ∀ (s : State) (t w : Nat), s.onWarp t w → (s.warp t w).got = [] → (∀ r, (s.warp t w).wait ≠ .remote r) →
    ∀ (d a : Reg) (sz : BitVec 2) (imm : BitVec 12),
      let n := 2 ^ sz.toNat
      let x := (BitVec.ofInt 64 ((s.reg a).toNat + imm.toInt)).toNat
      (x % n ≠ 0 → Runs (.sld d a sz imm) s (fun s' => WarpHalted s s' t w (s.warpReport t w 5 0 x 0)) ∧
        Runs (.sldp d a sz imm) s fun s' => WarpHalted s s' t w (s.warpReport t w 5 0 x 0)) ∧
      (x % n = 0 → 2 ^ 52 ≤ x → Runs (.sld d a sz imm) s fun s' => WarpHalted s s' t w (s.warpReport t w 1 2 x 0)) ∧
      (x % n = 0 → (s.team t).spad < x + n → Runs (.sldp d a sz imm) s fun s' => WarpHalted s s' t w (s.warpReport t w 2 3 x 0)) ∧
      (∀ q s1, s.check s.view x n .read = (.ask q, s1) → (s.warp t w).asks = [] → Runs (.sld d a sz imm) s fun s' =>
        s' = s1.modWarp t w fun W => { W with asks := [q] }) ∧
      ∀ c y s1, s.check s.view x n .read = (.fail c y, s1) →
        (c = 0x101 → Runs (.sld d a sz imm) s fun s' => s' = s1.modWarp t w fun W => { W with asks := [], wait := .absent (s.team t).space (y / 4096) }) ∧
        (c ≠ 0x101 → Runs (.sld d a sz imm) s fun s' => WarpHalted s s' t w (s.warpReport t w (c / 256) (c % 256) y 0))

/-- The atomic access of the issuing warp at `x` passes its checks and acts at `p`: at the base die for scope S, where a die-cache copy of
the line is dropped first (R224), else where the line is served from. -/
def AtomReaches (s : State) (x n : Nat) (sys : Bool) (p : Nat) (s1 : State) : Prop :=
  s.quiet ∧ ∃ page pa s0, s.check s.view x n .atomic = (.local page pa, s0) ∧
    (let sp := (s.team s.me).space
     let s2 := if sys && !page.a then s0.dropLine sp x else s0
     s2.place sp x page pa false sys = (p, s1) ∧ (s1.die (s.team s.me).origin).aliased sp x page p = false ∧ s1.releasedSlot sp x = false ∧
     s1.recordAt sp x n = none) ∧
    (s1.die (s.team s.me).origin).poisoned p = false

/-- R226: SATOM reads the old value and writes the new one in one step, and s_d takes the old value, zero-extended; every other register and
byte stands. A CAS that fails writes nothing. -/
def Obligations.ScalarAtomics : Prop :=
  ∀ (s : State) (t w : Nat), s.onWarp t w → (s.warp t w).got = [] → (∀ r, (s.warp t w).wait ≠ .remote r) → (s.dies.find (s.team t).origin).isSome →
    ∀ (d a b : Reg) (scope : Scope) (wide : Bool),
      let n := if wide then 8 else 4
      let x := (s.reg a).toNat
      let o := (s.team t).origin
      ∀ p s1, AtomReaches s x n (decide (scope = .s)) p s1 → s1.offQueues o p n →
        let old := s1.value o p n
        let v := (s.reg b).toNat % 2 ^ (8 * n)
        let sgn (y : Nat) : Int := (BitVec.ofNat (8 * n) y).toInt
        let does (i : Instr) (new : Nat) : Prop := Runs i s fun s' =>
          StoredGlobal s s' o (s.team t).space x p n new ∧ s'.teamsButOld = ((s.setReg d (BitVec.ofNat 64 old)).advance 4).teamsButOld
        does (.satomAdd d a b scope wide) (old + v) ∧ does (.satomAnd d a b scope wide) (old &&& v) ∧ does (.satomOr d a b scope wide) (old ||| v) ∧
        does (.satomXor d a b scope wide) (old ^^^ v) ∧
        does (.satomMin d a b scope wide) (if sgn v < sgn old then v else old) ∧ does (.satomMax d a b scope wide) (if sgn v > sgn old then v else old) ∧
        does (.satomMinu d a b scope wide) (min v old) ∧ does (.satomMaxu d a b scope wide) (max v old) ∧ does (.satomXchg d a b scope wide) v ∧
        does (.satomCas d a b scope wide) (if old = v then (s.reg d).toNat % 2 ^ (8 * n) else old)

/-- R219 to R222: a FENCE that has nothing to wait for advances; one with ACK waits for the stream's remote writes. An SC fence waits while
writes that an earlier SC fence's party had in flight are not performed, and notes its own warp's; nothing else changes. OPR belongs to the matrix stream, so in a warp it is an illegal-instruction fault.
What other cores could see of the order is left out (log entry 4). -/
def Obligations.FenceWaits : Prop :=
  ∀ (s : State) (t w : Nat), s.onWarp t w → ∀ (o : FOrder) (sc : Scope),
    ∀ ack,
    let waits : Prop := (ack = true ∧ s.ackDone = false) ∨ (o = .sc ∧ s.scOpen = true)
    (¬ waits → o ≠ .sc → Runs (.fence o sc ack false) s (· = s.advance 4)) ∧
    (¬ waits → o = .sc → Runs (.fence o sc ack false) s (· = (s.scFence (s.warp t w).writes).advance 4)) ∧
    (waits → Runs (.fence o sc ack false) s (· = s)) ∧ Runs (.fence o sc ack true) s fun s' => WarpHalted s s' t w (s.warpReport t w 7 0 0 0)

/-! ### Arrival words -/

/-- R250, R251, R253: the arrival-word instructions of a warp on a word of its team's scratchpad: TARGET in [63:40], COUNT in [39:16], GEN in
[15:0]. Arrivals beyond TARGET begin further generations; a TARGET of 0 disarms the word. The word alone is written. -/
def Obligations.ArrivalWords : Prop :=
  ∀ (s : State) (t w : Nat), s.onWarp t w → ∀ (d a b : Reg),
    let x := (s.reg a).toNat % 2 ^ 32
    let y := (s.reg b).toNat
    x % 8 = 0 → x + 8 ≤ (s.team t).spad → (s.team t).spBad = [] → (s.team t).mOps = [] →
    let old := s.spValue t x 8
    let word (target count gen : Nat) : Nat := target * 2 ^ 40 + count % 2 ^ 24 * 2 ^ 16 + gen % 2 ^ 16
    let arrive (target count gen : Nat) : Nat := if target = 0 then word 0 count gen else word target (count % target) (gen + count / target)
    let stored (s' : State) (new : Nat) : Prop := s.spStoredAt s' t x 8 new ∧ s'.dies = s.dies ∧ s'.pc = s.pc + 4
    let gives (s' : State) (v : Nat) : Prop := ∀ r < 64, s'.sreg r = if r = d.toNat ∧ r ≠ 0 then BitVec.ofNat 64 v else s.sreg r
    Runs (.awinit a b) s (fun s' => stored s' (word (y % 2 ^ 24) 0 (y / 2 ^ 24)) ∧ ∀ r < 64, s'.sreg r = s.sreg r) ∧
    Runs (.awexpect d a b) s (fun s' =>
      let new := arrive (y % 2 ^ 24) (old / 2 ^ 16 % 2 ^ 24) old
      stored s' new ∧ gives s' (new % 2 ^ 16)) ∧
    Runs (.awarrive d a b) s (fun s' => stored s' (arrive (old / 2 ^ 40) (old / 2 ^ 16 % 2 ^ 24 + y % 2 ^ 24) old) ∧ gives s' (old % 2 ^ 16)) ∧
    (old % 2 ^ 16 = y % 2 ^ 16 → Runs (.awwait d a b) s (· = s)) ∧
    (old % 2 ^ 16 ≠ y % 2 ^ 16 → Runs (.awwait d a b) s fun s' => Result s s' d (BitVec.ofNat 64 (old % 2 ^ 16))) ∧
    Runs (.awtest d a b) s fun s' => Result s s' d (BitVec.ofNat 64 old)

/-! ### Phasers -/

/-- The issuing warp waits for no answer from a tree. -/
def noTrip (s : State) (t w : Nat) : Prop := (s.warp t w).wait ≠ .tree ∧ ∀ v, (s.warp t w).wait ≠ .reply v

/-- R301 to R306: the round trips of PHNEW, PHFREE, PHJOIN and PHLEAVE. When nothing forbids them the message of R291 goes to the node, the
stream waits, and the reply, when it has come, is the result. PHNEW is shown for a phaser of one die (scope 1 or 2) and for PHJOIN, PHLEAVE
and PHFREE a handle that the die holds.
The fields of the messages that R291 does not tie to a use, and status corners, are the model's (log entries 15 and 22). -/
def Obligations.PhaserRoundTrips : Prop :=
  ∀ (s : State) (t w : Nat), s.onWarp t w → ∀ (d a b : Reg),
    let die := (s.team t).die
    let id := s.finder die false (s.team t).core (s.warp t w).slot
    let h := s.reg a
    let starts (s' : State) (tr : Trip) (node type : Nat) (m : GauzeMsg) : Prop :=
      s' = ({ s with trips := s.trips ++ [tr], flits := s.flits ++ [(node, type, { m with sent := s.now })] }.modWarp t w fun W => { W with wait := .tree })
    (∀ v, (s.warp t w).wait = .reply v → Runs (.phnew d a b) s (fun s' => Result s s' d v) ∧ Runs (.phfree d a) s (fun s' => Result s s' d v) ∧
      Runs (.phjoin d a b) s (fun s' => Result s s' d v) ∧ Runs (.phleave d a) s fun s' => Result s s' d v) ∧
    ((s.warp t w).wait = .tree → Runs (.phnew d a b) s (· = s) ∧ Runs (.phfree d a) s (· = s) ∧ Runs (.phjoin d a b) s (· = s) ∧ Runs (.phleave d a) s (· = s)) ∧
    (noTrip s t w →
      (paramOk (s.reg b).toNat = false → Runs (.phnew d a b) s fun s' => Result s s' d 0xFFFE00000000000A) ∧
      (paramOk (s.reg b).toNat = true → (s.reg b).toNat % 8 ≤ 2 → (h = 0 → (s.node die).up = true → Runs (.phnew d a b) s fun s' =>
          starts s' { team := t, warp := w, type := 5, ident := id, param := s.reg b, span := 2 ^ die } die 5
            { cls := bits (s.reg b).toNat 17 16, kind := bits (s.reg b).toNat 4 3, home := s.pkg, scope := (s.reg b).toNat % 8, ident := id, port := (s.team t).core }) ∧
        (h ≠ 0 → Runs (.phnew d a b) s fun s' => Result s s' d 0xFFFE00000000000E)) ∧
      (s.seeFor t w h = (.stale, s) → Runs (.phfree d a) s (fun s' => Result s s' d 1) ∧ Runs (.phleave d a) s (fun s' => Result s s' d 1) ∧
        (1 ≤ (s.reg b).toNat → (s.reg b).toNat < 2 ^ 17 → Runs (.phjoin d a b) s fun s' => Result s s' d 1)) ∧
      ∀ P, s.seeFor t w h = (.here P, s) → P.broken = false → P.team = t →
        (hScope h ≤ 2 → Runs (.phfree d a) s fun s' =>
          starts s' { team := t, warp := w, type := 7, handle := h, ident := id } die 7 { msgOf h P.cls with port := (s.team t).core }) ∧
        (1 ≤ (s.reg b).toNat → (s.reg b).toNat < 2 ^ 17 → (s.warp t w).member h = none → (s.warp t w).members.length < 8 →
          Runs (.phjoin d a b) s fun s' => starts s' { team := t, warp := w, type := 3, handle := h, ident := id, param := s.reg b } die 3
            { msgOf h P.cls with port := (s.team t).core, ident := id, count := (s.reg b).toNat % 2 ^ 16 }) ∧
        (∀ r, (s.warp t w).member h = some r → r.broken = false → r.lastph = none → Runs (.phleave d a) s fun s' =>
          starts s' { team := t, warp := w, type := 4, handle := h, ident := id } die 4 { msgOf h P.cls with port := (s.team t).core, ident := id, count := r.sig }))

/-- R300, R302, R307: PHSIG sends one signal of the record's phase LP and returns that phase; GIVEN counts it, and LP advances when GIVEN
reaches SIG. PHSIGB does the same, its signal held at the port while remote writes of the warp are not acknowledged. A signaller one phase
ahead waits. -/
def Obligations.PhaserSignals : Prop :=
  ∀ (s : State) (t w : Nat), s.onWarp t w → noTrip s t w → ∀ (d a b : Reg) (P : Phaser) (r : Member),
    let die := (s.team t).die
    let h := s.reg a
    s.seeFor t w h = (.here P, s) → (s.warp t w).member h = some r → P.broken = false → r.broken = false → r.sig ≠ 0 → r.lastph = none →
    let m : GauzeMsg := { msgOf h P.cls with
      port := (s.team t).core, phase := r.lp, value := (s.reg b).truncate 32, ident := s.finder die false (s.team t).core (s.warp t w).slot, count := 1 }
    let sent : GauzeMsg := { m with sent := s.now }
    let gave (W : Warp) : Warp := { W with members := W.members.map fun q => if q.handle = h then
      (if q.given + 1 = q.sig then { q with lp := q.lp + 1, given := 0 } else { q with given := q.given + 1 }) else q }
    let ids := s.unacked t w
    let phase : Word := BitVec.ofNat 64 (r.lp.toNat * 2 ^ 32)
    ((r.lp - r.doneph).toNat ≤ 1 →
      Runs (.phsig d a b) s (fun s' => s' = ({ s with flits := s.flits ++ [(die, 1, sent)] }.modWarp t w gave).result d phase) ∧
      (ids = [] → Runs (.phsigb d a b) s (fun s' => s' = ({ s with flits := s.flits ++ [(die, 1, sent)] }.modWarp t w gave).result d phase)) ∧
      (ids ≠ [] → Runs (.phsigb d a b) s fun s' =>
        s' = ((s.modNode die fun N => { N with held := N.held ++ [(m, ids)] }).modWarp t w gave).result d phase)) ∧
    (1 < (r.lp - r.doneph).toNat → Runs (.phsig d a b) s fun s' => s' = s.modWarp t w fun W => { W with wait := .phase h })

/-- R302, R309, R310: PHWAIT and PHTEST of a waiter's record test modularly whether the phase has completed; PHANY, PHVAL and PHREAD read the
record. -/
def Obligations.PhaserReads : Prop :=
  ∀ (s : State) (t w : Nat), s.onWarp t w → noTrip s t w → ∀ (d a b : Reg) (P : Phaser) (r : Member),
    let h := s.reg a
    let p := (s.reg b).toNat % 2 ^ 32
    s.seeFor t w h = (.here P, s) → (s.warp t w).member h = some r → P.broken = false → r.broken = false → r.wait = true →
    let done := (r.doneph.toNat + 2 ^ 32 - p) % 2 ^ 32 < 2 ^ 31
    let word (phase nan late dn : Nat) : Word := BitVec.ofNat 64 (phase * 2 ^ 32 + nan * 2 ^ 10 + late * 2 ^ 9 + dn * 2 ^ 8)
    let flag (x : Bool) : Nat := if x then 1 else 0
    (∀ v id miss late nan, r.result = some (v, id, miss, late, nan) →
      (done → Runs (.phwait d a b) s (fun s' => Result s s' d (word r.doneph.toNat (flag nan) (flag late) 1)) ∧
        Runs (.phtest d a b) s fun s' => Result s s' d (word r.doneph.toNat (flag nan) (flag late) 1)) ∧
      (hKind h = 1 → r.doneph.toNat = p → Runs (.phany d a b) s fun s' => Result s s' d (BitVec.ofNat 64 (id.toNat * 2 ^ 32 + v.toNat))) ∧
      (hKind h = 2 → r.doneph.toNat = p → Runs (.phval d a b) s fun s' =>
        Result s s' d (BitVec.ofNat 64 (flag nan * 2 ^ 57 + flag late * 2 ^ 56 + miss % 2 ^ 24 * 2 ^ 32 + v.toNat)))) ∧
    (¬ done → Runs (.phwait d a b) s (fun s' => s' = s.modWarp t w fun W => { W with wait := .phase h }) ∧
      Runs (.phtest d a b) s fun s' => Result s s' d (word r.doneph.toNat 0 0 0)) ∧
    (r.doneph.toNat ≠ p → Runs (.phany d a b) s (fun s' => Result s s' d (~~~0)) ∧ Runs (.phval d a b) s fun s' => Result s s' d (~~~0)) ∧
    Runs (.phread d a) s fun s' =>
      Result s s' d (BitVec.ofNat 64 (r.doneph.toNat * 2 ^ 32 + r.latecnt * 2 ^ 8 + flag r.lastph.isSome * 8 + 2 + flag (r.sig ≠ 0)))

/-! ### Copies, network, launch and privileged instructions -/

/-- R241, R247: a copy instruction of a warp whose descriptor keeps R243, on an engine with room and without a stream tag: the copy enters the
queue of its cluster's engine, QUEUED, with the descriptor of four registers, under the engine's next serial, and s_d takes the ticket: die in
[47:40], cluster in [34:32], serial in [31:0]. A phaser handle comes from s_b under PHS. An engine with 64 queued copies makes the instruction
wait. -/
def Claims.CopiesEnterQueue : Prop :=
  ∀ (s : State) (t w : Nat), s.onWarp t w → w < 32 → ∀ (d a b : Reg) (phs ord : Bool),
    let T := s.team t
    let e := 8 * T.die + T.core / 8
    let E := s.engines.get e {}
    let c (kind : Nat) (o : Bool) : Copy :=
      { kind := kind, d0 := s.sreg a.toNat, d1 := s.sreg (a.toNat + 1), d2 := s.sreg (a.toNat + 2), d3 := s.sreg (a.toNat + 3), ord := o,
        phs := if phs then some (s.reg b, w) else none, team := some t, issuer := w, die := T.origin, asid := T.asid, engine := e, serial := E.serial,
        after := (s.warp t w).writes }
    let enters (i : Instr) (kind : Nat) (o : Bool) : Prop :=
      ((c kind o).bad T.spad = false → s.inState e .queued < 64 → Runs i s fun s' =>
        s' = { s with uid := s.uid + 1, engines := s.engines.ins e { E with serial := (E.serial + 1) % 2 ^ 32 }, copies := s.copies.ins (s.uid + 1) (c kind o) }.result d
          (BitVec.ofNat 64 (T.die * 2 ^ 40 + T.core / 8 * 2 ^ 32 + E.serial))) ∧
      (64 ≤ s.inState e .queued → Runs i s (· = s))
    T.core < 64 →
    enters (.cpy d a b phs false) 0 false ∧ enters (.cpy2 d a b phs false) 1 false ∧ enters (.cpyw d a b phs false) 2 false ∧
    enters (.cpyx d a b phs false) 3 false ∧ enters (.cpyfill d a b phs false) 4 false ∧ enters (.cpyr d a b phs ord false) 5 ord

/-- R248, R249: CPYST reads the state of the copy that a ticket names, and 5 for a ticket that names none; CPYCAN cancels a copy that has not
ended, here one of a team without a phaser, and answers its status; a copy that has ended keeps its state. -/
def Claims.CopyStatus : Prop :=
  ∀ (s : State) (d b : Reg), s.ready [d, b] →
    let code (x : CopyState) : Nat := match x with | .queued => 0 | .active => 1 | .done => 2 | .cancelled => 3 | .failed => 4
    let word (c : Copy) : Word := BitVec.ofNat 64 (min c.bytes (2 ^ 32 - 1) * 2 ^ 32 + c.cause * 2 ^ 8 + code c.state)
    let tk := s.ticket (s.team s.me).space (s.reg b).toNat
    (tk = none → Runs (.cpyst d b) s (fun s' => Result s s' d 5) ∧ Runs (.cpycan d b) s fun s' => Result s s' d 5) ∧
    ∀ k c, tk = some (k, c) → Runs (.cpyst d b) s (fun s' => Result s s' d (word c)) ∧
      (c.state = .done ∨ c.state = .cancelled ∨ c.state = .failed → Runs (.cpycan d b) s fun s' => Result s s' d (word c)) ∧
      (c.state = .queued ∨ c.state = .active → s.copies.find k = some c → c.phs = none → c.entry = none → Runs (.cpycan d b) s fun s' =>
        (s'.copy k).state = .cancelled ∧ (s'.copy k).left = [] ∧ (d ≠ 0 → s'.reg d = BitVec.ofNat 64 (min c.bytes (2 ^ 32 - 1) * 2 ^ 32 + 3)) ∧ s'.pc = s.pc + 4)

/-- R358 to R360, R363, R367: network instructions on a queue. One whose table has no such queue gives its failure value. Otherwise NPUT, NGET,
NATOM, NSEND and NCHAIN give the operation's number in the queue, and the operation enters it; a queue with 256 operations makes the first
four wait; NPOLL reads how many have been counted.
Corners of the operands are the model's reading (log entry 25). -/
def Obligations.NetworkInstructions : Prop :=
  ∀ (s : State) (t w : Nat), s.onWarp t w → s.tag = 0 → ∀ (d a b : Reg),
    let T := s.team t
    let q := (s.reg b).toNat % 1024
    let p := (s.reg a).toNat % 1024
    let valid (q : Nat) : Option Nat := (s.die T.origin).netqValid T.asid q
    let number (q : Nat) : Nat := (s.netq T.origin T.asid q).counted + s.queued T.origin T.asid q + 1
    let o (kind e : Nat) : NetOp := { kind := kind, die := T.origin, asid := T.asid, queue := q, team := some t, grp := e / 2 ^ 102 % 2,
                                      d0 := s.sreg a.toNat, d1 := s.sreg (a.toNat + 1), d2 := s.sreg (a.toNat + 2), d3 := s.sreg (a.toNat + 3),
                                      after := (s.warp t w).writes }
    let enters (i : Instr) (kind : Nat) : Prop :=
      (valid q = none → Runs i s fun s' => Result s s' d 0) ∧
      ∀ e, valid q = some e → (256 ≤ s.queued T.origin T.asid q → Runs i s (· = s)) ∧
        (s.queued T.origin T.asid q < 256 → Runs i s (· = (s.result d (BitVec.ofNat 64 (number q))).netIssue (o kind e)))
    enters (.nput d a b) 0 ∧ enters (.nget d a b) 1 ∧ enters (.natom d a b) 2 ∧ enters (.nsend d a b) 3 ∧
    (valid p = none → Runs (.npoll d a) s (fun s' => Result s s' d 0) ∧ Runs (.nrxpop d a b) s (fun s' => Result s s' d (~~~0)) ∧
      Runs (.nchain d a b) s fun s' => Result s s' d 0) ∧
    ∀ e, valid p = some e → Runs (.npoll d a) s (fun s' => Result s s' d (BitVec.ofNat 64 (s.netq T.origin T.asid p).counted)) ∧
      (qKind e ≠ 2 → Runs (.nrxpop d a b) s fun s' => Result s s' d (~~~0)) ∧
      (qKind e ≠ 1 → Runs (.nchain d a b) s fun s' => Result s s' d 0) ∧
      (let wq := (s.reg a).toNat / 2 ^ 16 % 1024
       qKind e = 1 → ∀ e', valid wq = some e' → qKind e' = 1 → Runs (.nchain d a b) s fun s' =>
        s' = (s.result d (BitVec.ofNat 64 (number p))).netIssue
          { kind := 5, die := T.origin, asid := T.asid, queue := p, team := some t, watch := wq, target := (s.reg b).toNat })

/-- R361, R362: NKEY, a release at S scope, waits for the warp's remote writes; then it installs a key of the range that the address space owns, with
the next generation, which s_d takes; a key outside the range gives all ones. R367: NRXPOP on a receive ring releases slots, and takes the address of the oldest record, or 0.
Nothing is said of the entry that a descriptor with reserved bits set leaves (R5). -/
def Obligations.KeysAndRings : Prop :=
  ∀ (s : State) (t w : Nat), s.onWarp t w → ∀ (d a b : Reg),
    let T := s.team t
    let D := s.die T.origin
    let d1 := (s.sreg (a.toNat + 1)).toNat
    let d2 := (s.sreg (a.toNat + 2)).toNat
    let k := d1 / 2 ^ 32 % 2 ^ 16
    let r := D.asidWord T.asid 0x20
    let first := r % 2 ^ 16
    let last := first + r / 2 ^ 32 % 2 ^ 16
    let g := ((D.keys.get k {}).gen + 1) % 65536
    let p := (s.reg a).toNat % 1024
    let Q := s.netq T.origin T.asid p
    ((s.warp t w).writes ≠ [] → Runs (.nkey d a) s (· = s)) ∧
    ((s.warp t w).writes = [] → r.testBit 63 = false ∨ k < first ∨ last < k → Runs (.nkey d a) s fun s' => Result s s' d (~~~0)) ∧
    ((s.warp t w).writes = [] → r.testBit 63 = true → first ≤ k → k ≤ last → (s.dies.find T.origin).isSome → Runs (.nkey d a) s fun s' =>
      s'.pc = s.pc + 4 ∧
      (d1 / 2 ^ 48 = 0 → d2 / 2 ^ 4 % 2 ^ 12 = 0 → d2 / 2 ^ 26 = 0 → s.sreg (a.toNat + 3) = 0 → (d ≠ 0 → s'.reg d = BitVec.ofNat 64 g) ∧
        (s'.die T.origin).keys.find k = some ⟨d2.testBit 0, d2.testBit 1, d2.testBit 2, d2.testBit 3, T.asid, (s.sreg a.toNat).toNat, d1 % 2 ^ 32 + 1,
          d2 / 2 ^ 16 % 2 ^ 10, g⟩) ∧
      ∀ j, j ≠ k → (s'.die T.origin).keys.find j = D.keys.find j) ∧
    ∀ e, D.netqValid T.asid p = some e → qKind e = 2 →
      let freed := min Q.popped (Q.released + (s.reg b).toNat % 2 ^ 16)
      (Q.popped < Q.delivered → Runs (.nrxpop d a b) s fun s' =>
        s' = (s.modNetq T.origin T.asid p fun _ => { Q with released := freed, popped := Q.popped + 1 }).result d
          (BitVec.ofNat 64 (bits e 203 164 * 4096 + Q.popped % (bits e 163 148 + 1) * (2048 * 2 ^ bits e 107 106)))) ∧
      (Q.delivered ≤ Q.popped → Runs (.nrxpop d a b) s fun s' => s' = (s.modNetq T.origin T.asid p fun _ => { Q with released := freed }).result d 0)

/-- R397, R398: ENQ and ENQST of a warp at a queue state block of its die. ENQ gives 2 where the block is no registered, enabled CHILD queue of the
address space, 1 where the ring is full; else it copies the record of 512 bytes into the ring's next slot, advances TAIL, which the Bronze core
sees, and gives 0, once the warp's remote writes are performed (R235). A misaligned operand is a warp-level fault. ENQST reads the queue's state, all ones for a block that is not registered;
a block in a peer window is not. A block whose bytes cannot be read counts as not registered, and a part of the slot that cannot be written is left out: the
model's readings (log entry 31). -/
def Obligations.EnqueueInstructions : Prop :=
  ∀ (s : State) (t w : Nat), s.onWarp t w → ∀ (d a b : Reg),
    let T := s.team t
    let x := (s.reg a).toNat
    let y := (s.reg b).toNat
    (x % 64 ≠ 0 → Runs (.enq d a b) s fun s' => WarpHalted s s' t w (s.warpReport t w 5 0 x 0)) ∧
    (x % 64 = 0 → y % 64 ≠ 0 → Runs (.enq d a b) s fun s' => WarpHalted s s' t w (s.warpReport t w 5 0 y 0)) ∧
    (∀ e s1, s.check s.view x 8 .read = (.remote e, s1) →
      (x % 64 = 0 → y % 64 = 0 → Runs (.enq d a b) s (· = s1.result d 2)) ∧ Runs (.enqst d a) s (· = s1.result d (~~~0))) ∧
    ∀ page pa s1, s.check s.view x 8 .read = (.local page pa, s1) →
      let D := s1.die T.origin
      let k := D.qsb pa
      let good : Prop := (D.registration pa).isSome ∧ qChild k = true ∧ qEnable k = true ∧ qAsid k = T.asid
      (x % 64 = 0 → y % 64 = 0 → (¬ good → Runs (.enq d a b) s (· = s1.result d 2)) ∧ (good → qHeld k = qSlots k → Runs (.enq d a b) s (· = s1.result d 1)) ∧
        (good → qHeld k ≠ qSlots k → ∀ v s2, s1.readPieces 8 (recordVas y) = (some v, s2) → recordOk v (qPmgr k) = true →
          ∀ ls s3, s2.readPieces 8 (dlistsVas v) = (some ls, s3) → ((subsOf v ls).all fun u => u.dl.all entryOk) = true →
          (s3.writesDone = false → Runs (.enq d a b) s (· = s3)) ∧
          ∀ s4 s5, s3.putSlot (v.flatMap (bytesLE 8)) (qSlotVa k (qTail k)) (cutLines (qSlotVa k (qTail k)) 512) = (some s4, s5) →
            s3.writesDone = true → Runs (.enq d a b) s fun s' =>
              s' = ((s4.qsbPut T.origin pa 0 (bytesLE 4 (qTail k + 1))).trackTail T.origin pa).result d 0)) ∧
      Runs (.enqst d a) s (· = s1.result d (if (D.registration pa).isNone then ~~~0 else BitVec.ofNat 64 (
        (s1.queue T.origin pa).eprio s.now (qPrio k) * 2 ^ 40 + (if (s1.queue T.origin pa).overshare then 2 ^ 33 else 0) +
        (if (s1.queue T.origin pa).mapped then 2 ^ 32 else 0) + (qSlots k + 2 ^ 32 - qHeld k) % 2 ^ 32)))

/-- R399, R400: QWAIT returns the counter once (counter − target) mod 2^64 is below 2^63; else the stream waits, and after 4 us the team yields,
held until the Bronze core finds the condition met. MIGHINT checks its operand, the queue's MIGRATE bit and the team's phasers, in this order. -/
def Obligations.WaitAndMigrate : Prop :=
  ∀ (s : State) (t w : Nat), s.onWarp t w → (s.warp t w).got = [] → (∀ r, (s.warp t w).wait ≠ .remote r) → ∀ (d a b : Reg),
    let x := s.reg a
    let y := s.reg b
    let h := (s.reg a).toNat % 256
    (∀ p s1, Reaches s x.toNat 8 .read p s1 →
      let v := s.value (s.team t).origin p 8
      ((v + 2 ^ 64 - y.toNat) % 2 ^ 64 < 2 ^ 63 → Runs (.qwait d a b) s fun s' => ∃ s2, NotesOnly s s2 ∧ Result s2 s' d (BitVec.ofNat 64 v)) ∧
      (2 ^ 63 ≤ (v + 2 ^ 64 - y.toNat) % 2 ^ 64 → (s.warp t w).qwait = none → Runs (.qwait d a b) s fun s' =>
        ∃ s2, NotesOnly s s2 ∧ s' = s2.modWarp t w fun W => { W with qwait := some (s.now, x, y), wait := .none, asks := [], got := [] })) ∧
    (∀ since u v, (s.warp t w).qwait = some (since, u, v) → (s.team t).phase = .resident → (s.team t).leaving = false →
      inside (s.warp t w).wait (s.warp t w).asks false = false → since + 7000 ≤ s.now →
      Runs (.qwaitTimeout t w) s fun s' => s' = (s.modTeam t fun T => { T with held := some (u, v) }).leaveTeam t) ∧
    (4 ≤ h → h ≠ 255 → Runs (.mighint d a) s fun s' => Result s s' d 3) ∧
    (h < 4 ∨ h = 255 → ((s.team t).migrate = false → Runs (.mighint d a) s fun s' => Result s s' d 1) ∧
      ((s.team t).migrate = true → (s.holdsPhaser t = true → Runs (.mighint d a) s fun s' => Result s s' d 2) ∧
        (s.holdsPhaser t = false → Runs (.mighint d a) s (· = (s.modTeam t fun T => { T with hint := some h }).result d 0))))

/-- R49, R437 to R440: the PRIV family. A warp of a team that is neither of a PMGR queue nor a handler's takes the illegal-instruction fault.
Elsewhere FRAGRD reads a word of the fragment that its operand names, 0 where there is none; PINV, CWB and CINV act on the lines and translations
of a page range; DIRTYGET reads, and clears, the bits of 64 regions; TEAMHALT stops a team of its partition, and gives 1 where no team has the
reference. An operand of another partition is PERMISSION, detail PARTITION (R435, R443), with a fault address that the manual does not state.
Ownership corners are the model's (log entry 30). -/
def Obligations.PrivilegedInstructions : Prop :=
  ∀ (s : State) (t w : Nat), s.onWarp t w → ∀ (d a b : Reg),
    let T := s.team t
    let x := (s.reg a).toNat
    let y := (s.reg b).toNat
    let stops (i : Instr) : Prop := Runs i s fun s' => WarpHalted s s' t w (s.warpReport t w 7 0 0 0)
    let stopsForeign (i : Instr) : Prop := Runs i s fun s' => ∃ s1 addr, s1 = { s with ctr := s1.ctr } ∧ WarpHalted s1 s' t w (s1.warpReport t w 2 7 addr 0)
    (T.pmgr = false → T.handler = false → stops (.fragrd d a b) ∧ stops (.pinv a b) ∧ stops (.cwb a b) ∧ stops (.cinv a b) ∧ stops (.dirtyget d a b) ∧
      stops (.teamhalt d a)) ∧
    (T.pmgr = true ∨ T.handler = true →
      (let c := x / 2 ^ 26 % 64
       let hit := s.frags.find? fun (_, F) => (s.team F.team).die == T.die && (s.team F.team).core == c && F.entry == some (x / 2 ^ 15 % 32) &&
        ((s.team F.team).warp F.warp).slot == x / 2 ^ 20 % 64 && F.mask.getLsbD (x / 2 ^ 10 % 32) && F.cause == x % 256
       c / 8 = T.core / 8 → Runs (.fragrd d a b) s fun s' =>
        Result s s' d (match hit with | some (_, F) => BitVec.ofNat 64 (s.fragWord F (y % 4)) | none => 0)) ∧
      (let r : PageRange := ⟨y / 2 ^ 32 % 4096, x / 4096 * 4096, if y % 2 ^ 32 = 0 then none else some (y % 2 ^ 32 * 4096)⟩
       (∀ p, s.partitionOf T.die r.asid = some p → p.1 = T.partition) →
        Runs (.pinv a b) s (· = (s.modDie T.die (·.pinv r)).advance 4) ∧ Runs (.cwb a b) s (· = (s.cwb T.die r).advance 4) ∧
        Runs (.cinv a b) s (· = (s.cinv T.die r).advance 4)) ∧
      ((∃ p, s.partitionOf T.die (y / 2 ^ 32 % 4096) = some p ∧ p.1 ≠ T.partition) →
        stopsForeign (.pinv a b) ∧ stopsForeign (.cwb a b) ∧ stopsForeign (.cinv a b)) ∧
      (x / 2 ^ 26 % 64 / 8 ≠ T.core / 8 → stopsForeign (.fragrd d a b)) ∧
      (x < 192 * 2 ^ 30 → s.frameForeign T.die T.partition (x / 2 ^ 22 * 2) = true ∨ s.frameForeign T.die T.partition (x / 2 ^ 22 * 2 + 1) = true →
        stopsForeign (.dirtyget d a b)) ∧
      (∀ u U, s.teams.find? (fun (_, U) => U.origin == T.die && U.ref == some (x % 2 ^ 32)) = some (u, U) → U.partition ≠ T.partition →
        stopsForeign (.teamhalt d a)) ∧
      (let v := (((s.die T.die).dirty.filter fun g => decide (x / 2 ^ 22 * 64 ≤ g) && decide (g < x / 2 ^ 22 * 64 + 64)).map fun g => 2 ^ (g - x / 2 ^ 22 * 64)).sum
       x < 192 * 2 ^ 30 → s.frameForeign T.die T.partition (x / 2 ^ 22 * 2) = false → s.frameForeign T.die T.partition (x / 2 ^ 22 * 2 + 1) = false →
        (y % 2 = 1 → Runs (.dirtyget d a b) s fun s' => Result s s' d (BitVec.ofNat 64 v)) ∧
        (y % 2 = 0 → (s.dies.find T.die).isSome → Runs (.dirtyget d a b) s fun s' => (d ≠ 0 → s'.reg d = BitVec.ofNat 64 v) ∧ s'.pc = s.pc + 4 ∧
          ∀ g, g ∈ (s'.die T.die).dirty ↔ g ∈ (s.die T.die).dirty ∧ ¬ (x / 2 ^ 22 * 64 ≤ g ∧ g < x / 2 ^ 22 * 64 + 64))) ∧
      ((∀ u ∈ s.teams, u.2.origin ≠ T.die ∨ u.2.ref ≠ some (x % 2 ^ 32)) → Runs (.teamhalt d a) s fun s' => Result s s' d 1) ∧
      (∀ u U, s.teams.find? (fun (_, U) => U.origin == T.die && U.ref == some (x % 2 ^ 32)) = some (u, U) → U.partition = T.partition →
        s.teams.find u = some U → Runs (.teamhalt d a) s fun s' => (s'.team u).halt = true ∧ (s'.team u).faulted = true ∧
          (∀ v, (s'.warp u v).life = .running → (U.warps.find v) = none) ∧ (s'.team u).seq.life ≠ .running ∧ s'.faults = s.faults))

/-- R241, R247 to R249: the copy instructions, and CPYST and CPYCAN. Both parts, as `Claims.CopiesEnterQueue` and `Claims.CopyStatus` state them.
Cause words in corners are the model's (log entry 23). -/
def Obligations.CopyInstructions : Prop := Claims.CopiesEnterQueue ∧ Claims.CopyStatus

/-! ### Matrix operations -/

/-- The sequencer of a team that can issue a matrix operation with these register fields: it runs, no field waits for an operation, and fewer
than two operations are outstanding. -/
def matrixReady (s : State) (t : Nat) (fields : List Reg) : Prop := s.cur = .seq t ∧ s.ready fields ∧ (s.team t).mOps.length < 2

/-- Operation `o` enters the team's queue, behind the operations that a freeze has moved to the replay list (R283), and the sequencer goes on `n`
bytes further. -/
def entersQueue (s s' : State) (t : Nat) (o : MOp) (n : Nat) : Prop :=
  s' = ({ s with uid := s.uid + 1 }.modTeam t fun T =>
    if T.replay = [] then { T with mq := T.mq ++ [{ o with id := s.uid + 1 }] } else { T with replay := T.replay ++ [{ o with id := s.uid + 1 }] }).advance n

/-- R257, R260, R269 to R274: a matrix operation on one of the team's tiles enters the queue of two with the values of its registers, and for
MACC, MDRAIN, MMA and MMAS the scratchpad ranges that it reads or writes. MMA and MMAS have two words, the others one. -/
def Claims.MatrixOperationsIssue : Prop :=
  ∀ (s : State) (t : Nat) (d a b : Reg), matrixReady s t [d, a, b] → ∀ k : BitVec 5, k.toNat < (s.team t).acct →
    let x := (s.reg a).toNat % 2 ^ 32
    let y := (s.reg b).toNat
    let op (i : Instr) : MOp := { op := i, addr := s.pc }
    let op2 (i : Instr) : MOp := { op := i, addr := s.pc, ta := s.reg a, tb := s.reg b }
    let range (wr : Bool) (p : Nat × Nat) : Range := { sp := true, start := p.1, len := p.2, wr := wr }
    Runs (.mzero k) s (fun s' => entersQueue s s' t (op (.mzero k)) 4) ∧
    Runs (.mchk d k) s (fun s' => entersQueue s s' t (op (.mchk d k)) 4) ∧ Runs (.mloc d k) s (fun s' => entersQueue s s' t (op (.mloc d k)) 4) ∧
    Runs (.mfix a k) s (fun s' => entersQueue s s' t { op (.mfix a k) with ta := s.reg a } 4) ∧
    (∀ save, Runs (.macc false a b save k) s fun s' => entersQueue s s' t { op2 (.macc false a b save k) with
      win := (if save then [(x, 16904)] else (List.range 64).map fun r => (x + r * (y % 2 ^ 16), 256)).map (range false) } 4) ∧
    (∀ z rnd lc fmt, Runs (.mdrain false z rnd lc a b fmt k) s fun s' => entersQueue s s' t { op2 (.mdrain false z rnd lc a b fmt k) with
      win := (drainRows fmt.toNat lc.toNat x y).map (range true) } 4) ∧
    ∀ slot bi4 lc kk ap sp,
      let win := ((List.range 64).map (fun r => (x + r * ap.toNat, if bi4 then (kk.toNat + 1) / 2 else kk.toNat)) ++
        (List.range 64).map fun r => (y % 2 ^ 32 + r * sp.toNat, (kk.toNat + 16 * 2 ^ lc.toNat - 1) / (16 * 2 ^ lc.toNat))).map (range false)
      Runs (.mma k a b slot bi4 lc kk ap sp) s (fun s' => entersQueue s s' t { (s.team t).arm (op2 (.mma k a b slot bi4 lc kk ap sp)) with win := win } 8) ∧
      Runs (.mmas k a b slot bi4 lc kk ap sp) s fun s' => entersQueue s s' t { (s.team t).arm (op2 (.mmas k a b slot bi4 lc kk ap sp)) with win := win } 8

/-- R257, R276: with two operations outstanding a further one does not issue; MWAIT waits until none is left; R270, R274, R279: MACC and MDRAIN on
global memory check every byte at issue, enter with the ranges found, ask for pages they lack, or take, once every check has ended (R182), the
failing check's fault. -/
def Claims.MatrixIssueWaits : Prop :=
  ∀ (s : State) (t : Nat) (a b : Reg), s.cur = .seq t → s.ready [a, b] → ∀ k : BitVec 5, k.toNat < (s.team t).acct →
    (2 ≤ (s.team t).mOps.length → Runs (.mzero k) s (· = s) ∧ Runs (.mfix a k) s (· = s) ∧ ∀ g save, Runs (.macc g a b save k) s (· = s)) ∧
    ((s.team t).mOps = [] → Runs .mwait s (· = s.advance 4)) ∧ ((s.team t).mOps ≠ [] → Runs .mwait s (· = s)) ∧
    ((s.team t).mOps.length < 2 → ∀ save rs as f s1,
      s.globalRanges .read (((loadRows save (s.reg a).toNat (s.reg b).toNat)).flatMap fun (x, n) => cutLines x n) = ((rs, as, f), s1) →
      (f = none → as = [] → Runs (.macc true a b save k) s fun s' =>
        entersQueue s1 s' t { op := .macc true a b save k, addr := s.pc, ta := s.reg a, tb := s.reg b, win := rs } 4) ∧
      (as ≠ [] → Runs (.macc true a b save k) s (· = s1.askFor as)) ∧
      ∀ c x, f = some (c, x) → as = [] → Runs (.macc true a b save k) s (· = s1.streamFail c x)) ∧
    ((s.team t).mOps.length < 2 → ∀ z rnd lc fmt rs as f s1,
      s.globalRanges .write ((drainRows fmt.toNat lc.toNat (s.reg a).toNat (s.reg b).toNat).flatMap fun (x, n) => cutLines x n) = ((rs, as, f), s1) →
      (f = none → as = [] → Runs (.mdrain true z rnd lc a b fmt k) s fun s' =>
        entersQueue s1 s' t { op := .mdrain true z rnd lc a b fmt k, addr := s.pc, ta := s.reg a, tb := s.reg b, win := rs } 4) ∧
      (as ≠ [] → Runs (.mdrain true z rnd lc a b fmt k) s (· = s1.askFor as)) ∧
      ∀ c x, f = some (c, x) → as = [] → Runs (.mdrain true z rnd lc a b fmt k) s (· = s1.streamFail c x))

/-- Bytes cut to the lengths of ranges, each with its range's start. -/
def rowsOf : List Range → List Byte → List (Nat × List Byte)
  | [], _ => []
  | r :: l, bs => (r.start, bs.take r.len) :: rowsOf l (bs.drop r.len)

/-- A memory with rows of bytes written one after another. -/
def withRows (m : List Host.Cell) (l : List (Nat × List Byte)) : List Host.Cell := l.foldl (fun m (a, bs) => wrBytes m a bs) m

/-- R21, R257, R263: the oldest operation of the team that the engine chooses starts when no condition of R263 fails; of a team that the engine does
not choose none starts. A MACC whose windows lie in other dies reads them now, by one request for each. -/
def Claims.MatrixStarts : Prop :=
  ∀ (s : State) (t : Nat) (o : MOp) (r : List MOp), (s.teams.find t).isSome → (s.team t).mq = o :: r → (s.team t).phase = .resident →
    let T := s.team t
    (s.startNext T.die T.core ≠ some t → Runs (.matrixOpStart t) s (· = s)) ∧
    (s.canStart T = true → s.startNext T.die T.core = some t → T.mFlaw o = none →
      let s1 := ({ s with lastStart := s.lastStart.ins (64 * T.die + T.core) T.sslot } : State).modTeam t fun T => ({ T with mq := { o with started := true } :: r } : Team)
      ((∀ g a b save k, o.op ≠ .macc g a b save k) ∨ (∀ x ∈ o.win, x.peer = none) → Runs (.matrixOpStart t) s (· = s1)) ∧
      ∀ g a b save k, o.op = .macc g a b save k → Runs (.matrixOpStart t) s fun s' => s'.dies.keys = s.dies.keys ∧
        ∀ i e, i < o.win.length → (o.win.getD i {}).peer = some e → ∃ id q, s'.reqs.find id = some q ∧ q.owner = .macc t o.id i ∧
          q.packet.type = .read ∧ q.packet.dpkg = e / 2 ^ 52 % 2 ^ 12 ∧ q.packet.dsock = e / 2 ^ 50 % 4 ∧ q.packet.exp = e / 2 ^ 34 % 2 ^ 16 ∧
          q.packet.offset = (o.win.getD i {}).start ∧ q.packet.len = (o.win.getD i {}).len)

/-- R265 to R269, R272, R273: a product without an injection is added to its tile, of the operands as the attempt reads them (R222); an operation that
touches no memory completes with its effect, and leaves the queue. -/
def Claims.MatrixComputes : Prop :=
  ∀ (s : State) (t : Nat) (o : MOp) (r : List MOp), (s.teams.find t).isSome → (s.team t).mq = o :: r → (s.team t).phase = .resident → o.started = true →
    let T := s.team t
    (∀ m, o.product = some m → o.finished = false → o.inj = none →
      let product (U : Team) (s1 : State) : State := s1.modTeam t fun T =>
        { T.setTile m.tile (mmaTile U o m (T.slots.get m.slot {}) (T.tile m.tile)) with mq := { o with finished := true } :: r, retry := 0 }
      Runs (.mmaAttemptDone t) s (· = product (s.operands t o).1 (s.operands t o).2) ∧ (T.spOld = [] → Runs (.mmaAttemptDone t) s (· = product T s))) ∧
    (o.product = none ∨ o.finished = true →
      (∀ k, o.op = .mzero k → Runs (.matrixOpComplete t) s fun s' => s' = s.modTeam t fun T => { T.setTile k.toNat ({} : Tile) with mq := r }) ∧
      (∀ a k, o.op = .mfix a k → Runs (.matrixOpComplete t) s fun s' => s' = s.modTeam t fun T => { T.setTile k.toNat ((T.tile k.toNat).fix o.ta) with mq := r }) ∧
      (∀ d k, o.op = .mchk d k → Runs (.matrixOpComplete t) s fun s' => (s'.team t).mq = r ∧
        (d ≠ 0 → (s'.team t).seq.t.get d.toNat 0 = chkWord (T.tile k.toNat) (T.drainCheck (T.tile k.toNat)))) ∧
      (∀ d k, o.op = .mloc d k → Runs (.matrixOpComplete t) s fun s' => (s'.team t).mq = r ∧
        (d ≠ 0 → (s'.team t).seq.t.get d.toNat 0 = locWord (T.drainCheck (T.tile k.toNat)))) ∧
      ((∃ m, o.product = some m) → o.raced = [] → Runs (.matrixOpComplete t) s fun s' => s' = s.modTeam t fun T => { T with mq := r }))

/-- R270, R274, R275, R177: MACC completes when all its bytes have come, and loads the tile with them, RSUM and CSUM formed anew, or from a SAVE
record; from the scratchpad it takes the bytes of its windows; uncorrectable data is its fault POISON. MDRAIN writes the tile's bytes, in its format,
row after row: to the scratchpad, here with no page or peer among its windows, or to global memory, here to alias pages of its die (R179); then, under
Z, it clears the tile. -/
def Claims.MatrixMoves : Prop :=
  ∀ (s : State) (t : Nat) (o : MOp) (r : List MOp), (s.teams.find t).isSome → (s.team t).mq = o :: r → (s.team t).phase = .resident → o.started = true →
    o.raced = [] →
    let T := s.team t
    let ranges := (List.range o.win.length).zip o.win
    (∀ g a b save k, o.op = .macc g a b save k →
      let loads (bs : List Byte) (s1 : State) : State :=
        s1.modTeam t fun T => { T.setTile k.toNat (if save then tileOfRecord bs else tileOfRows bs) with mq := r }
      ((∃ i e, i < o.win.length ∧ (o.win.getD i {}).peer = some e ∧ ∀ x ∈ o.got, x.1 ≠ i) → Runs (.matrixOpComplete t) s (· = s)) ∧
      ((∀ x ∈ o.win, x.sp = true ∧ x.peer = none ∧ T.spPoison x.start x.len = false) → T.spOld = [] →
        Runs (.matrixOpComplete t) s (· = loads (o.win.flatMap fun x => rdBytes T.sp x.start x.len) s)) ∧
      ((∀ i < o.win.length, (o.win.getD i {}).peer.isSome → ∃ x ∈ o.got, x.1 = i) →
        (∀ bs s1, s.mReadAll t o ranges = (some bs, s1) → Runs (.matrixOpComplete t) s (· = loads bs s1)) ∧
        ∀ s1, s.mReadAll t o ranges = (none, s1) → Runs (.matrixOpComplete t) s (· = s1.mFault t 6))) ∧
    ∀ g z rnd lc a b fmt k, o.op = .mdrain g z rnd lc a b fmt k →
      let A := T.tile k.toNat
      let bs := A.drained fmt.toNat rnd.toNat lc.toNat
      let popped := s.modTeam t fun T => { T with mq := r }
      let left (s1 : State) : State := if z then s1.modTeam t (·.setTile k.toNat {}) else s1
      Runs (.matrixOpComplete t) s (fun s' => s' = left (popped.mWriteAll t o bs)) ∧
      ((∀ x ∈ o.win, x.sp = true ∧ x.peer = none) → Runs (.matrixOpComplete t) s fun s' =>
        (s'.team t).sp = withRows T.sp (rowsOf o.win bs) ∧ (s'.team t).mq = r ∧ (s'.team t).tile k.toNat = (if z then {} else A) ∧ s'.dies = s.dies ∧
          ∀ u, u ≠ t → s'.team u = s.team u) ∧
      ((∀ x ∈ o.win, x.sp = false ∧ x.peer = none ∧ x.alias_ = true) → (∀ x ∈ s.teams, x.1 ≠ t → x.2.mOps = []) → s.netqs = [] →
        (s.dies.find T.origin).isSome → (s.die T.origin).retired = [] → (s.die T.origin).queues = [] → (s.die T.origin).func.base.get 0x11000 0 = 0 →
        Runs (.matrixOpComplete t) s fun s' =>
          (s'.die T.origin).mem = withRows (s.die T.origin).mem (rowsOf o.win bs) ∧ (∀ d, d ≠ T.origin → s'.die d = s.die d) ∧ (s'.team t).mq = r ∧
            (s'.team t).tile k.toNat = (if z then {} else A) ∧ (s'.team t).sp = T.sp)

/-- R21, R257, R263, R265 to R275: the engine starts, computes and completes the oldest operation of a team. All parts, as `Claims.MatrixStarts`,
`Claims.MatrixComputes` and `Claims.MatrixMoves` state them. What the engine's accesses note and draw is the model's (log entries 4 and 21). -/
def Obligations.MatrixEngine : Prop := Claims.MatrixStarts ∧ Claims.MatrixComputes ∧ Claims.MatrixMoves

/-- R280, R282, R411: a condition of R263 that fails is a matrix fault of the oldest operation: the queue empties, MSTAT holds the cause and the
tile, and the sequencer, in an address space without a handler, stops with a report of cause 15. -/
def Obligations.MatrixFaults : Prop :=
  ∀ (s : State) (t : Nat) (o : MOp) (r : List MOp), (s.teams.find t).isSome → (s.team t).mq = o :: r → s.canStart (s.team t) = true →
    s.startNext (s.team t).die (s.team t).core = some t → s.trapvec t = 0 → ∀ c, (s.team t).mFlaw o = some c →
      Runs (.matrixOpStart t) s fun s' => (s'.team t).mOps = [] ∧ (s'.team t).fcause = c ∧ (s'.team t).ftile = o.tile ∧ (s'.team t).retry = 0 ∧
        (s'.team t).seq.life = .halted ∧ (s'.team t).faulted = true ∧
        (s'.team t).seq.report.map (fun R => (R.cause, R.detail, R.code, R.pc, R.seq)) = some (15 + c / 256, c % 256, o.tile, o.addr.toNat, true)

/-- R257, R260, R269 to R276, R279: where a matrix operation enters the engine's queue, and where it waits or faults. Both parts, as `Claims.MatrixOperationsIssue` and `Claims.MatrixIssueWaits` state them.
The byte order of checks is the model's (log entry 23). -/
def Obligations.MatrixIssue : Prop := Claims.MatrixOperationsIssue ∧ Claims.MatrixIssueWaits

/-! ### Lane arithmetic -/

/-- Width and sign of an integer type's elements (R57, R111). -/
def tyBits (ty : BitVec 4) : Nat := if ty = 2 ∨ ty = 3 then 64 else if ty = 8 then 16 else 32
def tySigned (ty : BitVec 4) : Bool := decide (ty = 0 ∨ ty = 2 ∨ ty = 8)

/-- The integer that an element's bits stand for. -/
def tyRead (ty : BitVec 4) (x : Nat) : Int := if tySigned ty then (BitVec.ofNat (tyBits ty) x).toInt else (BitVec.ofNat (tyBits ty) x).toNat

/-- fit() of R115: clamped where sat is set, and the low bits. -/
def tyFit (ty : BitVec 4) (sat : Bool) (x : Int) : Nat :=
  let w := tyBits ty
  let lo : Int := if tySigned ty then -2 ^ (w - 1) else 0
  let hi : Int := if tySigned ty then 2 ^ (w - 1) - 1 else 2 ^ w - 1
  ((if sat then max lo (min x hi) else x) % 2 ^ w).toNat

/-- A packed type works on two elements of 16 bits, element 0 in the low half (R57). -/
def perElement (ty : BitVec 4) (g : Nat → Nat → Nat → Nat) (a b c : Nat) : Nat :=
  let lo (x : Nat) : Nat := x % 2 ^ 16
  let hi (x : Nat) : Nat := x / 2 ^ 16 % 2 ^ 16
  if ty = 6 ∨ ty = 7 ∨ ty = 8 then lo (g (lo a) (lo b) (lo c)) + 2 ^ 16 * lo (g (hi a) (hi b) (hi c)) else g a b c

/-- R61, R66, R113, R115, R117, R119, R121, R122: the integer instructions under every integer type. Each lane with effect takes its value in vd,
or the pair; every other lane, register, mask and field of the package stands. The operands are read before any register is written. -/
def Obligations.LaneIntegerResults : Prop :=
  ∀ (s : State) (t w : Nat) (b : Bool), s.onPath t w b → s.goesOn t w b → ∀ f : LaneWord, f.ty ∈ ([0, 1, 2, 3, 8] : List (BitVec 4)) →
    let W := s.warp t w
    let wide := Lane.wide f.ty
    let n := tyBits f.ty
    let R := tyRead f.ty
    let bitsOf (i : Instr) (g : Nat → Nat → Nat → Nat) : Prop := Runs i s fun s' =>
      LaneResult s s' t w b f wide fun l => perElement f.ty g (W.opa f wide l) (W.opb f wide l) (W.opc f wide l)
    let fits (i : Instr) (g : Nat → Nat → Nat → Int) : Prop := bitsOf i fun x y z => tyFit f.ty f.sat (g x y z)
    let low (x : Nat) : Nat := x % 2 ^ n
    let bytes (x j : Nat) : Nat := x / 2 ^ (8 * j) % 256
    let sum (g : Nat → Int) : Int := g 0 + g 1 + g 2 + g 3
    fits (.vadd f) (fun x y _ => R x + R y) ∧ fits (.vsub f) (fun x y _ => R x - R y) ∧ fits (.vmul f) (fun x y _ => R x * R y) ∧
    fits (.vmulh f) (fun x y _ => R x * R y / 2 ^ n) ∧ fits (.vmad f) (fun x y z => R x * R y + R z) ∧
    bitsOf (.vand f) (fun x y _ => low (x &&& y)) ∧ bitsOf (.vor f) (fun x y _ => low (x ||| y)) ∧ bitsOf (.vxor f) (fun x y _ => low (x ^^^ y)) ∧
    fits (.vshl f) (fun x y _ => R x * 2 ^ y) ∧ bitsOf (.vshr f) (fun x y _ => low (x / 2 ^ y)) ∧
    bitsOf (.vsar f) (fun x y _ => ((BitVec.ofNat n x).toInt / 2 ^ y % 2 ^ n).toNat) ∧
    fits (.vmin f) (fun x y _ => min (R x) (R y)) ∧ fits (.vmax f) (fun x y _ => max (R x) (R y)) ∧ fits (.vabs f) (fun x _ _ => |R x|) ∧
    (f.ty ≠ 8 → bitsOf (.vclz f) (fun x _ _ => ((List.range n).takeWhile fun i => !x.testBit (n - 1 - i)).length) ∧
      bitsOf (.vpopc f) (fun x _ _ => ((List.range n).filter fun i => x.testBit i).length) ∧
      bitsOf (.vbfx f) (fun x y _ =>
        let q := y / 2 ^ 8 % 2 ^ 6
        let v := x / 2 ^ (y % 2 ^ 6) % 2 ^ q
        if tySigned f.ty ∧ q ≠ 0 then ((BitVec.ofNat q v).toInt % 2 ^ n).toNat else low v) ∧
      bitsOf (.vbfi f) (fun x y z =>
        let p := y % 2 ^ 6
        let q := y / 2 ^ 8 % 2 ^ 6
        low ((z &&& ((2 ^ 128 - 1) ^^^ ((2 ^ q - 1) * 2 ^ p))) ||| (x % 2 ^ q * 2 ^ p))) ∧
      (f.sat = false → fits (.vdiv f) (fun x y _ => if R y = 0 then (if tySigned f.ty then -1 else 2 ^ n - 1)
          else if tySigned f.ty ∧ R x = -2 ^ (n - 1) ∧ R y = -1 then -2 ^ (n - 1) else (R x).tdiv (R y)) ∧
        fits (.vrem f) (fun x y _ => if R y = 0 then R x else if tySigned f.ty ∧ R x = -2 ^ (n - 1) ∧ R y = -1 then 0
          else R x - R y * (R x).tdiv (R y)))) ∧
    (f.ty = 1 → fits (.vsad f) (fun x y z => R z + sum fun j => |(bytes x j : Int) - bytes y j|)) ∧
    (f.ty = 0 ∨ f.ty = 1 → fits (.vdot4 f) (fun x y z =>
      let e (v : Nat) : Int := if f.ty = 0 then (BitVec.ofNat 8 v).toInt else v
      R z + sum fun j => e (bytes x j) * e (bytes y j)))

/-- R121: VSEL and VMOV move the bits of every type, F64 immediates widened exactly. -/
def Claims.LaneMoves : Prop :=
  ∀ (s : State) (t w : Nat) (b : Bool), s.onPath t w b → s.goesOn t w b → ∀ f : LaneWord, f.ty.toNat < 9 →
    let W := s.warp t w
    let wide := Lane.wide f.ty
    let gives (i : Instr) (v : Nat → Nat) : Prop := Runs i s fun s' => LaneResult s s' t w b f wide v
    (∀ k, 1 ≤ k → k < 8 → f.sub.toNat % 8 = k → gives (.vsel f) fun l => if (W.m.get k 0).getLsbD l then W.opa f wide l else W.opb f wide l) ∧
    (f.sub.toNat % 2 = 0 → gives (.vmov f) (W.opb f wide)) ∧
    (f.sub.toNat % 2 = 1 → gives (.vmov f) fun _ =>
      if f.ty = 2 then (f.imm.toInt % 2 ^ 64).toNat else if f.ty = 5 then f64.enc 0 (f32.dec f.imm.toNat) else f.imm.toNat)

/-- R118, R120, R123, R125: the compares write a mask bit of each lane with effect, or clear bits of the execution mask; VADDC writes the low word
of a + b + cin in vd and the carry in a mask; VSREG writes the lowest such lane's value to a shared register, or nothing where no lane has
effect. -/
def Claims.LaneCompares : Prop :=
  ∀ (s : State) (t w : Nat) (b : Bool), s.onPath t w b → s.goesOn t w b → ∀ f : LaneWord,
    let W := s.warp t w
    let wide := Lane.wide f.ty
    let k := f.sub.toNat % 8
    let ci := f.sub.toNat / 8
    let c := f.md.toNat
    (f.ty.toNat < 4 → c < 6 → Runs (.vicmp f) s fun s' => MaskWrote s s' t w b f k fun l =>
      let x := tyRead f.ty (W.opa f wide l)
      let y := tyRead f.ty (W.opb f wide l)
      decide ((c = 0 ∧ x = y) ∨ (c = 1 ∧ x ≠ y) ∨ (c = 2 ∧ x < y) ∨ (c = 3 ∧ x ≤ y) ∨ (c = 4 ∧ x > y) ∨ (c = 5 ∧ x ≥ y))) ∧
    (f.ty = 4 ∨ f.ty = 5 → c < 8 → Runs (.vfcmp f) s fun s' => MaskWrote s s' t w b f k fun l =>
      let F := if f.ty = 5 then f64 else f32
      let mods (neg : Bool) (x : FV) : FV := let x := if f.abs then x.abs else x; if neg then x.neg else x
      let o := (mods f.na (F.dec (W.opa f wide l))).cmp (mods f.nb (F.dec (W.opb f wide l)))
      decide ((c = 0 ∧ o = some .eq) ∨ (c = 1 ∧ o ≠ some .eq) ∨ (c = 2 ∧ o = some .lt) ∨ (c = 3 ∧ (o = some .lt ∨ o = some .eq)) ∨
        (c = 4 ∧ o = some .gt) ∨ (c = 5 ∧ (o = some .gt ∨ o = some .eq)) ∨ (c = 6 ∧ o = none) ∨ (c = 7 ∧ o ≠ none))) ∧
    (let sum (l : Nat) : Nat := W.opa f false l + W.opb f false l + if ci ≠ 0 ∧ (W.m.get ci 0).getLsbD l then 1 else 0
     f.ty = 1 → Runs (.vaddc f) s fun s' =>
      s' = (s.modWarp t w fun V => { V.setPath b (some ((s.path t w b).stepped s.now)) with
        v := (s'.warp t w).v, badV := (s'.warp t w).badV, m := (s'.warp t w).m }) ∧
      (∀ l < 32, ∀ r, (s'.warp t w).vw r l = if s.acts t w b f l = true ∧ r = f.vd.toNat then BitVec.ofNat 32 (sum l) else W.vw r l) ∧
      ∀ j, 1 ≤ j → j < 8 → ∀ l < 32, ((s'.warp t w).m.get j 0).getLsbD l =
        if j = k ∧ s.acts t w b f l = true then decide (2 ^ 32 ≤ sum l) else (W.m.get j 0).getLsbD l) ∧
    ((s.acting t w b f = [] → Runs (.vsreg f) s fun s' => PathSteps s s' t w b) ∧
     ∀ l r, s.acting t w b f = l :: r → Runs (.vsreg f) s fun s' =>
      SharedWrote s s' t w b (32 + f.sub.toNat % 32) (BitVec.ofNat 64 (W.opa f wide l)))

/-- R116, R124, R126, R127: the floating-point instructions. Operands are modified, the exact result is rounded to the format under md[45:44], and
saturated where asked; packed elements are computed in their own format.
How the functions of R127 are computed is log entry 20. -/
def Obligations.LaneFloatResults : Prop :=
  ∀ (s : State) (t w : Nat) (b : Bool), s.onPath t w b → s.goesOn t w b → ∀ f : LaneWord, f.ty ∈ ([4, 5, 6, 7] : List (BitVec 4)) →
    let W := s.warp t w
    let wide := Lane.wide f.ty
    let F := fmtOf f.ty.toNat
    let mode := f.md.toNat % 4
    let mods (neg : Bool) (x : FV) : FV := let x := if f.abs then x.abs else x; if neg then x.neg else x
    let bitsOf (i : Instr) (g : Nat → Nat → Nat → Nat) : Prop := Runs i s fun s' =>
      LaneResult s s' t w b f wide fun l => perElement f.ty g (W.opa f wide l) (W.opb f wide l) (W.opc f wide l)
    let one : Nat := F.enc 0 (.fin false 1 0)
    let saturate (x : Nat) : Nat :=
      if f.sat = false then x else if F.dec x = .nan ∨ (F.dec x).isNeg = true ∨ x = 0 then 0 else if one < x then one else x
    let gives (i : Instr) (g : FV → FV → FV → Nat) : Prop :=
      bitsOf i fun x y z => saturate (g (mods f.na (F.dec x)) (mods f.nb (F.dec y)) (F.dec z))
    gives (.vfadd f) (fun x y _ => F.enc mode (x.add mode y)) ∧ gives (.vfsub f) (fun x y _ => F.enc mode (x.add mode y.neg)) ∧
    gives (.vfmul f) (fun x y _ => F.enc mode (x.mul y)) ∧ gives (.vfma f) (fun x y z => F.enc mode ((x.mul y).add mode z)) ∧
    gives (.vfmin f) (fun x y _ => F.enc 0 (FV.pick false x y)) ∧ gives (.vfmax f) (fun x y _ => F.enc 0 (FV.pick true x y)) ∧
    gives (.vfsqrt f) (fun x _ _ => F.sqrt mode x) ∧ gives (.vfdiv f) (fun x y _ => F.div mode x y) ∧ gives (.vfrnd f) (fun x _ _ => F.rint mode x) ∧
    gives (.vfgetexp f) (fun x _ _ => F.logb x) ∧
    gives (.vfrcp f) (fun x _ _ => rcp32 x) ∧ gives (.vfrsq f) (fun x _ _ => rsq32 x) ∧ gives (.vfexp2 f) (fun x _ _ => exp2_32 x) ∧
    gives (.vflog2 f) (fun x _ _ => log2_32 x) ∧ gives (.vfsin f) (fun x _ _ => sin32 x) ∧ gives (.vfcos f) (fun x _ _ => cos32 x) ∧
    bitsOf (.vfclass f) (fun x _ _ => F.cls (bitMods F f.abs f.na x)) ∧
    bitsOf (.vfldexp f) (fun x y _ =>
      let n : Int := if f.ty = 6 ∨ f.ty = 7 then (BitVec.ofNat 16 y).toInt else (BitVec.ofNat 32 y).toInt
      match mods f.na (F.dec x) with
      | .fin neg m e => F.enc mode (.fin neg m (e + max (-10000) (min 10000 n)))
      | v => F.enc 0 v)

/-- R116, R128, R129: VCVT. A floating source takes the modifiers. Both types packed, or neither: element by element; a packed source gives the element sub[4]; a packed destination takes it in
that element and keeps the other one. That the modifiers na and abs belong to a floating source is the model's reading (log entry 19). -/
def Obligations.LaneConversions : Prop :=
  ∀ (s : State) (t w : Nat) (b : Bool), s.onPath t w b → s.goesOn t w b → ∀ (f : LaneWord) (src : BitVec 4),
    f.ty.toNat < 9 → src.toNat < 9 → f.sub.toNat % 16 = src.toNat →
    let W := s.warp t w
    let dst := f.ty
    let mode := f.md.toNat % 4
    let float (ty : BitVec 4) : Prop := 4 ≤ ty.toNat ∧ ty.toNat ≤ 7
    let two (ty : BitVec 4) : Prop := ty = 6 ∨ ty = 7 ∨ ty = 8
    let S := fmtOf src.toNat
    let D := fmtOf dst.toNat
    let n := tyBits dst
    let mods (x : FV) : FV := let x := if f.abs then x.abs else x; if f.na then x.neg else x
    let conv (x : Nat) : Nat :=
      if float src ∧ float dst then (if dst = src then (if S.dec x = .nan then D.nan else bitMods S f.abs f.na x) else D.enc mode (mods (S.dec x)))
      else if float src then (floatToInt mode (if tySigned dst then -2 ^ (n - 1) else 0) (if tySigned dst then 2 ^ (n - 1) - 1 else 2 ^ n - 1) (mods (S.dec x)) % 2 ^ n).toNat
      else if float dst then D.enc mode (.fin (decide (tyRead src x < 0)) (tyRead src x).natAbs 0)
      else tyFit dst f.sat (tyRead src x)
    let half (h : Bool) (x : Nat) : Nat := x / 2 ^ (if h then 16 else 0) % 2 ^ 16
    let h : Bool := f.sub.toNat / 16 % 2 == 1
    Runs (.vcvt f) s fun s' => LaneResult s s' t w b f (Lane.wide dst) fun l =>
      let x := W.opa f (Lane.wide src) l
      let old := (W.vw f.vd.toNat l).toNat
      if two dst ∧ two src then conv (half false x) % 2 ^ 16 + 2 ^ 16 * (conv (half true x) % 2 ^ 16)
      else if two src then conv (half h x)
      else if two dst then (if h then half false old + 2 ^ 16 * (conv x % 2 ^ 16) else conv x % 2 ^ 16 + 2 ^ 16 * half true old)
      else conv x

/-- R130, R131: VQNT quantises blocks of 16 to 128 elements over the lanes with effect; VDQNT gives each significand its exact value, NaN for an E8 of
255. The value −2^(w−1) under an E8 of 254 is no F32 value: the model leaves it open (log entry 8). -/
def Obligations.LaneQuantisation : Prop :=
  ∀ (s : State) (t w : Nat) (b : Bool), s.onPath t w b → s.goesOn t w b → ∀ f : LaneWord,
    let W := s.warp t w
    let n := if f.sub.toNat % 2 = 1 then 4 else 8
    let per := 4 * 2 ^ (f.md.toNat / 4)
    let val (l i : Nat) : FV := f32.dec (W.vw (f.va.toNat + i) l).toNat
    let block (l : Nat) : List FV := ((s.acting t w b f).filter fun k => k / per == l / per).flatMap fun k => (List.range 4).map (val k)
    let E (l : Nat) : Nat := blockE (block l)
    let sig (l i : Nat) : Nat := if E l = 255 then 0 else (blockSig (val l i) (E l) n % 2 ^ n).toNat
    (∀ l, E l ≤ 255) ∧
    (f.vd.toNat % 2 = 0 → Runs (.vqnt f) s fun s' => LaneResult s s' t w b f true fun l =>
      sig l 0 + sig l 1 * 2 ^ n + sig l 2 * 2 ^ (2 * n) + sig l 3 * 2 ^ (3 * n) + 2 ^ 32 * E l) ∧
    Runs (.vdqnt f) s fun s' => ∃ z : Nat → Nat → Half, LaneWrote { s with ctr := s.ctr + 128 } s' t w b fun l r =>
      if s.acts t w b f l = true ∧ f.vd.toNat ≤ r ∧ r < f.vd.toNat + 4 then
        let e8 := W.opb f false l % 256
        let v := (BitVec.ofNat n (W.opa f false l / 2 ^ (n * (r - f.vd.toNat)))).toInt
        some (if e8 = 254 ∧ v = -2 ^ (n - 1) then z l r
          else BitVec.ofNat 32 (if e8 = 255 then f32.nan else f32.enc 0 (.fin (decide (v < 0)) v.natAbs ((e8 : Int) - 127 - (n - 2)))))
      else none

/-! ### Cross-lane operations and masks -/

/-- R165 to R171: the shuffles, VMATCH and VSCAN write registers; VVOTE, VREDUCE, MPOPC, MFIRST and MGET write a shared register; MLOG, MSET and MPUT
write a mask. Lanes outside the execution mask, and dead ones, are no source. -/
def Obligations.CrossLaneResults : Prop :=
  ∀ (s : State) (t w : Nat) (b : Bool), s.onPath t w b → s.goesOn t w b → ∀ f : LaneWord,
    let W := s.warp t w
    let wide := Lane.wide f.ty
    let ls := s.acting t w b f
    let x (l : Nat) : Nat := W.opa f wide l
    let source (j : Int) : Prop := 0 ≤ j ∧ j < 32 ∧ (s.path t w b).m0.getLsbD j.toNat = true ∧ W.dead.getLsbD j.toNat = false
    let writes (i : Instr) (wd : Bool) (v : Nat → Nat) : Prop := Runs i s fun s' => LaneResult s s' t w b f wd v
    let shares (i : Instr) (v : Word) : Prop := Runs i s fun s' => SharedWrote s s' t w b (32 + f.sub.toNat % 32) v
    let masks (i : Instr) (p : Nat → Bool) : Prop := Runs i s fun s' => MaskWrote s s' t w b f (f.sub.toNat % 8) p
    let m (k l : Nat) : Bool := if k = 0 then (s.path t w b).m0.getLsbD l else (W.m.get k 0).getLsbD l
    let i := f.va.toNat % 8
    let j := f.vb.toNat % 8
    let bit (c : Bool) : Word := if c then 1 else 0
    let mask (p : Nat → Bool) : Word := BitVec.ofNat 64 (((List.range 32).map fun l => if ls.contains l && p l then 2 ^ l else 0).sum)
    let op := f.imm.toNat % 8
    let at_ (l : Nat) : Nat := if ls.contains l then quiet f.ty (x l) else identity op f.ty
    let from_ (src : Nat → Int) (l : Nat) : Nat → Prop := fun v => (source (src l) → v = x (src l).toNat) ∧ (¬ source (src l) → v = W.opc f wide l)
    (∀ v : Nat → Nat, (∀ l < 32, from_ (fun l =>
        let y := W.opb f false l
        let k := f.sub.toNat % 4
        if k = 0 then y else if k = 1 then (l : Int) - y else if k = 2 then l + y else (l ^^^ y : Nat)) l (v l)) → writes (.vshfl f) wide v) ∧
    (∀ v : Nat → Nat, (∀ l < 32, from_ (fun _ => if f.sub.toNat % 2 = 1 then ((ls.head?.getD 0 : Nat) : Int) else (f.imm.toNat % 32 : Nat)) l (v l)) →
      writes (.vbcast f) wide v) ∧
    (let p (l : Nat) : Bool := x l != 0
     let k := f.imm.toNat % 4
     shares (.vvote f) (if k = 0 then bit (ls.all p) else if k = 1 then bit (ls.any p) else if k = 2 then bit (ls.all p || !ls.any p) else mask p)) ∧
    shares (.vreduce f) (BitVec.ofNat 64 (tree (combine op f.ty) at_ 0 5)) ∧
    writes (.vscan f) wide (fun l => if f.sub.toNat % 2 = 0 then prefixScan (combine op f.ty) at_ l
      else if l = 0 then identity op f.ty else prefixScan (combine op f.ty) at_ (l - 1)) ∧
    writes (.vmatch f) false (fun l => (mask fun k => x k == x l).toNat) ∧
    (op < 6 → masks (.mlog f) fun l => decide ((op = 0 ∧ m i l ∧ m j l) ∨ (op = 1 ∧ (m i l ∨ m j l)) ∨ (op = 2 ∧ m i l ≠ m j l) ∨
      (op = 3 ∧ m i l ∧ ¬ m j l) ∨ (op = 4 ∧ ¬ m i l) ∨ (op = 5 ∧ m i l))) ∧
    shares (.mpopc f) (BitVec.ofNat 64 (ls.filter (m i)).length) ∧ shares (.mfirst f) (BitVec.ofNat 64 (((ls.filter (m i)).head?).getD 32)) ∧
    masks (.mset f) (fun l => f.imm.getLsbD l) ∧ shares (.mget f) (mask (m i)) ∧ masks (.mput f) fun l => (W.opb f false l).testBit l

/-! ### Lane control -/

/-- R137, R140 to R147: the transfers of a path. A target of 65,535 or below is reached at once; a divergence pushes a JOIN entry over the whole
membership, and the part that falls through takes the other slot or a PART entry. A stack without room is the warp-level fault DSTACK (12) at the
instruction. -/
def Obligations.LaneTransfers : Prop :=
  ∀ (s : State) (t w : Nat) (b : Bool), s.onPath t w b → s.goesOn t w b → ∀ f : LaneWord,
    let W := s.warp t w
    let P := s.path t w b
    let tgt := f.imm.toNat % 2 ^ 16
    let m : Half := W.m.get (f.sub.toNat % 8) 0
    let tk := s.eff t w b f &&& (if f.sub.toNat / 8 % 2 = 1 then ~~~m else m)
    let free := 64 - W.stack.length
    let full (s' : State) : Prop := WarpHalted s s' t w { s.warpReport t w 12 0 0 0 with pc := P.pc, lane := true }
    let steps (i : Instr) : Prop := Runs i s fun s' => PathSteps s s' t w b
    let goes (i : Instr) (x : Nat) : Prop := Runs i s fun s' => PathGoes s s' t w b x
    let boardOf (ls : Half) : List Load := P.board.filter fun x => ls.getLsbD x.lane
    steps (.lnop f) ∧ steps (.lpad f) ∧
    (P.m0 = 0 → steps (.ljmp f) ∧ steps (.lcall f) ∧ steps (.lret f)) ∧ (P.m0 ≠ 0 → goes (.ljmp f) tgt) ∧
    (P.m0 ≠ 0 → (1 ≤ free → Runs (.lcall f) s fun s' =>
        s' = s.modWarp t w fun W => { W with stack := .ret (P.pc + 1) P.mem :: W.stack }.setPath b (some { P.stepped s.now with pc := tgt })) ∧
      (free = 0 → Runs (.lcall f) s full)) ∧
    (P.m0 ≠ 0 → ∀ i st, takeRet P.mem W.stack = some (i, st) → i ≤ 65535 → Runs (.lret f) s fun s' =>
      s' = s.modWarp t w fun W => { W with stack := st }.setPath b (some { P.stepped s.now with pc := i })) ∧
    (tk = 0 ∨ tgt = P.pc + 1 → steps (.lbr f)) ∧ (tk ≠ 0 → tgt ≠ P.pc + 1 → P.mem &&& ~~~tk = 0 → goes (.lbr f) tgt) ∧
    (tk ≠ 0 → tgt ≠ P.pc + 1 → P.mem &&& ~~~tk ≠ 0 →
      let fall : Path := { pc := P.pc + 1, m0 := P.m0 &&& ~~~tk, mem := P.mem &&& ~~~tk, join := some W.joins, board := boardOf (P.mem &&& ~~~tk), issued := s.now }
      let take : Path := { pc := tgt, m0 := tk, mem := tk, join := some W.joins, board := boardOf tk, issued := s.now }
      let join : Entry := .join W.joins (f.imm.toNat / 2 ^ 16) P.mem 0 P.join none 0
      (W.path (!b) = none → (1 ≤ free → Runs (.lbr f) s fun s' => s' = s.modWarp t w fun W =>
          ({ W with stack := join :: W.stack, joins := W.joins + 1 }.setPath b (some take)).setPath (!b) (some fall)) ∧ (free = 0 → Runs (.lbr f) s full)) ∧
      (W.path (!b) ≠ none → (2 ≤ free → Runs (.lbr f) s fun s' => s' = s.modWarp t w fun W =>
          { W with stack := .part fall :: join :: W.stack, joins := W.joins + 1 }.setPath b (some take)) ∧ (free < 2 → Runs (.lbr f) s full)))

/-- R144, R145: LJMPI and LCALLI of a path whose lanes with effect are its members, and all hold one target that is LPAD with the tag: the path
goes there as a whole; LCALLI pushes a RET entry first. With no lane with effect both go on. -/
def Obligations.LaneIndirect : Prop :=
  ∀ (s : State) (t w : Nat) (b : Bool), s.onPath t w b → s.goesOn t w b → ∀ f : LaneWord,
    let W := s.warp t w
    let P := s.path t w b
    let tag := f.imm.toNat % 2 ^ 16
    (s.eff t w b f = 0 → P.mem ≠ 0 → (∀ i ∈ [Instr.ljmpi f, .lcalli f], Runs i s fun s' => ∃ s1, PathSteps s s1 t w b ∧ s' = s1.settle t)) ∧
    ∀ x s1, P.mem ≠ 0 → s.eff t w b f = P.mem → (∀ l < 32, P.mem.getLsbD l = true → (W.vw f.va.toNat l).toNat = x) →
      s.padCheck t x tag = (.good, s1) → s1.warp t w = W → s1.now = s.now → x ≤ 65535 →
        Runs (.ljmpi f) s (fun s' => s' = (s1.modWarp t w fun W => W.setPath b (some { P.stepped s.now with pc := x })).settle t) ∧
        (W.stack.length < 64 → Runs (.lcalli f) s fun s' =>
          s' = (s1.modWarp t w fun W => { W with stack := .ret (P.pc + 1) P.mem :: W.stack }.setPath b (some { P.stepped s.now with pc := x })).settle t)

/-- R137, R147, R151, R152, R164, R172: LJOIN, LEND and LBAR issue with an empty scoreboard only. A path whose JOIN names this index arrives there and
leaves its slot; any other one passes through. LEND arrives for every member, LEXIT for the lanes with effect; LBAR counts the members, and
.SYNC waits. The checks of the cycle's end follow. LFRAG reads a bitmap of the warp. -/
def Obligations.LaneJoinsAndBarriers : Prop :=
  ∀ (s : State) (t w : Nat) (b : Bool), s.onPath t w b → s.goesOn t w b → ∀ f : LaneWord,
    let W := s.warp t w
    let P := s.path t w b
    let n := f.imm.toNat % 16
    let next (W : Warp) : Warp := W.setPath b (some (P.stepped s.now))
    let counted : State := s.modTeam t fun T => { T with barriers := T.barriers.ins n (T.barriers.get n 0 + count P.mem) }
    (P.board ≠ [] → Runs (.ljoin f) s (· = s) ∧ Runs (.lend f) s (· = s) ∧ Runs (.lbar f) s (· = s)) ∧
    (P.board = [] →
      (P.join.bind W.joinAt ≠ some P.pc → Runs (.ljoin f) s fun s' =>
        s' = s.modWarp t w fun W => next (W.setMask (f.sub.toNat % 8) P.mem W.detached)) ∧
      (∀ j, P.join = some j → W.joinAt j = some P.pc → Runs (.ljoin f) s fun s' =>
        let due := if f.imm = 0 then none else some ((s.die (s.team t).die).cycles + f.imm.toNat)
        s' = (s.modWarp t w fun W => { W.setPath b none with stack := W.stack.map (Entry.arrive j P.mem due (f.sub.toNat % 8)) }).settle t) ∧
      Runs (.lend f) s (fun s' =>
        s' = (s.modWarp t w fun W => { W.setPath b none with arrived := W.arrived ||| P.mem, stack := W.stack.map (Entry.unexpect P.mem) }).settle t) ∧
      (P.bar.isSome = true → Runs (.lbar f) s (· = s)) ∧
      (P.bar = none → (f.sub.toNat % 2 = 1 → Runs (.lbar f) s (· = (counted.modWarp t w next).settle t)) ∧
        (f.sub.toNat % 2 = 0 → Runs (.lbar f) s (· = (counted.modWarp t w (·.setPath b (some { P with bar := some n }))).settle t)))) ∧
    (s.eff t w b f = 0 → P.mem ≠ 0 → Runs (.lexit f) s fun s' => ∃ s1, s' = s1.settle t ∧ s1 = s.modWarp t w fun W =>
      { next W with stack := W.stack.map (Entry.unexpect 0) }) ∧
    (s.eff t w b f = P.mem → P.mem ≠ 0 → Runs (.lexit f) s fun s' =>
      s' = (s.modWarp t w fun W => { W.setPath b none with arrived := W.arrived ||| P.mem, stack := W.stack.map (Entry.unexpect P.mem) }).settle t) ∧
    Runs (.lfrag f) s fun s' => LaneResult s s' t w b f false fun _ =>
      let k := f.sub.toNat % 4
      (if k = 0 then s.parked t w else if k = 1 then W.dead else if k = 2 then ((W.path (!b)).map (·.mem)).getD 0 else W.detached).toNat

/-- R118, R120, R121, R123, R125: the moves, the compares, VADDC and VSREG. Both parts, as `Claims.LaneMoves` and `Claims.LaneCompares` state them. -/
def Obligations.LaneMovesAndCompares : Prop := Claims.LaneMoves ∧ Claims.LaneCompares

/-! ### Lane memory -/

/-- The register words that a load of a size code puts in vd and on (R201): .S8 and .S16 extend the sign, the other codes zeros. -/
def loaded (k vd v : Nat) : List (Nat × Half) :=
  if k = 0 then [(vd, (BitVec.ofNat 8 v).signExtend 32)] else if k = 2 then [(vd, (BitVec.ofNat 16 v).signExtend 32)]
  else if k = 5 then [(vd, BitVec.ofNat 32 v), (vd + 1, BitVec.ofNat 32 (v / 2 ^ 32))]
  else if k = 6 then [(vd, BitVec.ofNat 32 v), (vd + 1, BitVec.ofNat 32 (v / 2 ^ 32)), (vd + 2, BitVec.ofNat 32 (v / 2 ^ 64)), (vd + 3, BitVec.ofNat 32 (v / 2 ^ 96))]
  else [(vd, BitVec.ofNat 32 v)]

/-- Bytes of the size codes 0 to 6 (R60). -/
def sizeBytes (k : Nat) : Nat := ([1, 1, 2, 2, 4, 8, 16] : List Nat).getD k 16

/-- The data of a lane's store (R201). -/
def storeData (W : Warp) (vd l : Nat) : Nat :=
  (W.vw vd l).toNat + 2 ^ 32 * (W.vw (vd + 1) l).toNat + 2 ^ 64 * (W.vw (vd + 2) l).toNat + 2 ^ 96 * (W.vw (vd + 3) l).toNat

/-- The path has put these loads on its scoreboard and advanced; the checks of the cycle's end follow. -/
def loadsWait (s : State) (t w : Nat) (b : Bool) (xs : List Load) : State :=
  (s.modWarp t w fun W => W.setPath b (some { (s.path t w b).stepped s.now with board := (s.path t w b).board ++ xs })).settle t

/-- A release among the accesses of a lane word waits: some lane with effect has remote writes that are not performed (R213). -/
def releaseWaits (s : State) (t w : Nat) (b : Bool) (f : LaneWord) : Prop :=
  f.nb = true ∧ ∃ l ∈ s.acting t w b f, s.writesBefore (.lane t w l) ≠ []

/-- R60, R175, R183, R201: VLDP and VSTP of lanes that are aligned and inside the team's scratchpad. A load puts its data on the scoreboard; stores
are performed in ascending lane order, so that a byte written twice holds the higher lane's; a release waits for its lanes' earlier remote writes
(R213). Lanes that fail park, and the others complete. -/
def Obligations.LaneScratchpad : Prop :=
  ∀ (s : State) (t w : Nat) (b : Bool), s.onPath t w b → s.goesOn t w b → ∀ f : LaneWord,
    let W := s.warp t w
    let T := s.team t
    let k := f.sub.toNat % 8
    let n := sizeBytes k
    let x (l : Nat) : Nat := (W.vw f.va.toNat l + f.imm).toNat
    let ls := s.acting t w b f
    let good (l : Nat) : Bool := x l % n == 0 && decide (x l + n ≤ T.spad)
    let late : Prop := releaseWaits s t w b f
    k < 7 → T.spBad = [] → T.mOps = [] →
    ((∀ l ∈ ls, good l) → Runs (.vldp f) s fun s' => s' = loadsWait s t w b (ls.map fun l => { lane := l, regs := loaded k f.vd.toNat (s.spValue t (x l) n) })) ∧
    (late → Runs (.vstp f) s (· = s)) ∧
    (¬ late → (∀ l ∈ ls, good l) → Runs (.vstp f) s fun s' =>
      s' = ((s.modTeam t fun T => { T with sp := (s'.team t).sp, spOld := (s'.team t).spOld }).modWarp t w fun W =>
        W.setPath b (some ((s.path t w b).stepped s.now))).settle t ∧
      ∀ y, s'.spByte t y = match ls.reverse.find? fun l => decide (x l ≤ y) && decide (y < x l + n) with
        | some l => BitVec.ofNat 8 (storeData W f.vd.toNat l / 2 ^ (8 * (y - x l)))
        | none => s.spByte t y) ∧
    ((∀ l ∈ ls, good l = false) → ¬ late → ∀ i ∈ [Instr.vldp f, .vstp f], Runs i s fun s' =>
      let p := s.park t w b (ls.map fun l => { lane := l, code := if x l % n ≠ 0 then 0x500 else 0x203, addr := x l })
      s' = if p.2 then (p.1.nextIdx t w b).settle t else p.1) ∧
    -- some lanes complete, the others park, and the path goes on with those that completed when a table entry was found for each that failed
    (let oks := ls.filter good
     let parks (s1 s' : State) : Prop :=
       let p := s1.park t w b ((ls.filter fun l => !good l).map fun l => { lane := l, code := if x l % n ≠ 0 then 0x500 else 0x203, addr := x l })
       s' = if p.2 then (p.1.nextIdx t w b).settle t else p.1
     Runs (.vldp f) s (parks (s.modPath t w b fun P =>
       { P with board := P.board ++ oks.map fun l => { lane := l, regs := loaded k f.vd.toNat (s.spValue t (x l) n) } })) ∧
     (¬ late → Runs (.vstp f) s fun s' => ∃ s1, s1 = (s.modTeam t fun T => { T with sp := (s1.team t).sp, spOld := (s1.team t).spOld }) ∧
       (∀ y, s1.spByte t y = match oks.reverse.find? fun l => decide (x l ≤ y) && decide (y < x l + n) with
         | some l => BitVec.ofNat 8 (storeData W f.vd.toNat l / 2 ^ (8 * (y - x l)))
         | none => s.spByte t y) ∧ parks s1 s'))

/-- R182, R201, R204: VLD and VST over global memory. A page that is to be asked holds the instruction back. With one lane with effect whose access
reaches its bytes, VLD puts the little-endian value on the scoreboard and VST writes its data; several lanes act in ascending order, each as
its check found, those on one line of a peer by one transaction (R176), and the lanes that failed park; a release waits for its lanes' earlier remote
writes (R213). VPREF moves the path on, and touches only what the caches, the filters and the base dies keep (R203). -/
def Obligations.LaneGlobal : Prop :=
  ∀ (s : State) (t w : Nat) (b : Bool), s.onPath t w b → s.goesOn t w b → ∀ f : LaneWord,
    let W := s.warp t w
    let o := (s.team t).origin
    let k := f.sub.toNat % 8
    let n := sizeBytes k
    let x (l : Nat) : Nat := (BitVec.ofInt 64 (((W.vw f.va.toNat l).toNat + 2 ^ 32 * (W.vw (f.va.toNat + 1) l).toNat : Nat) + f.imm.toInt)).toNat
    let at_ := (s.acting t w b f).map fun l => (l, x l)
    let late : Prop := releaseWaits s t w b f
    k < 7 →
    (∀ cs s1, s.checkLanes n .read at_ = (cs, s1) →
      (asksOf cs ≠ [] → Runs (.vld f) s (· = s1.askFor (asksOf cs))) ∧
      (asksOf cs = [] → Runs (.vld f) s (· = (s1.loadLanes f k [] t w b cs).accessEnd t w b (failsOf cs) 0))) ∧
    (∀ cs s1, s.checkLanes n .write at_ = (cs, s1) →
      (late → Runs (.vst f) s (· = s)) ∧
      (¬ late → asksOf cs ≠ [] → Runs (.vst f) s (· = s1.askFor (asksOf cs))) ∧
      (¬ late → asksOf cs = [] → Runs (.vst f) s (· = (s1.storeLanes f k t w cs).accessEnd t w b (failsOf cs) 0))) ∧
    (∀ l p s1, s.acting t w b f = [l] →
      (Reaches s (x l) n .read p s1 → NotesOnly s s1 ∧
        Runs (.vld f) s fun s' => ∃ ln, s' = loadsWait s1 t w b [{ lane := l, regs := loaded k f.vd.toNat (s.value o p n), line := ln }]) ∧
      (Reaches s (x l) n .write p s1 → ¬ late → (s.dies.find o).isSome → s1.offQueues o p n → Runs (.vst f) s fun s' =>
        StoredGlobal s s' o (s.team t).space (x l) p n (storeData W f.vd.toNat l) ∧ s'.teamsButOld = (loadsWait s t w b []).teamsButOld)) ∧
    Runs (.vpref f) s fun s' => ∃ s0 s1 : State, NotesOnly s s0 ∧ s1 = { s0 with dies := s1.dies } ∧
      (∀ d, s1.die d = { s0.die d with filters := (s1.die d).filters }) ∧ PathSteps s1 s' t w b

/-- R197, R202: VLDF of one lane on a page of the formats 3 and 4 gives its 16-bit floating elements as F32, one register each; on a page of the block
formats 1 (BI8) and 2 (BI4) the significands under the scale byte of R197; a scale byte in a peer window is fetched first, as a relaxed load. -/
def Obligations.LaneFormatLoads : Prop :=
  ∀ (s : State) (t w : Nat) (b : Bool), s.onPath t w b → s.goesOn t w b → s.quiet → (s.path t w b).scales = [] → ∀ f : LaneWord,
    let T := s.team t
    let n := sizeBytes (f.sub.toNat % 8)
    let x (l : Nat) : Nat := (s.warp t w).gaddr f l
    let words (xs : List Nat) : List (Nat × Half) := xs.mapIdx fun j v => (f.vd.toNat + j, BitVec.ofNat 32 v)
    -- a line that comes by way of the L1, which holds no alias page
    let comes (l : Nat) (page : Page) (x pa : Nat) : List Load := if page.a then [] else [{ lane := l, line := some (page.space, x, pa, false) }]
    f.sub.toNat % 8 < 7 → ∀ l, s.acting t w b f = [l] →
    (∀ q s1, s.check s.view (x l) n .read = (.ask q, s1) → Runs (.vldf f) s (· = s1.askFor [q])) ∧
    ∀ page pa s1, s.check s.view (x l) n .read = (.local page pa, s1) →
      (page.fmt = 3 ∨ page.fmt = 4 → 2 ≤ n → ∀ v s2, s1.load page.space (x l) n page pa = (some v, s2) → Runs (.vldf f) s fun s' =>
        s' = loadsWait s2 t w b ({ lane := l, regs := words ((List.range (n / 2)).map fun j => f32.enc 0 ((if page.fmt = 3 then f16 else bf16).dec (v / 2 ^ (16 * j) % 2 ^ 16))) } ::
          comes l page (x l) pa)) ∧
      (page.fmt = 1 ∨ page.fmt = 2 → ∀ sa e s2, s1.scaleAddr T.space page.swi (page.fmt = 2) (x l) = some sa →
        s1.check s1.view sa 1 .read = (.remote e, s2) → Runs (.vldf f) s (· = s2.fetchScales t w b [(l, sa, e)])) ∧
      (page.fmt = 1 ∨ page.fmt = 2 → ∀ sa pg2 pa2 s2 e8 s3 v s4, s1.scaleAddr T.space page.swi (page.fmt = 2) (x l) = some sa →
        s1.check s1.view sa 1 .read = (.local pg2 pa2, s2) → s2.load T.space sa 1 pg2 pa2 = (some e8, s3) → e8 ≠ 254 →
        s3.load page.space (x l) n page pa = (some v, s4) → Runs (.vldf f) s fun s' =>
          let wd := if page.fmt = 2 then 4 else 8
          s' = loadsWait s4 t w b ({ lane := l, regs := words ((List.range (8 * n / wd)).map fun j =>
            let g := (BitVec.ofNat wd (v / 2 ^ (wd * j))).toInt
            if e8 = 255 then f32.nan else f32.enc 0 (.fin (decide (g < 0)) g.natAbs ((e8 : Int) - 127 - (wd - 2)))) } ::
              (comes l page (x l) pa ++ comes l pg2 sa pa2)))

/-- R227, R228: the atomics of one lane, on its team's scratchpad and on global memory: the old value comes to the scoreboard of VATOM and VCAS, the new
one to memory; a VCAS that fails writes nothing. A release that waits (R213) is the subject of `Claims.ReleasesWait`. -/
def Claims.AtomicResults : Prop :=
  ∀ (s : State) (t w : Nat) (b : Bool), s.onPath t w b → s.goesOn t w b → ∀ f : LaneWord, f.ty.toNat < 5 → ¬ releaseWaits s t w b f → ∀ l, s.acting t w b f = [l] →
    let W := s.warp t w
    let T := s.team t
    let wide := Lane.wide f.ty
    let n := if wide then 8 else 4
    let op := f.sub.toNat % 16
    let y := W.opb f wide l
    let sgn (v : Nat) : Int := if f.ty = 1 ∨ f.ty = 3 then v else (BitVec.ofNat (8 * n) v).toInt
    let float (g : FV → FV → FV) (old : Nat) : Nat := f32.enc 0 (g (f32.dec old) (f32.dec y))
    let new (old : Nat) : Nat :=
      if op = 0 then old + y else if op = 1 then old + 2 ^ (8 * n) - y else if op = 2 then old &&& y else if op = 3 then old ||| y
      else if op = 4 then old ^^^ y else if op = 5 then (if sgn y < sgn old then y else old) else if op = 6 then (if sgn y > sgn old then y else old)
      else if op = 7 then y else if op = 8 then float (FV.add 0) old else if op = 9 then float (FV.pick false) old else float (FV.pick true) old
    let cas (old : Nat) : Nat := if old = y then W.opc f wide l else old
    let boards (old : Nat) : List Load := [{ lane := l, regs := if wide then [(f.vd.toNat, BitVec.ofNat 32 old), (f.vd.toNat + 1, BitVec.ofNat 32 (old / 2 ^ 32))]
      else [(f.vd.toNat, BitVec.ofNat 32 old)] }]
    (f.sub.toNat / 32 = 1 → T.spBad = [] → T.mOps = [] →
      let x := (W.vw f.va.toNat l + f.imm).toNat
      let old := s.spValue t x n
      let does (i : Instr) (v : Nat) (xs : List Load) : Prop := Runs i s fun s' =>
        s' = loadsWait (s.modTeam t fun T => { T with sp := (s'.team t).sp, spOld := (s'.team t).spOld }) t w b xs ∧ s.spStoredAt s' t x n v
      x % n = 0 → x + n ≤ T.spad →
        (op < 11 → does (.vatom f) (new old) (boards old) ∧ does (.vred f) (new old) []) ∧ does (.vcas f) (cas old) (boards old)) ∧
    (f.sub.toNat / 32 = 0 → (s.dies.find T.origin).isSome →
      let x := W.gaddr f l
      ∀ p s1, AtomReaches s x n (decide (f.md.toNat / 2 = 4)) p s1 → s1.offQueues T.origin p n →
        let old := s1.value T.origin p n
        let does (i : Instr) (v : Nat) (xs : List Load) : Prop := Runs i s fun s' =>
          StoredGlobal s s' T.origin T.space x p n v ∧ s'.teamsButOld = (loadsWait s t w b xs).teamsButOld
        (op < 11 → does (.vatom f) (new old) (boards old) ∧ does (.vred f) (new old) []) ∧ does (.vcas f) (cas old) (boards old))

/-- R213, R329: a release atomic of lanes waits while remote writes of theirs are not performed. -/
def Claims.ReleasesWait : Prop :=
  ∀ (s : State) (t w : Nat) (b : Bool), s.onPath t w b → ∀ f : LaneWord, releaseWaits s t w b f →
    ∀ i ∈ [Instr.vatom f, .vred f, .vcas f, .vst f, .vstp f], exec i s = .next s

/-- R213, R227, R228, R329: the atomics of one lane, and releases that wait. Both parts, as `Claims.AtomicResults` and `Claims.ReleasesWait` state them. -/
def Obligations.LaneAtomics : Prop := Claims.AtomicResults ∧ Claims.ReleasesWait

/-- R219, R223, R327, R328, R230: VLDR, VSTR and VATOMR check their lanes in the order of their handle words; VSTR and VATOMR that reach a die need their
stream's slot, and wait for it; then the lanes act in that order, loads and stores of one line by one transaction (R176). VFENCE issues with an empty scoreboard, with .ACK when the lanes' remote writes
are acknowledged, with .SC when no write that an earlier SC fence noted is in flight.
The signedness bit of a remote atomic is the model's (log entry 14). -/
def Obligations.LaneRemote : Prop :=
  ∀ (s : State) (t w : Nat) (b : Bool), s.onPath t w b → s.goesOn t w b → ∀ f : LaneWord,
    let W := s.warp t w
    let T := s.team t
    let k := f.sub.toNat % 8
    let ls := s.acting t w b f
    let at_ (l : Nat) : Nat × Int := (W.opb f false l, ((W.vw f.va.toNat l).toNat : Int) + f.imm.toInt)
    let runs (i : Instr) (n : Nat) (a : Acc) (bound : Bool) (act : Nat → List Nat → List (Nat × Nat × Chk) → State → State) : Prop :=
      ∀ cs s1, s.handleChecks n a at_ (passOrder (fun l => W.opb f false l) ls) = (cs, s1) →
        let fails := sortBy (fun x y => decide (x.lane ≤ y.lane)) (failsOf cs)
        let tag := if bound then s1.tag else 0
        (asksOf cs ≠ [] → Runs i s (· = s1.askFor (asksOf cs))) ∧
        (asksOf cs = [] → (∀ c ∈ cs, ∃ e y, c.2.2 = .fail e y) → Runs i s (· = s1.accessEnd t w b fails 0)) ∧
        (asksOf cs = [] → (∃ c ∈ cs, ∀ e y, c.2.2 ≠ .fail e y) →
          (∀ s2, s1.accept T.origin T.asid tag t = (none, s2) → Runs i s (· = s2)) ∧
          ∀ after s2, s1.accept T.origin T.asid tag t = (some after, s2) → Runs i s (· =
            (act tag after cs s2).accessEnd t w b fails 0))
    (k < 7 → runs (.vldr f) (sizeBytes k) .read false (fun _ after cs s => s.loadLanes f k after t w b cs) ∧
      runs (.vstr f) (sizeBytes k) .write true (fun tag after cs s => (byLine 32 (remoteOf cs)).foldl (storeLine f k tag after t w) s)) ∧
    runs (.vatomr f) (if Lane.wide f.ty then 8 else 4) .atomic true
      (fun tag after cs s => cs.foldl (fun s (l, x, c) => atomLane f (f.sub.toNat % 16) true (atomrArgs f) tag after t w b l x c s) s) ∧
    let sc : Prop := f.sub.toNat % 4 = 3 ∧ ls ≠ []
    let waits : Prop := (s.path t w b).board ≠ [] ∨ (f.sub.toNat / 4 % 2 = 1 ∧ ∃ l ∈ ls, s.laneAcked t w l = false) ∨ (sc ∧ s.scOpen = true)
    (waits → Runs (.vfence f) s (· = s)) ∧ (¬ waits → ¬ sc → Runs (.vfence f) s fun s' => PathSteps s s' t w b) ∧
    (¬ waits → sc → Runs (.vfence f) s fun s' => PathSteps (s.scFence (ls.flatMap fun l => s.writesBefore (.lane t w l))) s' t w b)

/-! ### Lane traps and handlers -/

/-- R158, R417, R421: LTRAP. The lanes with effect park as one fragment of cause 8 with the code, in a free entry of the core's table; with none the path
goes on. -/
def Claims.LaneTrap : Prop :=
  ∀ (s : State) (t w : Nat) (b : Bool), s.onPath t w b → s.goesOn t w b → ∀ f : LaneWord,
    let P := s.path t w b
    let e := s.eff t w b f
    let T := s.team t
    (e = 0 → Runs (.ltrap f) s fun s' => ∃ s1, PathSteps s s1 t w b ∧ s' = s1.settle t) ∧
    (e ≠ 0 → T.handler = false → s.noHandler t = false → s.freeFrags T.die T.core ≠ [] → Runs (.ltrap f) s fun s' =>
      ∃ k ∈ s.freeFrags T.die T.core, ∃ s1 : State, s1 = { s with ctr := s1.ctr, uid := s.uid + 1 } ∧
        let G : Frag := { team := t, warp := w, entry := some k, pc := P.pc, mask := e, cause := 8, addr := f.imm.toNat % 2 ^ 16, join := P.join, at_ := s.now }
        s' = (State.nextIdx { s1.modWarp t w (·.part e) with frags := s.frags.ins (s.uid + 1) G } t w b).settle t) ∧
    (e ≠ 0 → T.handler = false → s.noHandler t = false → s.freeFrags T.die T.core = [] → Runs (.ltrap f) s fun s' =>
      WarpHalted s s' t w { s.warpReport t w 13 8 0 0 with pc := P.pc, lane := true })

/-- R62, R420, R443: the instructions of handler warps raise illegal instruction in any other warp: the lanes of the execution mask park. -/
def Claims.HandlerOnly : Prop :=
  ∀ (s : State) (t w : Nat) (b : Bool), s.onPath t w b → s.goesOn t w b → (s.team t).handler = false → ∀ f : LaneWord,
    ∀ i ∈ [Instr.lkill f, .lresume f, .lorigin f, .voget f, .voput f],
      ((s.path t w b).m0 = 0 → Runs i s fun s' => PathSteps s s' t w b) ∧
      ((s.path t w b).m0 ≠ 0 → Runs i s fun s' =>
        s' = (s.park t w b (((List.range 32).filter fun l => (s.path t w b).m0.getLsbD l).map fun l => { lane := l, code := 0x700, addr := 0 })).1.settle t)

/-- R416, R422 to R424: in a handler warp LORIGIN, VOGET and VOPUT read and write at the origin lanes, here of other warps; LRESUME and LKILL of the last
undecided lane of its fragment make it READY at its resume point, or end its lane, and the deciding lane leaves the handler block. -/
def Claims.OriginLanes : Prop :=
  ∀ (s : State) (t w : Nat) (b : Bool), s.onPath t w b → s.goesOn t w b → (s.team t).handler = true → ∀ f : LaneWord,
    let W := s.warp t w
    let wide := Lane.wide f.ty
    let ls := s.acting t w b f
    ∀ (o : Nat → Origin) (F : Nat → Frag), (∀ l ∈ ls, W.origins[l]? = some (o l) ∧ s.frags.find (o l).frag = some (F l) ∧ (F l).team ≠ t) →
      (let sel := f.sub.toNat % 8
       sel < 5 → Runs (.lorigin f) s fun s' => LaneResult s s' t w b f false fun l =>
        if sel = 0 then (o l).tag else if sel = 1 then (F l).addr % 2 ^ 32 else if sel = 2 then (F l).addr / 2 ^ 32
        else if sel = 3 then (F l).pc * 2 ^ 16 + (if (F l).straddle then 2 ^ 15 else 0) + (if (F l).idle.getLsbD (o l).lane then 2 ^ 8 else 0) + (F l).detail
        else (s.team (F l).team).ref.getD 0) ∧
      ((∀ l ∈ ls, (s.teams.find (F l).team).isSome ∧ (s.warp (F l).team (F l).warp).badV = []) → Runs (.voget f) s fun s' =>
        LaneResult s s' t w b f wide fun l => (s.warp (F l).team (F l).warp).vval wide f.va.toNat (o l).lane) ∧
      ∀ l, ls = [l] →
        Runs (.voput f) s (fun s' => ∃ s1, PathSteps s s1 t w b ∧ s' = s1.modWarp (F l).team (F l).warp fun V =>
          let V := V.setV f.vd.toNat (o l).lane (BitVec.ofNat 32 (W.opb f wide l))
          if wide then V.setV (f.vd.toNat + 1) (o l).lane (BitVec.ofNat 32 (W.opb f wide l / 2 ^ 32)) else V) ∧
        ((o l).settled = false → s.warpLive (F l).team (F l).warp = true → (F l).state = .handling → (F l).decided = [] → (o l).lane < 32 →
          (F l).mask = BitVec.ofNat 32 (2 ^ (o l).lane) → (F l).idle = 0 →
          (let mode := f.sub.toNat % 4
           let p := if mode = 0 then (F l).pc else if mode = 1 then (F l).pc + 1 else (W.vw f.va.toNat l).toNat % 2 ^ 16
           p ≠ 65536 → Runs (.lresume f) s fun s' =>
            (s'.frags.find (o l).frag).map (fun G => (G.state, G.resume, G.mask)) = some (.ready, p, (F l).mask) ∧
            (((s'.warp t w).origins[l]?).map (·.settled)) = some true) ∧
          Runs (.lkill f) s fun s' => s'.frags.find (o l).frag = none ∧ (s'.warp (F l).team (F l).warp).dead.getLsbD (o l).lane = true ∧
            (((s'.warp t w).origins[l]?).map (·.settled)) = some true)

/-- R416, R422 to R424: in a handler warp LORIGIN, VOGET and VOPUT run to the next index, VOGET where no word that it reads is uncorrectable; LRESUME
and LKILL settle the origins of their lanes. -/
def Claims.HandlerLanesGoOn : Prop :=
  ∀ (s : State) (t w : Nat) (b : Bool), s.onPath t w b → s.goesOn t w b → (s.team t).handler = true → ∀ f : LaneWord,
    let on (i : Instr) : Prop := ∃ s', exec i s = .next s' ∧ (s'.path t w b).pc = (s.path t w b).pc + 1
    let settles (i : Instr) : Prop := ∃ s', exec i s = .next s' ∧ ∀ l ∈ s.acting t w b f, ∀ o, (s.warp t w).origins[l]? = some o →
      ((s'.warp t w).origins[l]?).map (·.settled) = some true
    on (.lorigin f) ∧ on (.voput f) ∧ ((∀ l x, s.originLane (s.warp t w) l = some x → (s.warp x.1 x.2.1).badV = []) → on (.voget f)) ∧
      settles (.lresume f) ∧ settles (.lkill f)

/-- R422, R423: a handler lane whose origin fragment has rejoined its warp: LORIGIN gives what the fragment was when the handler warp was formed, and the
TEAMREF of its team; VOGET and VOPUT reach the origin lane's registers as before, while its team exists. -/
def Claims.RejoinedOrigins : Prop :=
  ∀ (s : State) (t w : Nat) (b : Bool), s.onPath t w b → s.goesOn t w b → (s.team t).handler = true → ∀ f : LaneWord,
    let W := s.warp t w
    let wide := Lane.wide f.ty
    let ls := s.acting t w b f
    ∀ o : Nat → Origin, (∀ l ∈ ls, W.origins[l]? = some (o l) ∧ s.frags.find (o l).frag = none ∧ (o l).team ≠ t) →
      (let sel := f.sub.toNat % 8
       sel < 5 → Runs (.lorigin f) s fun s' => LaneResult s s' t w b f false fun l =>
        if sel = 0 then (o l).tag else if sel = 1 then (o l).addr % 2 ^ 32 else if sel = 2 then (o l).addr / 2 ^ 32 else if sel = 3 then (o l).info else (o l).ref) ∧
      ((∀ l ∈ ls, (s.teams.find (o l).team).isSome ∧ (s.warp (o l).team (o l).warp).badV = []) → Runs (.voget f) s fun s' =>
        LaneResult s s' t w b f wide fun l => (s.warp (o l).team (o l).warp).vval wide f.va.toNat (o l).lane) ∧
      ∀ l, ls = [l] → Runs (.voput f) s fun s' => ∃ s1, PathSteps s s1 t w b ∧ s' = s1.modWarp (o l).team (o l).warp fun V =>
        let V := V.setV f.vd.toNat (o l).lane (BitVec.ofNat 32 (W.opb f wide l))
        if wide then V.setV (f.vd.toNat + 1) (o l).lane (BitVec.ofNat 32 (W.opb f wide l / 2 ^ 32)) else V

/-- R416, R422 to R424: what the instructions of handler warps do, and that they complete. All parts, as `Claims.OriginLanes`,
`Claims.RejoinedOrigins` and `Claims.HandlerLanesGoOn` state them. -/
def Obligations.HandlerInstructions : Prop := Claims.OriginLanes ∧ Claims.RejoinedOrigins ∧ Claims.HandlerLanesGoOn

/-- R62, R158, R417, R420, R421, R443: the lane trap, and the instructions that only a handler's team may run. Both parts, as `Claims.LaneTrap` and `Claims.HandlerOnly` state them. -/
def Obligations.LaneTrapsAndHandlerOnly : Prop := Claims.LaneTrap ∧ Claims.HandlerOnly

/-! ### The host (R445 to R448) -/

/-- R445 to R447, R460: a host write through BAR2 that touches no queue state block and no retired group stores its bytes; writes above 192 GiB are discarded; a read
gives the bytes, zero above 192 GiB. A write of ARGi, or of OP with GO, through the register window does what R447 says; completion clears BUSY, gives RESULT, and
raises vector 0, which stays pending while its entry masks it (the MSI-X table's form is PCIe's, log entry 12). Before step 6 of the cold reset no access acts.
Coherence with the die caches is the model's (log entry 33). -/
def Obligations.HostAccesses : Prop :=
  ∀ (s : State) (fn : BitVec 2),
    let d := fn.toNat
    let F := (s.die d).func
    (s.dies.find d).isSome = true →
    (s.link = false → ∀ (off n : Nat) (data : List Byte), Runs (.hostMemoryWrite fn off data) s (· = s) ∧ Runs (.hostMemoryRead fn off n) s (· = s) ∧
      Runs (.hostRegisterWrite fn off data) s (· = s)) ∧
    (s.link = true →
      (∀ (off : Nat) (data : List Byte), s.quiet → (s.die d).retired = [] → off + data.length ≤ 192 * 2 ^ 30 →
        (∀ q ∈ (s.die d).registered, q.1 + 64 ≤ off ∨ off + data.length ≤ q.1) →
        Runs (.hostMemoryWrite fn off data) s fun s' => (∀ i < data.length, s'.byte d (off + i) = data.getD i 0) ∧
          ∀ e a, (e ≠ d ∨ a < off ∨ off + data.length ≤ a) → s'.byte e a = s.byte e a) ∧
      (∀ (off : Nat) (data : List Byte), 192 * 2 ^ 30 ≤ off → Runs (.hostMemoryWrite fn off data) s (· = s)) ∧
      (∀ off n : Nat, s.quiet → (s.die d).poison = [] → (s.die d).retired = [] →
        Runs (.hostMemoryRead fn off n) s (· = s.send (.read ((List.range n).map fun i => if off + i < 192 * 2 ^ 30 then s.byte d (off + i) else 0)))) ∧
      (F.pending = [] → s.reqs = [] →
        (∀ i < 4, ∀ v : Word, Runs (.hostRegisterWrite fn (0x10 + 8 * i) (bytesLE 8 v.toNat)) s fun s' =>
          let G := (s'.die d).func
          G.arg.get i 0 = v ∧ (∀ j, j ≠ i → G.arg.get j 0 = F.arg.get j 0) ∧ { G with arg := F.arg } = F) ∧
        ∀ op : Byte, Runs (.hostRegisterWrite fn 8 [op, 1]) s fun s' => (s'.die d).func =
          if F.busy then { F with op := op.toNat, result := 1 }
          else
            { F with
                op := op.toNat, busy := true, running := op.toNat, taken := (List.range 4).map fun i => F.arg.get i 0
                code := if op = 0 ∨ op.toNat > 9 then some 2 else if op.toNat ∈ [2, 3, 4, 5, 7, 8] ∧ d ≠ 0 then some 3 else none })) ∧
    ∀ c, F.busy = true → F.code = some c → Runs (.commandCompletion fn) s fun s' =>
      let G : Func := { F with busy := false, code := none, result := c }
      if bitOf (F.entry 0) 96 then (s'.die d).func = { G with pending := setIns 0 F.pending } ∧ s'.out = s.out
      else (s'.die d).func = G ∧ s'.out = s.out ++ [.msix d 0]

/-- Function `d` has begun command `op`, and no other command is under way (R447): then the command executes. -/
def commandGoes (s : State) (d op : Nat) : Prop := (s.die d).func.runs op = true ∧ ∀ e, s.cmd = some e → e = d

/-- R447, R448, R457: the commands on frames, clock steps, the power cap, firmware images and dies, each when it goes. A command that finds a bad argument
changes nothing but its result code. The uncorrectable bytes of an image are free (log entry 33); the image checks are Config's. -/
def Claims.DieCommands : Prop :=
  ∀ (s : State) (fn : BitVec 2),
    let d := fn.toNat
    let A (i : Nat) : Nat := (s.die d).func.argN i
    let done (s' : State) : Prop := (s'.die d).func.code = some 0
    (s.dies.find d).isSome = true →
    (commandGoes s d 1 →
      (A 0 % 2 ^ 21 ≠ 0 ∨ A 0 ≥ 192 * 2 ^ 30 ∨ A 1 % 4 = 3 → Runs (.framefmt fn) s (· = s.ran d 2)) ∧
      (A 0 % 2 ^ 21 = 0 → A 0 < 192 * 2 ^ 30 → A 1 % 4 ≠ 3 → Runs (.framefmt fn) s fun s' =>
        done s' ∧ (s'.die d).frameClass (A 0) = A 1 % 4 ∧ (s'.die d).retired = (s.die d).retired ∧
        (∀ k, k ≠ A 0 / 2 ^ 21 → (s'.die d).cls.get k 1 = (s.die d).cls.get k 1) ∧
        ∀ e a, (e ≠ d ∨ a < A 0 ∨ A 0 + 2 ^ 21 ≤ a) → s'.byte e a = s.byte e a)) ∧
    (commandGoes s d 6 → Runs (.cstep fn) s fun s' => done s' ∧ (s'.die d).step = A 0 % 8 ∧ (∀ e, e ≠ d → (s'.die e).step = (s.die e).step) ∧
      s'.teams = s.teams ∧ ∀ e, (s'.die e).mem = (s.die e).mem) ∧
    (commandGoes s d 7 →
      let w := A 0 % 4096
      (w < 1000 ∨ 2600 < w → Runs (.powercap fn) s (· = s.ran d 2)) ∧ (1000 ≤ w → w ≤ 2600 → Runs (.powercap fn) s (· = State.ran { s with cap := w } d 0))) ∧
    (commandGoes s d 8 →
      let img := (s.hostBytes d (A 0) (A 1)).1
      let k := Config.imageKind img % 3
      let B := s.banks.get k {}
      let sound : Prop := Config.imageSigned img = true ∧ B.version ≤ Config.imageVersion img
      (s.banks.find k).isSome = true →
      (s.quiet → (s.die d).poison = [] → (s.die d).retired = [] →
        img = (List.range (A 1)).map fun i => if A 0 + i < 192 * 2 ^ 30 then s.byte d (A 0 + i) else 0) ∧
      (¬sound → Runs (.fwload fn) s fun s' => (s'.die d).func.code = some 4 ∧ (s'.banks.get k {}).active = B.active ∧ (s'.events.getLast?).map (·.code) = some 7) ∧
      (sound → Runs (.fwload fn) s fun s' => done s' ∧
        if k = 0 then (s'.banks.get 0 {}).active = B.active ∧ (s'.banks.get 0 {}).inactive = img ∧ (s'.banks.get 0 {}).staged = true
        else (s'.banks.get k {}).active = img ∧ (s'.banks.get k {}).version = Config.imageVersion img)) ∧
    (commandGoes s d 9 → Runs (.diereset fn) s fun s' =>
      done s' ∧ (s'.die d).func.base = [] ∧ (s'.die d).routes = [] ∧ (s'.die d).keys = [] ∧ (s'.die d).tcache = [] ∧ (s'.die d).filters = [] ∧
      (∀ x ∈ s.teams, x.2.die = d ∨ x.2.origin = d → s'.teams.find x.1 = none) ∧ (s'.node d).entries = [] ∧
      ((s.die d).lines = [] → s.copies = [] → s.netops = [] → ∀ e, (s'.die e).mem = (s.die e).mem)) ∧
    -- a command waits while another one is under way (R447)
    ∀ e, s.cmd = some e → e ≠ d →
      ∀ i ∈ [Instr.framefmt fn, .partset fn, .partstop fn, .partgo fn, .pstate fn, .cstep fn, .powercap fn, .fwload fn, .diereset fn], Runs i s (· = s)

/-- R441, R447, R448, R450: the partition commands, each when it goes. The drain of R441 is that of a package without teams, copies and network operations;
while it is not over PARTSTOP is under way. The form of the exported records is the model's (log entry 12). -/
def Claims.PartitionCommands : Prop :=
  ∀ (s : State) (fn : BitVec 2),
    let d := fn.toNat
    let A (i : Nat) : Nat := (s.die d).func.argN i
    let done (s' : State) : Prop := (s'.die d).func.code = some 0
    (s.dies.find d).isSome = true →
    (commandGoes s d 2 →
      let mask := A 0 % 2 ^ 32
      let p := A 1 % 32
      let first := bits (A 2) 11 0
      let cnt := bits (A 2) 35 24
      let bad : Prop := bits (A 2) 47 36 ≠ 0 ∨ bits (A 2) 23 12 ≠ 0 ∨ first + cnt > 4095
      let held : Prop := (∃ x ∈ s.teams, x.2.phase = .resident ∧ x.2.partition ≠ p ∧ bitOf mask (8 * x.2.die + x.2.core / 8) = true) ∨
        ∃ x ∈ s.partitions, x.1 ≠ p ∧ x.2.clusters ≠ 0 ∧ x.2.first ≤ first + cnt ∧ first ≤ x.2.first + x.2.cnt ∧ shareDie x.2.clusters mask = true
      (bad → Runs (.partset fn) s (· = s.ran d 2)) ∧ (¬bad → held → Runs (.partset fn) s (· = s.ran d 3)) ∧
      (¬bad → ¬held → Runs (.partset fn) s fun s' =>
        let q := s'.partitions.get p {}
        done s' ∧ q.clusters = mask ∧ q.partid = bits (A 2) 63 48 ∧ q.first = first ∧ q.cnt = cnt ∧ s'.teams = s.teams)) ∧
    (commandGoes s d 3 →
      let p := A 1 % 32
      (s.teams = [] → s.copies = [] → s.netops = [] → Runs (.partstop fn) s fun s' => done s' ∧ (s'.partitions.get p {}).stopped = true ∧ s'.teams = [] ∧
        ((s.die d).retired = [] →
          let qs := (List.range 4).flatMap fun e => (s.die e).registered.filterMap fun (q, k) => if k = p then some (q + e) else none
          let h := p + qs.length * 2 ^ 8
          let ws := [h, 2 ^ 64 - 1 - h] ++ qs
          ∀ i < 8 * ws.length, s'.byte d (A 0 + i) = BitVec.ofNat 8 (ws.getD (i / 8) 0 / 2 ^ (8 * (i % 8))))) ∧
      ((s.partitions.get p {}).stopped = true → s.drained (· == p) = false → Runs (.partstop fn) s (· = { s with cmd := some d }))) ∧
    (commandGoes s d 4 →
      let word (i : Nat) : Nat := (s.die d).tableWord (A 0 + 8 * i)
      let p := word 0 % 32
      (word 0 + word 1 ≠ 2 ^ 64 - 1 → Runs (.partgo fn) s (· = s.ran d 2)) ∧
      (word 0 + word 1 = 2 ^ 64 - 1 → s.bundles = [] → Runs (.partgo fn) s fun s' =>
        done s' ∧ ((s.partitions.find p).isSome = true → (s'.partitions.find p).map (·.stopped) = some false) ∧
        -- one record, of a copy that a stop has taken from its queue
        (bits (word 0) 63 32 = 1 → ∀ c,
          let at_ (j : Nat) : Nat := word (2 + bits (word 0) 31 8 + j)
          s.copies.find (at_ 6) = some c → c.exported = true → s.copyPart c = p →
          (s'.copies.find (at_ 6)) = some { c with exported := false, d0 := BitVec.ofNat 64 (at_ 0), d1 := BitVec.ofNat 64 (at_ 1), d2 := BitVec.ofNat 64 (at_ 2),
                                                   d3 := BitVec.ofNat 64 (at_ 3) })))

/-- R447, R452, R455, R460: PSTATE when it goes. PS0 and PS1 are taken at once; PS2 and PS3 wait for the drain of every partition, here of a package without teams,
copies and network operations. Out of PS3 PS2 is no step, and the die steps of R460 need good images; after a thermal shutdown only PS0 leaves PS3, and
is denied while a sensor is hot (R455). What PS3 keeps and its results are the model's (log entry 32). -/
def Claims.PowerCommand : Prop :=
  ∀ (s : State) (fn : BitVec 2),
    let d := fn.toNat
    let k := (s.die d).func.argN 0 % 4
    let done (s' : State) : Prop := (s'.die d).func.code = some 0 ∧ s'.pstate = k ∧ ∀ e, (s'.die e).mem = (s.die e).mem
    (s.dies.find d).isSome = true → commandGoes s d 5 →
    (s.pstate = 3 →
      (k = 3 → Runs (.pstate fn) s (· = s.ran d 0)) ∧ (k = 2 → Runs (.pstate fn) s (· = s.ran d 4)) ∧
      (k ≤ 1 →
        let denied : Prop := s.thermal = true ∧ (k = 1 ∨ s.hot ≠ [])
        (denied → Runs (.pstate fn) s (· = s.ran d 3)) ∧ (¬denied → s.imagesGood = false → Runs (.pstate fn) s (· = s.ran d 4)) ∧
        (¬denied → s.imagesGood = true → Runs (.pstate fn) s fun s' => done s' ∧ s'.teams = s.teams ∧ s'.thermal = false ∧ ∀ x ∈ s'.dies, x.2.up = true))) ∧
    (s.pstate ≠ 3 → (k ≤ 1 → Runs (.pstate fn) s fun s' => done s' ∧ s'.teams = s.teams) ∧
      (k ≥ 2 → s.teams = [] → s.copies = [] → s.netops = [] → s.goal = none → (∀ x ∈ s.dies, x.2.lines = []) → Runs (.pstate fn) s fun s' =>
        done s' ∧ (k = 3 → ∀ e < 4, (s.dies.find e).isSome = true → (s'.die e).up = false)) ∧
      (k ≥ 2 → s.goal = some k → s.drained (fun _ => true) = false → Runs (.pstate fn) s (· = { s with cmd := some d })))

/-- R441, R447, R448, R450, R452, R453, R455, R457, R460: each command, once GO has started it. All parts, as `Claims.DieCommands`, `Claims.PartitionCommands` and
`Claims.PowerCommand` state them. What PS3 and DIERESET lose beyond the rules' words, the form of exported records, and the bytes of an image are the model's
(log entries 12, 13, 32 and 33). -/
def Obligations.HostCommands : Prop := Claims.DieCommands ∧ Claims.PartitionCommands ∧ Claims.PowerCommand

/-! ### The Monel controller (R195, R207, R452 to R460) -/

/-- R453 to R455, R458 to R460, R457, R195, R207: attestation answers (their order, and their content beyond R459's SHA-384 digests, is
SPDM's and Config's, and the form of two items is the model's, log entries 12 and 13);
power, clock and thermal events; cold reset and loss of power; disabled ways and retired groups. A thermal shutdown loses the resident teams, and keeps the others.
Values after a cold reset that no rule gives are log entry 1's; what PS3 keeps is log entry 32's. -/
def Obligations.MonelEvents : Prop :=
  ∀ s : State,
    let B (k : Nat) : Bank := s.banks.get k {}
    let logged (s' : State) (c : Nat) : Prop := (s'.events.getLast?).map (·.code) = some c
    (∀ (msg : List Byte) (n : Nat),
      let exchange (i : Instr) (need next : Nat) (answer : List Byte) : Prop :=
        (s.link = false → Runs i s (· = s)) ∧ (s.link = true → s.spdm < need → Runs i s (· = s.send (.spdm [0x13, 0x7F, 4, 0]))) ∧
        (s.link = true → need ≤ s.spdm → Runs i s (· = State.send { s with spdm := next } (.spdm answer)))
      exchange (.getVersion msg) 0 1 (Config.spdmBody msg) ∧ exchange (.getCapabilities msg) 1 2 (Config.spdmBody msg) ∧
      exchange (.negotiateAlgorithms msg) 2 3 (spdmAlgorithms msg) ∧ exchange (.getDigests msg) 3 3 (Config.spdmBody msg) ∧
      exchange (.getCertificate msg) 3 3 (Config.spdmBody msg) ∧ exchange (.challenge msg) 3 3 (Config.spdmBody msg) ∧
      (∀ k < 3, exchange (.getMeasurements (k + 1)) 3 3 (sha384 (B k).active)) ∧
      exchange (.getMeasurements 4) 3 3 (sha384 ((List.range 3).flatMap fun k => bytesLE 8 (B k).version)) ∧
      (n = 0 ∨ 5 < n → exchange (.getMeasurements n) 3 3 (Config.spdmBody (bytesLE 1 n)))) ∧
    (let monel := if (B 0).staged then (B 0).inactive else (B 0).active
     let other := if (B 0).staged then (B 0).active else (B 0).inactive
     (s.banks.find 0).isSome = true → Runs .coldReset s fun s' =>
      let sound := Config.imageSigned (if Config.imageSigned monel then monel else other) && Config.imageSigned (B 1).active && Config.imageSigned (B 2).active
      s'.teams = [] ∧ s'.bundles = [] ∧ s'.copies = [] ∧ s'.pstate = 0 ∧ s'.link = sound ∧ (∀ x ∈ s'.dies, x.2.up = sound ∧ x.2.func = {} ∧ x.2.queues = []) ∧
      (∀ d, (s'.die d).cls = (s.die d).cls ∧ (s'.die d).retired = (s.die d).retired) ∧ s'.ways = s.ways ∧
      (if Config.imageSigned monel then (s'.banks.get 0 {}).active = monel ∧ s'.events = s.events
       else (s'.banks.get 0 {}).active = other ∧ logged s' 7)) ∧
    Runs .powerLoss s (fun s' => s'.teams = [] ∧ s'.link = false ∧ (∀ x ∈ s'.dies, x.2.up = false) ∧ s'.events = s.events ∧
      (∀ d, (s'.die d).cls = (s.die d).cls ∧ (s'.die d).retired = (s.die d).retired) ∧
      ∀ k, (s'.banks.get k {}).active = (B k).active ∧ (s'.banks.get k {}).version = (B k).version) ∧
    (∀ w : Nat,
      (s.cap < w → Runs (.powerMeasurement w) s fun s' =>
        (∀ d, (s.dies.find d).isSome = true → (s'.die d).capStep = min ((s.die d).capStep + 1) 7) ∧ s'.teams = s.teams ∧
        ((∃ x ∈ s.dies, x.2.capStep < 7) → logged s' 5)) ∧
      (w ≤ s.cap → 95 * s.cap ≤ 100 * w → Runs (.powerMeasurement w) s (· = { s with below := none })) ∧
      (w ≤ s.cap → 100 * w < 95 * s.cap → ∀ t, s.below = some t →
        (s.now < t + 1750000 → Runs (.powerMeasurement w) s (· = s)) ∧
        (t + 1750000 ≤ s.now → Runs (.powerMeasurement w) s fun s' =>
          (∀ d, (s.dies.find d).isSome = true → (s'.die d).capStep = (s.die d).capStep - 1) ∧ s'.teams = s.teams ∧
          ((∃ x ∈ s.dies, 0 < x.2.capStep) → logged s' 5)))) ∧
    (∀ d, (s.dies.find d).isSome = true →
      let D := s.die d
      (∀ t, D.change = some t →
        (s.now < t + 35000 → Runs (.clockStepChangeDone d) s (· = s)) ∧
        (t + 35000 ≤ s.now → Runs (.clockStepChangeDone d) s fun s' =>
          (s'.die d).eff = max (max D.step (if s.pstate = 1 then 7 else 0)) (max D.capStep (if D.trip then 7 else 0)) ∧ (s'.die d).change = none ∧ s'.teams = s.teams)) ∧
      (d < 4 → Runs (.thermalTrip d) s fun s' =>
        (s'.die d).trip = true ∧ (s'.die d).step = D.step ∧ logged s' 4 ∧ s'.teams = s.teams ∧
        (D.step < 8 → D.capStep < 8 → (s'.die d).change.isSome = true ∨ D.eff = 7)) ∧
      (Runs (.thermalTripEnd d) s fun s' => (s'.die d).trip = false ∧ (s'.die d).step = D.step ∧ s'.teams = s.teams ∧ s'.events = s.events) ∧
      (Runs (.thermalShutdown d) s fun s' =>
        s'.pstate = 3 ∧ s'.thermal = true ∧ logged s' 4 ∧ (d < 4 → (s'.die d).up = false) ∧
        (∀ x ∈ s.teams, x.2.die < 4 → x.2.phase = .resident → s'.teams.find x.1 = none) ∧
        (∀ t, (∀ x ∈ s.teams, x.1 = t → x.2.phase ≠ .resident) → (s'.teams.find t).isSome = (s.teams.find t).isSome) ∧
        ((s.dies.find 0).isSome = true → if bitOf ((s.die 0).func.entry 1) 96 then 1 ∈ (s'.die 0).func.pending else s'.out.getLast? = some (.msix 0 1))) ∧
      ∀ frame group, let k := frame * 2048 + group
        let due : Prop := k ∈ D.detected ∨ s.worn (memStruct d) k 0 = true
        (k ∈ D.retired ∨ ¬ due → Runs (.groupRetire d frame group) s (· = s)) ∧
        (k ∉ D.retired → due → Runs (.groupRetire d frame group) s fun s' =>
          (∀ j, j ∈ (s'.die d).retired ↔ j = k ∨ j ∈ D.retired) ∧ (s'.die d).mem = D.mem ∧ logged s' 3)) ∧
    ∀ x set way,
      let due : Prop := x / 65536 ≤ 2 ∧ s.worn x set way = true ∧ (x, set, way) ∉ s.ways
      (¬ due → Runs (.wayDisable x set way) s (· = s)) ∧
      (due → Runs (.wayDisable x set way) s fun s' => (x, set, way) ∈ s'.ways ∧ (∀ y ∈ s.ways, y ∈ s'.ways) ∧ (∀ d, (s'.die d).mem = (s.die d).mem) ∧
        s'.teams = s.teams ∧ logged s' 2 ∧
        (x / 65536 = 1 → ∀ l ∈ (s'.die (x % 65536 / 16)).lines, ¬ (l.struct = x ∧ l.set = set ∧ l.way = way)))

/-! ### Firmware, ticks and migration (R380, R393, R395, R402 to R404) -/

/-- R380, R393, R395, R402 to R404: the events of firmware cores and of the die's clocks. Each acts when its time has come, and before that changes nothing.
Readings of the tick and of a restart are the model's (log entry 28). -/
def Obligations.FirmwareEvents : Prop :=
  ∀ (s : State) (d : Nat), (s.dies.find d).isSome = true →
    let D := s.die d
    (∀ c : Nat,
      let F := D.fw.get c {}
      let restarts (s' : State) : Prop :=
        (((s'.die d).fw.get c {}).restarting = true ∧ (s'.events.getLast?).map (·.code) = some 6 ∧ s'.teams = s.teams ∧ s'.bundles = s.bundles ∧
          (s'.die d).queues = D.queues ∧ ∀ k, k ≠ c → (s'.die d).fw.get k {} = D.fw.get k {})
      (F.restarting = true → Runs (.watchdogKick d c) s (· = s) ∧ Runs (.watchdogExpiry d c) s (· = s)) ∧
      (F.restarting = false →
        (s.now < F.kick + 3500000 ∨ F.kick + 17500000 < s.now → Runs (.watchdogKick d c) s restarts) ∧
        (F.kick + 3500000 ≤ s.now → s.now ≤ F.kick + 17500000 → Runs (.watchdogKick d c) s fun s' =>
          (s'.die d).fw.get c {} = { F with kick := s.now } ∧ s'.events = s.events ∧ s'.teams = s.teams) ∧
        (s.now < F.kick + 17500000 → Runs (.watchdogExpiry d c) s (· = s)) ∧
        (F.kick + 17500000 ≤ s.now → Runs (.watchdogExpiry d c) s restarts) ∧
        Runs (.firmwareTablesRebuilt d c) s (· = s)) ∧
      (F.restarting = true → Runs (.firmwareTablesRebuilt d c) s fun s' =>
        let G := (s'.die d).fw.get c {}
        G.restarting = false ∧ G.kick = s.now ∧ G.inbox = [] ∧ s'.bundles = s.bundles ∧ (s'.die d).queues = D.queues ∧ (c ≠ 0 → s'.teams = s.teams) ∧
        (c = 0 → (∀ k, ((s'.die d).fw.get k {}).outbox = []) ∧ (s'.die d).ticks = max D.ticks (s.now / 175000) ∧
          ∀ t, (∀ x ∈ s.teams, x.1 = t → x.2.hint = none ∨ x.2.phase ≠ .away ∨ x.2.die ≠ d) → s'.team t = s.team t) ∧
        ((d, c) ∈ s.updating → c < 8 → ((s'.die d).fw.get (c + 1) {}).restarting = true))) ∧
    (∀ leaf msg : Nat,
      let F := D.fw.get (1 + leaf) {}
      (F.restarting = false ∨ 64 ≤ F.inbox.length → Runs (.commandLinkMessage d leaf true msg) s (· = s)) ∧
      (F.restarting = true → F.inbox.length < 64 → Runs (.commandLinkMessage d leaf true msg) s fun s' =>
        (s'.die d).fw.get (1 + leaf) {} = { F with inbox := F.inbox ++ [msg] } ∧ s'.teams = s.teams) ∧
      ((D.fw.get 0 {}).restarting = true → F.outbox.length < 64 → Runs (.commandLinkMessage d leaf false msg) s fun s' =>
        (s'.die d).fw.get (1 + leaf) {} = { F with outbox := F.outbox ++ [msg] } ∧ s'.teams = s.teams)) ∧
    (s.tickDue d = false → Runs (.mappingTick d) s (· = s)) ∧
    (s.tickDue d = true → Runs (.mappingTick d) s fun s' =>
      (s'.die d).ticks = D.ticks + 1 ∧ (s'.die d).fifo = [] ∧ (s'.die d).overflow = false ∧
      (∀ q ∈ D.registered, qWork (D.qsb q.1) = false → (s'.queue d q.1).mapped = false) ∧
      (Map.Sorted D.queues = true → ∀ q, (∀ x ∈ D.registered, x.1 ≠ q) → (s'.queue d q).mapped = false) ∧
      (D.queues = [] → D.registered.length ≤ 128 → ∀ q ∈ D.registered, (s'.queue d q.1).mapped = qWork (D.qsb q.1))) ∧
    (s.now < (D.windows + 1) * 17500 → Runs (.shareWindowEnd d) s (· = s)) ∧
    ((D.windows + 1) * 17500 ≤ s.now → (∀ q ∈ D.queues, ∀ x ∈ D.registered, x.1 ≠ q.1) → Runs (.shareWindowEnd d) s fun s' =>
      (s'.die d).windows = D.windows + 1 ∧ (s'.die d).queues = D.queues ∧ ∀ e a, s'.byte e a = s.byte e a) ∧
    ((D.windows + 1) * 17500 ≤ s.now → ∀ q Q, D.queues = [(q, Q)] → (∃ x ∈ D.registered, x.1 = q) → s.quiet → D.retired = [] → Runs (.shareWindowEnd d) s fun s' =>
      let S := qShare (D.qsb q)
      (s'.die d).windows = D.windows + 1 ∧ (s'.queue d q).bytes = 0 ∧
      ((s'.queue d q).overshare = true ↔ S ≠ 0 ∧ S * 35000 < Q.bytes) ∧ s.storedAt s' d (q + 52) 4 (min Q.bytes (2 ^ 32 - 1))) ∧
    (s.now < (D.adverts + 1) * 175000 → Runs (.slotAdvertise d) s (· = s)) ∧
    ((D.adverts + 1) * 175000 ≤ s.now → Runs (.slotAdvertise d) s fun s' => (s'.die d).adverts = D.adverts + 1 ∧
      ∀ e, e ≠ d → (s.dies.find e).isSome = true → (s'.die e).free.get d 0 = 512 - (s.teams.filter fun x => x.2.phase == .resident && x.2.die == d).length) ∧
    ∀ t : Nat,
      let T := s.team t
      (s.maySend t d = true → T.migrate = true ∧ T.phase ≠ .resident ∧ d ≠ T.die) ∧
      (s.maySend t d = false → Runs (.migrationSend t d) s (· = s)) ∧
      (s.maySend t d = true → (s.teams.find t).isSome = true → Runs (.migrationSend t d) s fun s' =>
        s'.team t = { T with die := d, ready := some s.now, preempted := none } ∧ ∀ u, u ≠ t → s'.team u = s.team u)

/-! ### Bundles and teams (R79, R377, R382 to R392, R426, R431 to R433) -/

/-- R79, R375, R377, R382, R385, R388 to R392, R426, R432: the life of a bundle and of its teams.
Readings of R380 and R372 are log entries 28 and 31. -/
def Obligations.TeamLife : Prop :=
  ∀ s : State,
    (∀ d q : Nat, s.mayStart d q = false → Runs (.bundleStart d q) s (· = s)) ∧
    (∀ d q w s1,
      let x := (s.die d).qsb q
      s.mayStart d q = true → s.bundles = [] → s.teams = [] → (∀ i < 64, (s.die d).poisoned (q + i) = false) →
      s.partRead (.start d q) (d * 4096 + qAsid x) (recordVas (qSlotVa x (qHead x))) = (some (some w), s1) →
      (recordOk w (qPmgr x) = false → w.getD 1 0 = 0 → Runs (.bundleStart d q) s fun s' =>
        let y := (s'.die d).qsb q
        s'.bundles = [] ∧ s'.teams = [] ∧ qHead y = (qHead x + 1) % 2 ^ 32 ∧ qTail y = qTail x ∧
        bits y 383 320 = (bits x 383 320 + 1) % 2 ^ 64 ∧ bits y 415 384 = (bits x 415 384 + 1) % 2 ^ 32) ∧
      (recordOk w (qPmgr x) = true → w.getD 0 0 % 8 = 1 → w.getD 8 0 % 4 = 0 → w.getD 8 0 / 4 % 8 = 0 → Runs (.bundleStart d q) s fun s' =>
        let g (hi lo : Nat) : Nat := bits (w.getD 13 0) hi lo
        s'.teams.length = g 15 0 * g 31 16 * g 47 32 ∧
        (∀ i < g 15 0 * g 31 16 * g 47 32, ∃ t T, s'.teams.find t = some T ∧ T.phase = .waiting ∧ T.ready = some s.now ∧ T.teamid = i ∧
          T.xyz = i % g 15 0 + i / g 15 0 % g 31 16 * 2 ^ 16 + i / (g 15 0 * g 31 16) * 2 ^ 32 ∧ T.grid = w.getD 13 0 ∧ T.origin = d ∧ T.asid = qAsid x ∧
          T.prio = qPrio x ∧ T.sentry = w.getD 9 0 ∧ T.mentry = w.getD 10 0 ∧ T.lanebase = w.getD 11 0 ∧ T.args = BitVec.ofNat 64 (w.getD 12 0)) ∧
        ∃ b B, s'.bundles = [(b, B)] ∧ B.user = w.getD 2 0 ∧ B.compl = w.getD 1 0 ∧ B.status = none)) ∧
    (∀ t c : Nat,
      let T := s.team t
      (s.mayPlace t c = false ∨ T.phase ≠ .waiting → Runs (.teamPlace t c) s (· = s)) ∧
      (s.mayPlace t c = true → T.phase = .waiting → T.handler = false → Runs (.teamPlace t c) s fun s' =>
        let U := s'.team t
        U.phase = .resident ∧ U.core = c ∧ U.ref.isSome = true ∧ U.warps.length = T.nwarps ∧ (∀ u, u ≠ t → s'.team u = s.team u) ∧ s'.dies = s.dies ∧
        (∀ w < T.nwarps, let W := s'.warp t w
          W.life = .running ∧ W.spc = BitVec.ofNat 64 T.sentry ∧ W.stream = T.stag ∧ W.queue = [] ∧ W.dead = 0 ∧ W.v = [] ∧ W.m = [] ∧
          ∀ r, W.s.get r 0 = if r = 1 then T.args else 0) ∧
        (T.shadow = true → ∀ w < T.nwarps, U.trailers.find w = some { spc := BitVec.ofNat 64 T.sentry, s := Map.put [] 0 1 T.args }) ∧
        U.seq.life = .running ∧ (U.seq.idle = true ↔ T.mentry = 0) ∧ U.seq.pc = BitVec.ofNat 64 T.mentry ∧ U.seq.stream = T.stag ∧
        ∀ r, U.seq.t.get r 0 = if r = 1 then T.args else 0) ∧
      (s.mayPlace t c = false ∨ T.phase ≠ .away → Runs (.teamRestore t c) s (· = s)) ∧
      (s.mayPlace t c = true → T.phase = .away → T.slots = [] → T.log = [] → T.saved = [] → Runs (.teamRestore t c) s fun s' =>
        let U := s'.team t
        U.phase = .resident ∧ U.core = c ∧ U.frozen = false ∧ U.mq = T.replay ∧ U.tiles = T.tiles ∧ U.sp = T.sp ∧ U.seq = T.seq ∧
        ∀ w, (s'.warp t w).spc = (s.warp t w).spc ∧ (s'.warp t w).v = (s.warp t w).v) ∧
      (s.starved t = false → Runs (.preemptWaitExpiry t) s (· = s)) ∧
      (s.starved t = true → T.handler = false → ((s.die T.die).fw.get 0 {}).restarting = false →
        ((∀ x ∈ s.teams, x.2.phase = .resident → x.2.leaving = false → x.2.die = T.die → T.prio ≤ x.2.prio) → Runs (.preemptWaitExpiry t) s (· = s)) ∧
        ((∃ x ∈ s.teams, x.2.phase = .resident ∧ x.2.leaving = false ∧ x.2.die = T.die ∧ x.2.prio < T.prio) → (s.teams.map (·.1)).Nodup →
          Runs (.preemptWaitExpiry t) s fun s' => ∃ x ∈ s.teams, x.2.phase = .resident ∧ x.2.leaving = false ∧ x.2.die = T.die ∧ x.2.prio < T.prio ∧
            (∀ y ∈ s.teams, y.2.phase = .resident → y.2.leaving = false → y.2.die = T.die → x.2.prio ≤ y.2.prio) ∧
            (s'.team t).preempted = some s.now ∧ ((s'.team x.1).leaving = true ∨ (s'.team x.1).phase = .away)))) ∧
    (∀ t T, s.teams.find t = some T → T.handler = false →
      (s.teamDone t = false → Runs (.teamComplete t) s (· = s)) ∧
      (s.teamDone t = true → ∀ B, s.bundles.find T.bundle = some B →
        let dead := (T.warps.map fun x => count x.2.dead).sum
        let bad : Prop := T.faulted = true ∨ T.halt = true ∨ ∃ x ∈ T.warps, x.2.life = .halted
        (bad → Runs (.teamComplete t) s fun s' => s'.teams.find t = none ∧ s'.ended.find t = some T ∧ (s'.bundle T.bundle).halted = B.halted + 1 ∧
          (s'.bundle T.bundle).lostlanes = B.lostlanes + dead ∧ (s'.bundle T.bundle).lostwr = B.lostwr + T.lost) ∧
        (¬bad → (∀ u, B.subs[T.subidx]? = some u → u.bitmap = 0) → Runs (.teamComplete t) s fun s' => s'.teams.find t = none ∧ s'.ended.find t = some T ∧
          (s'.bundle T.bundle).halted = B.halted ∧ (s'.bundle T.bundle).lostlanes = B.lostlanes + dead ∧ (s'.bundle T.bundle).lostwr = B.lostwr + T.lost))) ∧
    (∀ b B, s.bundles.find b = some B →
      (s.bundleDone b = false → Runs (.bundleRetire b) s (· = s)) ∧
      (s.bundleDone b = true → s.bundles = [(b, B)] → s.teams = [] → B.status = none → B.compl = 0 → B.bad = false → B.index = qHead ((s.die B.die).qsb B.qsb) →
        (∀ i < 64, (s.die B.die).poisoned (B.qsb + i) = false) → (s.dies.find B.die).isSome = true → Runs (.bundleRetire b) s fun s' =>
          let x := (s.die B.die).qsb B.qsb
          let y := (s'.die B.die).qsb B.qsb
          s'.bundles = [] ∧ qHead y = (qHead x + 1) % 2 ^ 32 ∧ bits y 383 320 = (bits x 383 320 + 1) % 2 ^ 64 ∧
          bits y 415 384 = (bits x 415 384 + if B.halted ≠ 0 ∨ B.copyfail = true then 1 else 0) % 2 ^ 32)) ∧
    ∀ t w, s.onWarp t w →
      ((s.team t).handler = false → Runs .tret s fun s' => WarpHalted s s' t w (s.warpReport t w 7 0 0 0)) ∧
      ((s.team t).handler = true → (s.warp t w).queue ≠ [] → Runs .tret s (· = s)) ∧
      ((s.team t).handler = true → (s.warp t w).queue = [] →
        let os := (s.warp t w).origins
        let open_ (o : Origin) : Prop := o.settled = false ∧ s.fragLive o.frag = true
        Runs .tret s fun s' =>
          (s'.warp t w).life = .ended ∧ (∀ r, (s'.warp t w).s.get r 0 = (s.warp t w).s.get r 0) ∧
          ((∀ o ∈ os, ¬open_ o) → s'.frags = s.frags ∧ ∀ u x, (s'.warp u x).dead = (s.warp u x).dead) ∧
          (os.length ≤ 32 → (∀ o ∈ os, open_ o → let F := s.frag o.frag
              ((s.team F.team).warps.find F.warp).isSome = true ∧ F.mask.getLsbD o.lane = true ∧ ∀ d ∈ F.decided, d.1 ≠ o.lane) →
            ∀ o ∈ os, open_ o →
              let F := s.frag o.frag
              let V := s'.warp F.team F.warp
              V.dead.getLsbD o.lane = true ∧
              ((s.warp F.team F.warp).dead.getLsbD o.lane = false →
                (∀ k G, s.frags.find k = some G → G.team = F.team → G.warp = F.warp → G.mask.getLsbD o.lane = true → k = o.frag) → V.deaths.get o.lane 0 = 5)))

/-! ### Events of warps, pages and engines (R93, R107, R139, R149, R159, R182, R199, R201, R232, R238, R418) -/

/-- R93, R107, R138, R139, R149, R160, R182, R199, R201, R417 to R419: what happens to lane streams and their pages between instructions.
Gathering order and cold lines are the model's (log entries 17 and 29). -/
def Obligations.LaneEvents : Prop :=
  ∀ s : State,
    (∀ t w : Nat,
      let W := s.warp t w
      let T := s.team t
      let cy := (s.die T.die).cycles
      (W.queue = [] ∨ W.life ≠ .running ∨ W.started = true ∨ T.phase ≠ .resident → Runs (.laneBlockStart t w) s (· = s)) ∧
      (∀ k r, W.queue = k :: r → W.life = .running → W.started = false → T.phase = .resident →
        (W.dead ≠ ~~~0 → Runs (.laneBlockStart t w) s fun s' =>
          let V := s'.warp t w
          V.a = some { pc := k.start, m0 := ~~~W.dead, mem := ~~~W.dead, issued := s.now } ∧ V.b = none ∧ V.stack = [] ∧ V.detached = 0 ∧ V.arrived = 0 ∧
          V.started = true ∧ V.queue = W.queue ∧ V.v = W.v ∧ V.m = W.m ∧ V.s = W.s) ∧
        (W.dead = ~~~0 → W.midway = false → Runs (.laneBlockStart t w) s fun s' => (s'.warp t w).queue = r ∧ (s'.warp t w).started = false)) ∧
      (∀ b : Bool,
        ((W.path b).isSome = true → Runs (.slotTakesWork t w b) s (· = s)) ∧
        (W.path b = none → W.life = .running → W.started = true → T.phase = .resident →
          (∀ p st, takePart W.stack = some (p, st) → Runs (.slotTakesWork t w b) s fun s' =>
            s' = s.modWarp t w fun V => { V with stack := st }.setPath b (some { p with issued := s.now })) ∧
          (∀ k, takePart W.stack = none → s.readyFrag t w = some k → Runs (.slotTakesWork t w b) s fun s' =>
            let F := s.frag k
            s'.frags.find k = none ∧ (s'.warp t w).path b = some
              { pc := F.resume, m0 := F.mask &&& ~~~F.idle &&& ~~~W.dead, mem := F.mask &&& ~~~W.dead, join := F.join, issued := s.now }) ∧
          (takePart W.stack = none → s.readyFrag t w = none → Runs (.slotTakesWork t w b) s (· = s))) ∧
        (W.path b = none → Runs (.loadDataReturn t w b) s (· = s)) ∧
        ∀ p l r v ln, W.path b = some p → p.board = [{ lane := l, req := none, regs := [(r, v)], line := ln }] → l < 32 → Runs (.loadDataReturn t w b) s fun s' =>
          (∀ k < 32, ∀ q, (s'.warp t w).vw q k = if q = r ∧ k = l then v else W.vw q k) ∧ (s'.warp t w).path b = some { p with board := [] } ∧
          (s'.warp t w).path (!b) = W.path (!b) ∧ (s'.warp t w).s = W.s ∧ (s'.warp t w).m = W.m) ∧
      (∀ v, (v ∉ W.cold → Runs (.regcacheFillDone t w v) s (· = s)) ∧
        (v ∈ W.cold → Runs (.regcacheFillDone t w v) s fun s' => v ∉ (s'.warp t w).cold ∧
          (∀ u x, (s'.warp u x).v = (s.warp u x).v ∧ (s'.warp u x).s = (s.warp u x).s ∧ (s'.warp u x).m = (s.warp u x).m) ∧ s'.dies = s.dies)) ∧
      (∀ id, (∀ j e ar o dl k, Entry.join id j e ar o (some dl) k ∈ W.stack → cy < dl) → Runs (.joinExpiry t w id) s (· = s)) ∧
      ∀ id j e ar o dl k, W.stack = [.join id j e ar o (some dl) k] → dl ≤ cy → s.warpLive t w = true → T.phase = .resident → W.a = none → ar ≠ 0 → k < 8 →
        ~~~W.dead &&& ~~~W.arrived ≠ 0 → Runs (.joinExpiry t w id) s fun s' =>
          let V := s'.warp t w
          V.a = some { pc := j + 1, m0 := ar, mem := ar } ∧ V.stack = [] ∧ V.detached = W.detached ||| e ∧
          ∀ i, 1 ≤ i → i < 8 → V.m.get i 0 = if i = k then W.m.get i 0 ||| ar else W.m.get i 0) ∧
    (∀ d asid page : Nat,
      let sp := d * 4096 + asid
      let r := walk (s.die d) sp (page * 4096) (s.txn sp (page * 4096))
      (r = .error cABSENT → Runs (.demandPageResolved d asid page) s (· = s)) ∧
      (r ≠ .error cABSENT → (∀ x ∈ s.teams, x.2.seq.restart = none) → Runs (.demandPageResolved d asid page) s fun s' =>
        s'.dies = s.dies ∧ (∀ t w, (s.warp t w).wait = .absent sp page → (s'.warp t w).wait = .none) ∧
        (∀ t w, (s'.warp t w).s = (s.warp t w).s ∧ (s'.warp t w).v = (s.warp t w).v ∧ (s'.warp t w).spc = (s.warp t w).spc) ∧
        (∀ k F, s.frags.find k = some F → F.state = .parked → (F.cause = 1 ∨ F.cause = 11) → F.detail = 1 → F.addr / 4096 = page → (s.team F.team).space = sp →
          s'.frags.find k = some (if s.fragLive k && s.leafRuns F then { F with state := .ready, resume := F.pc } else F)) ∧
        ∀ k c, s.copies.find k = some c → c.die = d → c.asid = asid → c.absent = some page → s'.copies.find k = some { c with absent := none })) ∧
    (∀ d core asid va store,
      Runs (.translationReply d core asid va store) s fun s' =>
        let mine (a : Ask) : Prop := a.space % 4096 = asid ∧ a.page = va / 4096 ∧ a.store = store
        (∀ x ∈ s'.teams, x.2.die = d → x.2.core = core → ∀ a ∈ x.2.allAsks, mine a → a.answer.isSome = true) ∧
        (∀ t w, (s'.warp t w).s = (s.warp t w).s ∧ (s'.warp t w).v = (s.warp t w).v ∧ (s'.warp t w).spc = (s.warp t w).spc) ∧
        ∀ sp, (∀ x ∈ s.teams, x.2.die = d → x.2.core = core → ∀ a ∈ x.2.allAsks, mine a → a.space = sp ∧ a.answer = none) →
          ∀ x ∈ s'.teams, x.2.die = d → x.2.core = core → ∀ a ∈ x.2.allAsks, mine a →
            a.answer = some (match (s.translate sp (va / 4096 * 4096 + 128 * (va / 128 % 4))).1 with | .ok _ => 0 | .error e => e)) ∧
    ∀ d c : Nat,
      let R := ((s.die d).fw.get (1 + c) {}).restarting
      (R = true ∨ s.dueSpaces d c = [] → Runs (.handlerGatherTimeout d c) s (· = s)) ∧
      ∀ sp, R = false → s.dueSpaces d c = [sp] →
        let vec := ((s.die (sp / 4096)).space.get (sp % 4096 * 64) 0).toNat
        let die_ (s' : State) : Prop := (∀ f ∈ s.waitingFrags d c sp, ((s.team (s.frag f).team).warps.find (s.frag f).warp).isSome = true) →
          ∀ f ∈ s.waitingFrags d c sp, (s.frag f).mask &&& ~~~(s'.warp (s.frag f).team (s.frag f).warp).dead = 0
        let read := (s.partRead (.gather d c sp) sp [vec, vec + 8, vec + 16]).1
        (vec = 0 → Runs (.handlerGatherTimeout d c) s fun s' => die_ s' ∧ s'.events = s.events) ∧
        (vec ≠ 0 → read = none → Runs (.handlerGatherTimeout d c) s (·.frags = s.frags)) ∧
        (vec ≠ 0 → read = some none → Runs (.handlerGatherTimeout d c) s fun s' => die_ s' ∧ (s'.events.getLast?).map (·.data) = some vec) ∧
        ∀ e l a, vec ≠ 0 → read = some (some [e, l, a]) →
        (e = 0 → Runs (.handlerGatherTimeout d c) s die_) ∧
        (e ≠ 0 → Runs (.handlerGatherTimeout d c) s fun s' =>
          (∃ T, s'.teams.find (s.uid + 1) = some T ∧ T.handler = true ∧ T.prio = 255 ∧ T.phase = .waiting ∧ T.sentry = e ∧ T.lanebase = l ∧
            T.args = BitVec.ofNat 64 a ∧ T.die = d ∧ T.core / 8 = c) ∧
          ∀ f ∈ s.takeFrags 32 (s.waitingFrags d c sp), (s'.frags.find f).map (·.state) = some .handling)

/-- R238, R244: the pieces of a copy. Each lies within one line of its destination and one of its source, at the same offset of both; together they hold
every byte, of each row for CPY2. -/
def Claims.CopyPieces : Prop :=
  ∀ c : Copy,
    (c.kind = 0 ∨ c.kind = 5 →
      (∀ m, let p := c.piece m
        p.len ≠ 0 → p.src = c.d0.toNat + p.off ∧ p.dst = c.d1.toNat + p.off ∧ p.off + p.len ≤ c.len ∧
          p.src / 128 = (p.src + p.len - 1) / 128 ∧ p.dst / 128 = (p.dst + p.len - 1) / 128) ∧
      ∀ i < c.len, ∃ m < c.chunks, (c.piece m).off ≤ i ∧ i < (c.piece m).off + (c.piece m).len) ∧
    (c.kind = 1 →
      let w (x : Word) (h l : Nat) : Nat := x.toNat / 2 ^ l % 2 ^ (h + 1 - l)
      ∀ r < w c.d3 63 48, ∀ i < w c.d3 47 24, ∃ m < c.chunks, let p := c.piece m
        p.off ≤ i ∧ i < p.off + p.len ∧ p.src = c.d0.toNat + r * w c.d2 31 0 + p.off ∧ p.dst = c.d1.toNat + r * w c.d2 63 32 + p.off)

/-- Copy `k` waits for the absent page of an address, or fails with the cause of R248 and the address (R239). -/
def CopyStops (s s' : State) (k code addr : Nat) : Prop :=
  let c := s.copy k
  if code = 0x101 then s'.copies.find k = some { c with absent := some (addr / 4096) }
  else (s'.copies.find k).map (fun y => (y.state, y.cause, y.fault, y.left, y.bytes)) = some (.failed, causeOf code, addr, [], c.bytes) ∧
    (s'.events.getLast?).map (·.code) = some 12

/-- Chunk `m` of copy `k` has made a request of `n` bytes at the window address `x` under an import entry (R322, R337). -/
def CopyAsks (s s' : State) (k m x e n : Nat) (ty : TwillType) (bs : List Byte) : Prop :=
  let c := s.copy k
  (∃ r, s'.reqs.find (s.uid + 1) = some r ∧ r.owner = .copy k m ∧ r.addr = x ∧ r.packet.type = ty ∧ r.packet.dpkg = e / 2 ^ 52 % 2 ^ 12 ∧
    r.packet.dsock = e / 2 ^ 50 % 4 ∧ r.packet.exp = e / 2 ^ 34 % 2 ^ 16 ∧ r.packet.egen = e / 2 ^ 18 % 2 ^ 16 ∧ r.packet.offset = x % 2 ^ 32 ∧
    r.packet.len = n ∧ r.packet.data = bs ∧ r.packet.ord = (c.ord && isWrite ty)) ∧
  (∀ j, j ≠ s.uid + 1 → s'.reqs.find j = s.reqs.find j) ∧
  (s'.copies.find k).map (fun y => (y.left, y.reqs, y.bytes)) = some ([], c.reqs ++ [s.uid + 1], c.bytes)

/-- Chunk `m` of copy `k`, its last, has had its bytes written where its destination says (R239, R240, R243, R244): in the team's scratchpad; in memory,
here on an alias page; by a remote write; or the check of the destination stops the copy. `conf` says that they come from a page with C = 1. -/
def ChunkLands (s s' : State) (k m : Nat) (conf : Bool) (bs : List Byte) : Prop :=
  let c := s.copy k
  let p := c.piece m
  let x := if c.kind = 5 then c.peer p.dst else p.dst
  let moved : Prop := s'.copies.find k = some { c with left := [], bytes := c.bytes + p.len }
  s.overlaps c (c.dstSp && c.kind != 5) x p.len = [] →
  (c.dstSp = true → c.kind ≠ 5 → ∀ t, c.team = some t → (s.teams.find t).isSome = true → (s.team t).mOps = [] → (s.team t).spBad = [] →
    (p.dst + p.len ≤ (s.team t).spad →
      (∀ i < p.len, s'.spByte t (p.dst + i) = bs.getD i 0) ∧ (∀ a, (a < p.dst ∨ p.dst + p.len ≤ a) → s'.spByte t a = s.spByte t a) ∧ moved ∧ s'.dies = s.dies) ∧
    ((s.team t).spad < p.dst + p.len → CopyStops s s' k 0x203 p.dst)) ∧
  (c.dstSp = false ∨ c.kind = 5 → (c.kind = 5 → p.dst + p.len ≤ 2 ^ 32) →
    (∀ page pa s1, PartReaches s c.space x p.len .write page pa s1 → StoredGlobal s s' c.die c.space x pa p.len (natLE bs) ∧ moved) ∧
    (∀ e s1 s2, s.quiet → s.checkNow c.space x 1 .write = (.remote e, s1) → s1.importCheck c.space x p.len .write = (none, e, s2) →
      (conf = true → c.kind = 5 → e / 2 ^ 52 % 2 ^ 12 = s.pkg ∨ (e / 2 ^ 112 % 2 ^ 16, e / 2 ^ 52 % 2 ^ 12) ∈ s.keys) → CopyAsks s s' k m x e p.len .write bs) ∧
    ∀ code a s1, s.checkNow c.space x 1 .write = (.fail code a, s1) → CopyStops s s' k code a)

/-- The F32 value of an element that CPYX reads (R202): of an integer with its block's scale, or of a 16-bit float. -/
def elemBits (fmt : Nat) : Elem → Nat
  | .val sig e8 _ _ => f32.enc 0 (blockVal sig e8 (if fmt = 2 then 4 else 8))
  | .wide x => f32.enc 0 ((if fmt = 3 then f16 else bf16).dec x)
  | _ => 0

/-- R239, R240, R244: the last chunk of a copy that has no arrival word, sub-launch or phaser. CPYFILL writes its pattern; CPY, CPY2 and CPYR write the bytes of
their source, of a scratchpad or of memory, or ask them of a peer; CPYX writes the F32 values of its elements. -/
def Claims.ChunksMove : Prop :=
  ∀ (s : State) (e n k m : Nat) (c : Copy), s.copyAt e n = some (k, c) → s.copies.find k = some c → c.left = [(m, m + 1)] → c.state = .active →
    s.copyReady k c = true → c.awe = false → c.entry = none → c.phs = none →
    let p := c.piece m
    let lands (s1 : State) (conf : Bool) (bs : List Byte) : Prop := Runs (.copyChunk e n) s fun s' => ChunkLands s1 s' k m conf bs
    p.len ≠ 0 →
    (c.kind = 4 → lands s false ((List.range p.len).map fun i => BitVec.ofNat 8 (c.d0.toNat / 256 ^ ((p.off + i) % 8)))) ∧
    (c.kind = 0 ∨ c.kind = 1 ∨ c.kind = 5 →
      (c.srcSp = true → ∀ t, c.team = some t → (s.team t).mOps = [] → (s.team t).spBad = [] →
        (p.src + p.len ≤ (s.team t).spad → lands s false ((List.range p.len).map fun i => s.spByte t (p.src + i))) ∧
        ((s.team t).spad < p.src + p.len → Runs (.copyChunk e n) s fun s' => CopyStops s s' k 0x203 p.src)) ∧
      (c.srcSp = false →
        (∀ page pa s1, PartReaches s c.space p.src p.len .read page pa s1 →
          lands (s1.load c.space p.src p.len page pa).2 page.c ((List.range p.len).map fun i => s.byte c.die (pa + i))) ∧
        (∀ i s1 s2, s.quiet → s.checkNow c.space p.src 1 .read = (.remote i, s1) → s1.importCheck c.space p.src p.len .read = (none, i, s2) →
          Runs (.copyChunk e n) s fun s' => CopyAsks s s' k m p.src i p.len .read []) ∧
        ∀ code a s1, s.checkNow c.space p.src 1 .read = (.fail code a, s1) → Runs (.copyChunk e n) s fun s' => CopyStops s s' k code a)) ∧
    (c.kind = 3 → c.d1.toNat % 4 = 0 → ∀ fmt s1, s.fmtAt c.space c.d0.toNat = (.ok fmt, s1) → ∀ es s2,
      (s1.modCopy k fun y => { y with fmt := some fmt }).elements c.space fmt c.d0.toNat c.scales ((List.range (p.len / 4)).map (p.off / 4 + ·)) = (es, s2) →
      (∀ y ∈ es, (∃ v, y.2 = .wide v) ∨ ∃ sig e8 st l, y.2 = .val sig e8 st l ∧ blockOpen sig e8 (if fmt = 2 then 4 else 8) = false) →
      lands s2 false (es.flatMap fun y => bytesLE 4 (elemBits fmt y.2)))

/-- R245, R246, R248: the last chunk of a CPYW stages its half column, and the complete CPYW fills its weight slot; with too many nonzero significands in a group
of a sparse fill it fails DENSITY, and the slot is INVALID. -/
def Claims.WeightFills : Prop :=
  ∀ (s : State) (e n k : Nat) (c : Copy), s.copyAt e n = some (k, c) → s.copies.find k = some c → c.kind = 2 → c.state = .active →
    (∀ m fmt s1 es s2,
      let x := c.d0.toNat + m / 2 * (c.d1.toNat % 2 ^ 32)
      let len := c.colBytes fmt
      let cut := min len (128 - x % 128)
      let b := if m % 2 = 0 then (0, cut) else (cut, len)
      let q := if fmt = 2 then 2 else 1
      c.left = [(m, m + 1)] → s.copyReady k c = true → s.fmtAt c.space x = (.ok fmt, s1) → fmt < 3 → (c.fmt = none ∨ c.fmt = some fmt) → c.shapeOk fmt = true →
      s1.elements c.space fmt x c.scales ((List.range ((b.2 - b.1) * q)).map (b.1 * q + ·)) = (es, s2) → (∀ y ∈ es, ∃ sig e8 st l, y.2 = .val sig e8 st l) →
      Runs (.copyChunk e n) s fun s' => ∃ c', s'.copies.find k = some c' ∧ c'.left = [] ∧ c'.fmt = some fmt ∧
        (∀ y ∈ es, ∀ sig e8 st l, y.2 = .val sig e8 st l → c'.cells.find (64 * y.1 + m / 2) = some { sig := sig, e8 := e8, start := st }) ∧
        ∀ j, (∀ y ∈ es, j ≠ 64 * y.1 + m / 2) → c'.cells.find j = c.cells.find j) ∧
    ∀ t, c.left = [] → c.reqs = [] → c.team = some t → (s.teams.find t).isSome = true → c.slot < 4 → c.awe = false → c.entry = none → c.phs = none →
      let slot (s' : State) : WSlot := (s'.team t).slots.get c.slot {}
      let now (s' : State) : Option (CopyState × Nat × Nat) := (s'.copies.find k).map fun y => (y.state, y.cause, y.bytes)
      (c.tooDense = false → Runs (.copyComplete e n) s fun s' => now s' = some (.done, 0, c.bytes + 64 * c.colBytes (c.fmt.getD 1)) ∧
        (slot s').state = .valid ∧ (slot s').cells = c.cells ∧ ((slot s').bi4 = true ↔ c.fmt = some 2) ∧ (slot s').lcode = c.lcode ∧
        (slot s').k = c.d2.toNat % 512 ∧ (slot s').ncode = c.d2.toNat / 512 % 8) ∧
      (c.tooDense = true → Runs (.copyComplete e n) s fun s' => now s' = some (.failed, 8, c.bytes) ∧ (slot s').state = .invalid)

/-- R232, R238 to R240, R244 to R246, R248: stream slots, here on a die whose receive queues name none; the pieces and chunks of copies, and their completion, as
`Claims.CopyPieces`, `Claims.ChunksMove` and `Claims.WeightFills` state them. The chunk performed is a free choice (log entry 3); causes and addresses of failing
chunks are the model's in part (log entry 23). -/
def Obligations.EngineEvents : Prop :=
  Claims.CopyPieces ∧ Claims.ChunksMove ∧ Claims.WeightFills ∧
  ∀ s : State,
    (∀ d : Nat, (s.dies.find d).isSome = true → (s.die d).rxNamed = [] →
      let D := s.die d
      (D.slotQ = [] → Runs (.streamSlotAccept d) s fun s' => (s'.die d).slotQ = [] ∧ ∀ k ∈ (s'.die d).slots, k ∈ D.slots) ∧
      (∀ k q, D.slotQ = k :: q → D.slots = [] → Runs (.streamSlotAccept d) s fun s' => (s'.die d).slots = [k] ∧ (s'.die d).slotQ = q) ∧
      (256 ≤ D.slots.length → (∀ k ∈ D.slots, s.boundOps d (k / 65536) (k % 65536) ≠ []) → Runs (.streamSlotAccept d) s fun s' =>
        (s'.die d).slots = D.slots ∧ (s'.die d).slotQ = D.slotQ)) ∧
    ∀ e n : Nat,
      (s.copyAt e n = none → Runs (.copyChunk e n) s (· = s) ∧ Runs (.copyComplete e n) s (· = s)) ∧
      ∀ k c, s.copyAt e n = some (k, c) → s.copies.find k = some c →
        (s.copyReady k c = false → Runs (.copyChunk e n) s (· = s)) ∧
        ((c.state ≠ .active ∨ c.left ≠ []) → Runs (.copyComplete e n) s (· = s)) ∧
        (c.state = .active → c.left = [] → c.reqs = [] → c.kind ≠ 2 → c.entry = none → c.phs = none → Runs (.copyComplete e n) s fun s' =>
          (s'.copies.find k).map (fun x => (x.state, x.cause, x.bytes)) = some (.done, 0, c.bytes) ∧ s'.teams = s.teams ∧ s'.dies = s.dies)

/-! ### Gauze messages (R287, R290, R291, R296 to R299, R304 to R306, R311 to R313, R317) -/

/-- R287, R290, R291, R295 to R299, R303 to R306, R311 to R313, R317: a message taken at a node. `taken` holds the messages that are left; 1 to 11 are the TYPE
codes of R291. Some fields' use in JOIN, CREATE and their replies is the model's (log entry 15). -/
def Obligations.GauzeEvents : Prop :=
  ∀ (s : State) (n : Nat) (m : GauzeMsg),
    let h := msgHandle m
    let N := s.node n
    let taken (k : Nat) : List (Nat × Nat × GauzeMsg) := s.flits.erase (n, k, m)
    let pairs : List (Nat × Instr) := [(1, .gauzeSignal n m), (2, .gauzeComplete n m), (3, .gauzeJoin n m), (4, .gauzeLeave n m), (8, .gauzeLate n m)]
    let now (g : GauzeMsg) : GauzeMsg := { g with sent := s.now }
    let inside : Prop := n < 4 ∨ m.port < 4 ∨ 8 ≤ m.port ∨ m.sent ≠ 0
    (N.look h = none → inside → ∀ x ∈ pairs, Runs x.2 s (· = { s with flits := taken x.1 })) ∧
    (N.look h = none → n = 4 → 4 ≤ m.port → m.port < 8 → m.sent = 0 → ∀ x ∈ pairs, Runs x.2 s fun s' =>
      s'.flits = taken x.1 ∧ s'.gqueue.get (m.port - 4) [] = s.gqueue.get (m.port - 4) [] ++ [(10, { cls := m.cls, count := 1 })]) ∧
    (∀ i P, N.look h = some (i, P) → N.entries.find i = some P → P.broken = false → N.up = true →
      let after (s' : State) (f : Phaser → Prop) : Prop := ∃ Q, (s'.node n).entries.find i = some Q ∧ f Q
      let up (k : Nat) : Prop := n < 4 → ∀ x ∈ pairs, x.1 = k → Runs x.2 s (· = { s with flits := taken k ++ [(4, k, now { m with port := n })] })
      let down (g : GauzeMsg) : List (Nat × Nat × GauzeMsg) := if n < 4 then [(n, 2, now g)] else (spanDies P.span).map fun c => (c, 2, now g)
      (P.root = true → hKind P.handle = 0 →
        (m.phase = P.phase → P.open_.count + m.count ≠ P.expected → Runs (.gauzeSignal n m) s fun s' =>
          after s' (fun Q => Q.phase = P.phase ∧ Q.open_.count = P.open_.count + m.count ∧ Q.expected = P.expected) ∧ s'.flits = taken 1) ∧
        (m.phase = P.phase → P.open_.count + m.count = P.expected → P.expected ≠ 0 → P.next.count = 0 → P.open_.nan = false → Runs (.gauzeSignal n m) s fun s' =>
          after s' (fun Q => Q.phase = P.phase + 1 ∧ Q.open_.count = 0 ∧ (Q.expected : Int) = max 0 (P.expected + P.delta) ∧ Q.latecnt = P.latecnt) ∧
          s'.flits = taken 1 ++ down { msgOf P.handle P.cls with phase := P.phase, count := P.latecnt }) ∧
        (m.phase ≠ P.phase → m.phase ≠ P.phase + 1 → P.open_.count ≠ P.expected → Runs (.gauzeSignal n m) s fun s' =>
          after s' (fun Q => Q = { P with latecnt := min (P.latecnt + m.count) (2 ^ 24 - 1) }) ∧ s'.flits = taken 1)) ∧
      (P.root = true → Runs (.gauzeLate n m) s fun s' =>
        after s' (fun Q => Q = { P with latecnt := min (P.latecnt + m.count) (2 ^ 24 - 1) }) ∧ s'.flits = taken 8) ∧
      (P.root = false → up 3 ∧ up 4 ∧ up 8) ∧
      (P.root = false → n = 4 → inside → ∀ x ∈ [(3, Instr.gauzeJoin n m), (4, .gauzeLeave n m)], Runs x.2 s fun s' =>
        s'.gqueue.get P.port [] = s.gqueue.get P.port [] ++ [(x.1, m)] ∧ s'.flits = taken x.1) ∧
      (P.root = false → hKind P.handle = 0 → P.completed = none → P.acc = [] → Runs (.gauzeSignal n m) s fun s' =>
        after s' (fun Q => Q.seen = some m.phase ∧ Q.acc.map (fun x => (x.1, x.2.count)) = [(m.phase, m.count)]) ∧ s'.flits = taken 1) ∧
      (P.root = false → n < 4 → hKind P.handle = 1 → P.completed = none → P.seen = none → Runs (.gauzeSignal n m) s fun s' =>
        after s' (fun Q => Q.seen = some m.phase) ∧ s'.flits = taken 1 ++ [(4, 1, now { m with port := n })]) ∧
      (P.root = false → n < 4 → P.completed = some m.phase → Runs (.gauzeSignal n m) s fun s' =>
        after s' (fun Q => Q = P) ∧ s'.flits = taken 1 ++ [(4, 8, now { msgOf P.handle P.cls with count := m.count, port := n })]) ∧
      (n = 4 → Runs (.gauzeComplete n m) s fun s' =>
        after s' (fun Q => Q.completed = some m.phase) ∧ s'.flits = taken 2 ++ (spanDies P.span).map fun c => (c, 2, now m)) ∧
      (n < 4 → Runs (.gauzeComplete n m) s fun s' => after s' (fun Q => Q.completed = some m.phase) ∧ s'.flits = taken 2 ∧
        ∀ t w r, (s.teams.find t).isSome = true → (s.team t).die = n → (s.team t).phase = .resident → (s.warp t w).members = [r] → r.handle = h → r.lastph = none →
          ∃ r', (s'.warp t w).members = [r'] ∧ r'.handle = h ∧ r'.doneph = m.phase ∧ r'.latecnt = m.count) ∧
      (P.root = true → finderPkg m.ident = s.pkg →
        let r : GauzeMsg := { msgOf P.handle P.cls with ident := m.ident }
        let first := if P.open_.count = 0 then P.phase else P.phase + 1
        let reply (s' : State) (k : Nat) (g : GauzeMsg) : Prop := s'.flits = taken k ++ [(finderDie m.ident, 11, now g)]
        ((P.expected : Int) + P.delta + m.count ≤ 16777215 → Runs (.gauzeJoin n m) s fun s' =>
          after s' (fun Q => (Q.expected : Int) + Q.delta = P.expected + P.delta + m.count ∧ Q.phase = P.phase ∧ Q.open_ = P.open_) ∧
          reply s' 3 { r with count := P.latecnt, phase := first }) ∧
        ((P.expected : Int) + P.delta + m.count > 16777215 → Runs (.gauzeJoin n m) s fun s' =>
          after s' (fun Q => Q = P) ∧ reply s' 3 { r with count := P.latecnt, value := 3 }) ∧
        (hKind P.handle = 0 → P.open_.count ≠ 0 → P.open_.count ≠ P.expected → Runs (.gauzeLeave n m) s fun s' =>
          after s' (fun Q => Q.expected = P.expected ∧ Q.delta = P.delta - m.count ∧ Q.phase = P.phase) ∧ reply s' 4 { r with phase := first - 1 }))) ∧
    (m.port < 4 ∨ 8 ≤ m.port ∨ m.sent ≠ 0 → Runs (.gauzeJoinReply 4 m) s (· = { s with flits := s.flits.erase (4, 11, m) ++ [(finderDie m.ident, 11, now m)] })) ∧
    (∀ tr, n ≠ 4 → s.trips = [tr] → tr.ident = m.ident → s.warpLive tr.team tr.warp = true → (s.warp tr.team tr.warp).wait = .tree →
      let W := s.warp tr.team tr.warp
      (tr.type = 3 → tr.handle = h → m.value = 0 → Runs (.gauzeJoinReply n m) s fun s' =>
        let V := s'.warp tr.team tr.warp
        s'.trips = [] ∧ V.wait = .reply (phStatus 0 m.phase false false false) ∧ V.members = W.members ++
          [{ handle := tr.handle, sig := bits tr.param.toNat 15 0, wait := bitOf tr.param.toNat 16, lp := m.phase, doneph := m.phase - 1, latecnt := m.count }]) ∧
      (tr.type = 5 → Runs (.gauzeCreateReply n m) s fun s' =>
        s'.trips = [] ∧ (s'.warp tr.team tr.warp).wait = .reply (if m.count = 0 then h else phFailure m.count)) ∧
      (tr.type = 5 → n < 4 → N.up = true → bits tr.param.toNat 2 0 ≤ 2 → tr.pkgs = [] →
        let value := bits tr.param.toNat 4 3 == 2
        (∀ c, s.createFlaw [n] value = some c → Runs (.gauzeCreate n m) s fun s' =>
          s'.flits = taken 5 ++ [((s.team tr.team).die, 6, now { m with count := c, value := 0, phase := 0 })] ∧ s'.nodes = s.nodes) ∧
        (s.createFlaw [n] value = none → N.entries = [] → (s.nodes.find n).isSome = true → Runs (.gauzeCreate n m) s fun s' =>
          ∃ i P, (s'.node n).entries = [(i, P)] ∧ P.root = true ∧ P.home = true ∧ P.team = tr.team ∧ P.expected = 0 ∧ P.phase = 0 ∧ P.broken = false ∧
            hHome P.handle = s.pkg % 4096 ∧ hKind P.handle = bits tr.param.toNat 4 3 ∧
            s'.flits = taken 5 ++ [((s.team tr.team).die, 6, now { msgOf P.handle m.cls with ident := m.ident })]))) ∧
    (∀ i P x, n < 4 → N.look h = some (i, P) → N.entries.find i = some P → P.home = true → N.serials.find i = some x → s.trips = [] → Runs (.gauzeFree n m) s fun s' =>
      (s'.node n).serials.find i = some ((x + 1) % 2 ^ 32) ∧ (s'.node n).entries = N.entries.del i ∧
      ∀ t w r, (s.teams.find t).isSome = true → (s.team t).die = n → (s.team t).phase = .resident → (s.warp t w).members = [r] → r.handle = h →
        (s'.warp t w).members = []) ∧
    (∀ i P, N.look h = some (i, P) → N.entries.find i = some P → n < 4 → s.trips = [] → Runs (.gauzeBroken n m) s fun s' =>
      ((s'.node n).entries.find i).map (·.broken) = some true ∧
      (P.broken = false → ∀ t w r, (s.teams.find t).isSome = true → (s.team t).die = n → (s.team t).phase = .resident → (s.warp t w).members = [r] → r.handle = h →
        (s'.warp t w).members = [{ r with broken := true }])) ∧
    (4 ≤ m.port → Runs (.gauzeCredit n m) s fun s' =>
      s'.credits.get (4 * (m.port - 4) + m.cls) 0 = s.credits.get (4 * (m.port - 4) + m.cls) 0 + m.count ∧ s'.nodes = s.nodes ∧ s'.teams = s.teams) ∧
    (Runs (.gauzeReservedFlit n m) s fun s' => (s'.events.getLast?).map (·.code) = some 9 ∧ s'.nodes = s.nodes ∧ s'.teams = s.teams ∧ s'.flits = s.flits.erase (n, 12, m)) ∧
    (∀ port ∈ s.gports, Runs (.gauzePortLost port) s (· = s)) ∧
    (∀ port, port ∉ s.gports → Runs (.gauzePortLost port) s fun s' => port ∈ s'.gports ∧ (s'.events.getLast?).map (·.code) = some 8 ∧
      ∀ i P, s.trips = [] → (s.node 4).entries.find i = some P → P.pod = true → P.port = port → (∀ x ∈ (s.node 4).entries, x.2.handle = P.handle → x.1 = i) →
        ((s'.node 4).entries.find i).map (·.broken) = some true) ∧
    ((s.nodes.find n).isSome = true → n < 5 → Runs (.gauzeNodeFailure n) s fun s' => (s'.node n).up = false ∧ (s'.events.getLast?).map (·.code) = some 8 ∧
      ∀ k < 5, ∀ i P, s.trips = [] → (s.node k).entries.find i = some P → (∃ x ∈ N.entries, x.2.handle = P.handle) → (∀ x ∈ (s.node k).entries, x.2.handle = P.handle → x.1 = i) →
        ((s'.node k).entries.find i).map (·.broken) = some true) ∧
    ∀ i P, N.entries.find i = some P →
      (((∀ x, P.expiry = some x → s.now < x) → Runs (.valuePhaseTimeout n i) s (· = s)) ∧
      (∀ x, P.expiry = some x → x ≤ s.now → P.next.count = 0 → Runs (.valuePhaseTimeout n i) s fun s' =>
        (∃ Q, (s'.node n).entries.find i = some Q ∧ Q.phase = P.phase + 1 ∧ Q.open_.count = 0) ∧
        s'.flits = s.flits ++ if n < 4 then [(n, 2, now (P.completion true))] else (spanDies P.span).map fun c => (c, 2, now (P.completion true))))

/-! ### Twill packets, links and keys (R325, R329, R335 to R343) -/

/-- R321, R325, R329, R337 to R343: requests at their target, here on an alias page within one line; the answers at their source; links, ports and keys. An
atomic answered by DATA, and what the checks and translations note, are the model's (log entries 14 and 25). -/
def Obligations.TwillEvents : Prop :=
  ∀ (s : State) (p : TwillPacket),
    let d := p.dsock
    let D := s.die d
    let logged (s' : State) (c : Nat) : Prop := (s'.events.getLast?).map (·.code) = some c
    let requests : List Instr := [.twillRead p, .twillWrite p, .twillAtomic p]
    let answers : List Instr := [.twillData p, .twillAck p, .twillNak p]
    let sent (s' : State) (ty : TwillType) (cause : Nat) (bs : List Byte) : Prop :=
      ∃ r : TwillPacket, s'.wires = s.wires.erase p ++ [r] ∧ r.type = ty ∧ r.dpkg = p.spkg ∧ r.dsock = p.ssock ∧ r.ssock = d ∧ r.tag = p.tag ∧ r.ncause = cause ∧ r.data = bs
    (p.dpkg ≠ s.pkg ∨ D.up = false ∨ D.func.base.get 0x12000 0 = 0 → ∀ i ∈ requests, Runs i s fun s' =>
      s' = { s with wires := s.wires.erase p, retries := s'.retries }) ∧
    (p.dpkg = s.pkg → D.up = true → D.func.base.get 0x12000 0 ≠ 0 → (s.dies.find d).isSome = true →
      (p.crypt = 3 → ∀ i ∈ requests, Runs i s fun s' => logged s' 9 ∧ s'.wires = s.wires.erase p ∧ s'.dies = s.dies) ∧
      (p.crypt ≠ 3 → p.spkg = s.pkg → D.waiting = [] → (s.hop d p.ssock).isSome = true →
        (p.authentic = false → ∀ i ∈ requests, Runs i s fun s' => sent s' .nak 9 [] ∧ ∀ e, (s'.die e).mem = (s.die e).mem) ∧
        (p.authentic = true → s.ordWaits p = true → ∀ i ∈ requests, Runs i s fun s' =>
          (s'.die d).mem = D.mem ∧ (s'.die d).waiting = [p] ∧ s'.wires = s.wires.erase p) ∧
        (p.authentic = true → s.ordWaits p = false →
          let n := if p.type = .atomic then (if bitOf p.atom 4 then 8 else 4) else p.len
          (∀ c, exportFlaw (D.export_ p.exp) p n = some c → ∀ i ∈ requests, Runs i s fun s' => sent s' .nak c [] ∧ ∀ e, (s'.die e).mem = (s.die e).mem) ∧
          ∀ e, D.export_ p.exp = some e → exportFlaw (some e) p n = none →
            let space := d * 4096 + bits e 63 52
            let va := bits e 51 12 * 4096 + p.offset
            cutLines va n = [(va, n)] →
            (∀ c a s1 k, k = (match p.type with | .write => Acc.write | .atomic => .atomic | _ => .read) → s.checkNow space va 1 k = (.fail c a, s1) →
              (c ≠ cABSENT → ∀ i ∈ requests, Runs i s fun s' =>
                sent s' .nak (if c / 256 = 2 then 4 else if c / 256 = 4 then 7 else 6) [] ∧ ∀ x, (s'.die x).mem = (s.die x).mem) ∧
              (c = cABSENT → ∀ i ∈ requests, Runs i s fun s' => (s'.die d).waiting = [p] ∧ (∀ x, (s'.die x).mem = (s.die x).mem) ∧ s'.wires = s.wires.erase p)) ∧
            ∀ page pa s1,
              (p.type = .read → PartReaches s space va n .read page pa s1 → Runs (.twillRead p) s fun s' =>
                sent s' .data 0 (rdBytes D.mem pa n) ∧ ∀ x, (s'.die x).mem = (s.die x).mem) ∧
              (p.type = .write → p.data.length = n → PartReaches s space va n .write page pa s1 → Runs (.twillWrite p) s fun s' =>
                sent s' .ack 0 [] ∧ StoredGlobal s s' d space va pa n (natLE p.data)) ∧
              (p.type = .atomic → PartReaches s space va n .atomic page pa s1 →
                let old := s1.value d pa n
                let x := natLE (p.data.take n)
                let does (v : Nat) : Prop := Runs (.twillAtomic p) s fun s' => sent s' .data 0 (bytesLE n old) ∧ StoredGlobal s s' d space va pa n v
                (p.atom % 16 = 0 → does (old + x)) ∧ (p.atom % 16 = 4 → does (old ^^^ x)) ∧ (p.atom % 16 = 7 → does x) ∧
                (p.atom % 16 = 11 → does (if old = natLE (p.data.drop n) then x else old)))))) ∧
    (p.crypt ≠ 3 → s.asked p = none → ∀ i ∈ answers, Runs i s fun s' => s' = { s with wires := s.wires.erase p, retries := s'.retries }) ∧
    (p.crypt = 3 → ∀ i ∈ answers, Runs i s fun s' => logged s' 9 ∧ s'.reqs = s.reqs ∧ s'.teams = s.teams) ∧
    (∀ id r t w, s.asked p = some (id, r) → s.reqs = [(id, r)] → (s.teams.find t).isSome = true →
      let W := s.warp t w
      (p.crypt ≠ 3 → s.warpLive t w = true →
        (r.owner = .scalar t w → W.wait = .remote id → r.packet.type = .read →
          (p.authentic = true → Runs (.twillData p) s fun s' =>
            s'.reqs = [] ∧ (s'.warp t w).got = W.got ++ [(r.addr, some (natLE p.data))] ∧ (s'.warp t w).wait = .none) ∧
          (p.authentic = true → Runs (.twillAck p) s fun s' => s'.reqs = s.reqs ∧ s'.teams = s.teams) ∧
          Runs (.twillNak p) s fun s' => s'.reqs = [] ∧ (s'.warp t w).got = W.got ++ [(r.addr, none)] ∧ (s'.warp t w).wait = .none) ∧
        (∀ P l, r.owner = .lane t w l → r.packet.type = .read → W.a = some P → P.board = [{ lane := l, req := some id }] → p.authentic = true →
          Runs (.twillData p) s fun s' => s'.reqs = [] ∧ (s'.warp t w).a = some { P with board := [{ lane := l, regs := loadRegs r.size r.vd (natLE (p.data.take (sizeOf' r.size))) }] }) ∧
        (r.owner = .scalar t w → r.packet.type = .write →
          (p.authentic = true → Runs (.twillAck p) s fun s' => s'.reqs = [] ∧ (s'.warp t w).writes = W.writes.filter (· != id) ∧ (s'.team t).lost = (s.team t).lost) ∧
          Runs (.twillNak p) s fun s' =>
            s'.reqs = [] ∧ (s'.warp t w).writes = W.writes.filter (· != id) ∧ (s'.team t).lost = (s.team t).lost + 1 ∧ logged s' 11))) ∧
    (Runs (.twillReservedPacket p) s fun s' => logged s' 9 ∧ s'.wires = s.wires.erase p ∧ s'.dies = s.dies ∧ s'.teams = s.teams) ∧
    (∀ a b : Nat,
      (s.linkUp a b = false → Runs (.ucieLinkFailure a b) s (· = s)) ∧
      (s.linkUp a b = true → Runs (.ucieLinkFailure a b) s fun s' => s'.linkUp a b = false ∧ logged s' 8 ∧ s'.teams = s.teams ∧ Map.keys s'.reqs = Map.keys s.reqs) ∧
      Runs (.linkRepair a b) s fun s' => s'.linkUp a b = true ∧ s'.teams = s.teams ∧ Map.keys s'.reqs = Map.keys s.reqs) ∧
    (∀ k : Nat,
      (k ∈ s.ports → Runs (.twillPortFailure k) s (· = s)) ∧
      (k ∉ s.ports → Runs (.twillPortFailure k) s fun s' => (∀ j, j ∈ s'.ports ↔ j = k ∨ j ∈ s.ports) ∧ logged s' 8 ∧ s'.teams = s.teams) ∧
      (s.routeLost k = false → Runs (.routeLostTimeout k) s (· = s)) ∧
      (∀ r t w, s.routeLost k = true → s.reqs = [(k, r)] → r.owner = .scalar t w → r.packet.type = .read → s.warpLive t w = true → Runs (.routeLostTimeout k) s fun s' =>
        s'.reqs = [] ∧ (s'.warp t w).got = (s.warp t w).got ++ [(r.addr, none)] ∧ lostKey r.src r.packet.dpkg r.packet.dsock ∈ s'.lost) ∧
      (let n := s.retries.get k 0
       (n < 15 → Runs (.linkLevelRetry k) s (· = { s with retries := s.retries.ins k (n + 1) })) ∧
       (15 ≤ n → k < 32 → k ∉ s.ports → Runs (.linkLevelRetry k) s fun s' => k ∈ s'.ports ∧ logged s' 8) ∧
       (15 ≤ n → 32 ≤ k → k < 64 → k - 32 ∉ s.gports → Runs (.linkLevelRetry k) s fun s' => k - 32 ∈ s'.gports ∧ logged s' 8) ∧
       (15 ≤ n → 64 ≤ k → s.linkUp ((k - 64) / 8) ((k - 64) % 8) = true → Runs (.linkLevelRetry k) s fun s' =>
        s'.linkUp ((k - 64) / 8) ((k - 64) % 8) = false ∧ logged s' 8))) ∧
    ∀ part peer v, Runs (.keyInstallation part peer v) s fun s' => (part, peer) ∈ s'.keys ∧ (∀ x ∈ s.keys, x ∈ s'.keys) ∧
      s'.integrity = (List.range 8).filter (fun i => v.getLsbD i) ∧ s'.dies = s.dies ∧ s'.teams = s.teams

/-! ### Calico packets, messages and frames (R350 to R358, R364 to R366) -/

/-- R350 to R356, R358, R360, R364, R366: Calico packets at their target, here on an alias page within one line, and at their sender; message records; frames. A
finished operation is counted, or waits while the page of its completion record is absent.
Answers in corners are the model's (log entry 25). -/
def Obligations.CalicoEvents : Prop :=
  ∀ (s : State) (g : Nat) (p : CalicoPacket), (s.groups.find g).isSome = true →
    let D := s.die p.dsock
    let G := s.group g
    let K := D.keys.get p.key {}
    let sp := p.dsock * 4096 + K.asid
    let va := K.base + p.roff + p.poff
    let requests : List (Nat × Instr) := [(1, .calicoWrite g p), (2, .calicoRead g p), (4, .calicoAtomic g p)]
    let answers : List Instr := [.calicoData g p, .calicoAtomresp g p, .calicoAck g p, .calicoNak g p]
    let answered (s' : State) (op cause : Nat) (bs : List Byte) : Prop :=
      ∃ r : CalicoPacket, s'.out = s.out ++ [.calico g 0 op 0xC000 0 (s.portMac g 0) r
          (datagram p.ip6 r.addr p.addr 0xC000 (s.groupField g 0x14 2) (calicoBytes op r))] ∧ r.ip6 = p.ip6 ∧ r.addr = s.ownAddr g p.ip6 ∧
        r.ncause = cause ∧ r.opid = p.opid ∧ r.poff = p.poff ∧ r.payload = bs ∧ (op = 7 → r.part = D.calicoId K.asid)
    let dropped (s' : State) : Prop := (s'.group g).drops = G.drops + 1 ∧ s'.dies = s.dies ∧ s'.out = s.out
    let still (s' : State) : Prop := ∀ d, (s'.die d).mem = (s.die d).mem
    (p.sound = false → (∀ i ∈ requests, Runs i.2 s dropped) ∧ ∀ i ∈ answers, Runs i s dropped) ∧
    Runs (.calicoBadPacket g p) s dropped ∧
    (p.sound = true →
      (∀ c, ∀ i ∈ requests, keyFlaw D i.1 p = some c → Runs i.2 s fun s' => answered s' 7 c [] ∧ still s') ∧
      ∀ page pa s1, K.asid < 4096 → (s.dies.find p.dsock).isSome = true →
        (keyFlaw D 1 p = none → p.payload ≠ [] → cutLines va p.payload.length = [(va, p.payload.length)] → PartReaches s sp va p.payload.length .write page pa s1 →
          (G.msgs = [] → p.payload.length < p.mlen → Runs (.calicoWrite g p) s fun s' => answered s' 6 0 [] ∧
            StoredGlobal s s' p.dsock sp va pa p.payload.length (natLE p.payload) ∧
            ∃ m, (s'.group g).msgs = [m] ∧ m.src = p.src ∧ m.opid = p.opid ∧ m.got = [p.poff] ∧ m.complete = false) ∧
          (∀ m, G.msgs = [m] → m.src = p.src → m.opid = p.opid → p.poff ∈ m.got → Runs (.calicoWrite g p) s fun s' =>
            answered s' 6 0 [] ∧ (s'.group g).msgs = [{ m with at_ := if m.complete then m.at_ else s.now }] ∧ ∀ d, (s'.die d).mem = (s1.die d).mem)) ∧
        (keyFlaw D 2 p = none → calicoLen 2 p ≠ 0 → cutLines va (calicoLen 2 p) = [(va, calicoLen 2 p)] → PartReaches s sp va (calicoLen 2 p) .read page pa s1 →
          Runs (.calicoRead g p) s fun s' => answered s' 3 0 (rdBytes D.mem pa (calicoLen 2 p)) ∧ still s') ∧
        (∀ a, keyFlaw D 4 p = none → s.checkNow sp va 1 .atomic = (.local page pa, s1) → G.atoms = [a] → a.src = p.src → a.opid = p.opid →
          Runs (.calicoAtomic g p) s fun s' => answered s' 5 0 (bytesLE 8 a.value) ∧ ∀ d, (s'.die d).mem = (s1.die d).mem) ∧
        (keyFlaw D 4 p = none → G.atoms = [] → PartReaches s sp va (if bitOf p.atom 4 then 8 else 4) .atomic page pa s1 →
          let n := if bitOf p.atom 4 then 8 else 4
          let old := s1.value p.dsock pa n
          let x := natLE (p.payload.take 8) % 2 ^ (8 * n)
          let does (v : Nat) : Prop := Runs (.calicoAtomic g p) s fun s' => answered s' 5 0 (bytesLE 8 old) ∧ StoredGlobal s s' p.dsock sp va pa n v ∧
            ∃ a, (s'.group g).atoms = [a] ∧ a.src = p.src ∧ a.opid = p.opid ∧ a.value = old
          (p.atom % 16 = 0 → does (old + x)) ∧ (p.atom % 16 = 2 → does (old &&& x)) ∧ (p.atom % 16 = 7 → does x) ∧
          (p.atom % 16 = 8 → does (if old = natLE (p.payload.drop 8) % 2 ^ (8 * n) then x else old)))) ∧
    (p.sound = true → s.opOf g p.opid = none →
      Runs (.calicoAck g p) s (· = s) ∧ Runs (.calicoNak g p) s (· = s) ∧ Runs (.calicoData g p) s (fun s' => s'.dies = s.dies ∧ s'.netops = s.netops) ∧
      Runs (.calicoAtomresp g p) s (fun s' => s'.dies = s.dies ∧ s'.netops = s.netops) ∧ Runs (.frameSent g p.opid) s (· = s)) ∧
    (∀ k o, s.netops = [(k, o)] → o.started = true → o.done = false → o.grp = g → o.opid = p.opid →
      let Q := s.netq o.die o.asid o.queue
      let fin (s' : State) (c : Nat) : Prop :=
        (let R := s'.netq o.die o.asid o.queue
         s'.netops = [] ∧ R.counted = Q.counted + 1 ∧ R.failed = Q.failed + (if c = 0 then 0 else 1) ∧ R.cause = if c = 0 then Q.cause else c) ∨
        (s'.netops.find k).map (fun x => (x.done, x.cause)) = some (true, c)
      (p.sound = true → o.kind = 0 → p.poff / 4096 < o.packets → p.poff / 4096 ∉ o.acked →
        ((setIns (p.poff / 4096) o.acked).length < o.packets → Runs (.calicoAck g p) s fun s' =>
          (s'.netops.find k).map (fun x => (x.acked, x.done)) = some (setIns (p.poff / 4096) o.acked, false) ∧ still s') ∧
        ((setIns (p.poff / 4096) o.acked).length = o.packets → Runs (.calicoAck g p) s fun s' => fin s' 0) ∧
        (∀ c, p.ncause = c → c ≠ 9 → c ≠ 2 → Runs (.calicoNak g p) s fun s' => fin s' (16 + c))) ∧
      (∀ page pa s1 n, page.c = false → (s.dies.find o.die).isSome = true → p.sound = true →
        (let v := o.d0.toNat + 4096 * (p.poff / 4096)
         o.kind = 1 → p.poff / 4096 < o.packets → p.poff / 4096 ∉ o.acked → p.payload.length = n → 1 ≤ n → n ≤ min 4096 (o.len - 4096 * (p.poff / 4096)) →
         cutLines v n = [(v, n)] → PartReaches s o.space v n .write page pa s1 → Runs (.calicoData g p) s fun s' =>
          ∃ s2, StoredGlobal s s2 o.die o.space v pa n (natLE p.payload) ∧ s' = s2.ackPacket k o (p.poff / 4096)) ∧
        (o.kind = 2 → cutLines o.d0.toNat 8 = [(o.d0.toNat, 8)] → PartReaches s o.space o.d0.toNat 8 .write page pa s1 → Runs (.calicoAtomresp g p) s fun s' =>
          ∃ s2, StoredGlobal s s2 o.die o.space o.d0.toNat pa 8 (natLE (p.payload.take 8)) ∧ s' = s2.ackPacket k o 0)) ∧
      (o.kind = 3 → Runs (.frameSent g p.opid) s fun s' => fin s' 0) ∧
      (∀ n, n < o.packets → n ∉ o.acked → o.kind ≠ 3 → 0 < o.sent.get n 0 →
        (s.now < o.due.get n 0 → Runs (.calicoRetransmitTimeout g p.opid n) s (· = s)) ∧
        (o.due.get n 0 ≤ s.now →
          let retry := bits (((s.die o.die).netqEntry o.asid o.queue).getD 0) 111 108
          (∀ q, o.tries.get n 0 < retry → o.pkts.find n = some q → Runs (.calicoRetransmitTimeout g p.opid n) s fun s' =>
            (∃ port sport dport, s'.out = s.out ++ [.calico g port o.code sport o.peer (s.portMac g port) q
              (datagram (bitOf o.peer 46) q.addr (o.peer / 2 ^ 128 % 2 ^ (if bitOf o.peer 46 then 128 else 32)) sport dport (calicoBytes o.code q))]) ∧
            (s'.netops.find k).map (fun x => (x.tries.get n 0, x.sent.get n 0, x.done)) = some (o.tries.get n 0 + 1, o.sent.get n 0 + 1, false)) ∧
          (retry ≤ o.tries.get n 0 → o.kind = 0 → Runs (.calicoRetransmitTimeout g p.opid n) s fun s' => fin s' 7)))) ∧
    (∀ src opid : Nat,
      (Runs (.messageRecordRelease g src opid) s fun s' => s'.dies = s.dies ∧
        ∀ m, m ∈ (s'.group g).msgs ↔ m ∈ G.msgs ∧ ¬(m.src = src ∧ m.opid = opid ∧ m.complete = true ∧ m.at_ + 1750000 ≤ s.now)) ∧
      Runs (.messageRecordAgeOut g src opid) s fun s' => s'.dies = s.dies ∧
        ∀ m, m ∈ (s'.group g).msgs ↔ m ∈ G.msgs ∧ ¬(m.src = src ∧ m.opid = opid ∧ m.complete = false ∧ m.at_ + 1750000000 ≤ s.now)) ∧
    ∀ f : EthFrame, f.iod = g →
      (f.fcsOk = false → (∀ x ∈ G.frames, x.1 ≠ f) → Runs (.frameReceive f) s dropped) ∧
      (f.fcsOk = true →
        (∀ bs ok ip6 addr, (∀ x ∈ G.frames, x.1 ≠ f) → s.calicoFrame g f.bytes = some (bs, ok, ip6, addr) → parseCalico bs ok = none →
          Runs (.frameReceive f) s dropped) ∧
        (s.calicoFrame g f.bytes = none → G.frames = [] →
          (s.filterFor g f.bytes = none → Runs (.frameReceive f) s dropped) ∧
          ∀ fi e, s.filterFor g f.bytes = some (fi, e) →
            let d := bits e 129 128
            let asid := bits e 127 116
            let q := bits e 115 106
            let E := ((s.die d).netqEntry asid q).getD 0
            let Q := s.netq d asid q
            let size := 2048 * 2 ^ bits E 107 106
            let stamped : EthFrame := { f with time := s.ptpNs }
            let rec_ := frameRecord stamped fi size
            let v := bits E 203 164 * 4096 + Q.delivered % (bits E 163 148 + 1) * size
            (s.stampPast stamped = false → Runs (.frameReceive f) s fun s' => (s'.group g).frames = [(stamped, fi, e)] ∧ s'.dies = s.dies) ∧
            (s.stampPast stamped = true → Q.delivered - Q.released > bits E 163 148 → Runs (.frameReceive f) s dropped) ∧
            ∀ page pa s1, s.stampPast stamped = true → Q.delivered - Q.released ≤ bits E 163 148 → bits E 147 132 = 0 → (s.dies.find d).isSome = true →
              cutLines v rec_.length = [(v, rec_.length)] → PartReaches s (d * 4096 + asid) v rec_.length .write page pa s1 → Runs (.frameReceive f) s fun s' =>
                ∃ s2, StoredGlobal s s2 d (d * 4096 + asid) v pa rec_.length (natLE rec_) ∧
                  match s2.putRecord d asid q { Q with delivered := Q.delivered + 1, counted := Q.counted + 1 } with
                  | some s3 => s' = s3.freeFrame stamped
                  | none => (stamped, fi, e) ∈ (s'.group g).frames))

/-! ### The machine as a whole -/

/-- R460, R403, R456: the machine right after a cold reset has no team, bundle, fragment, copy or network operation; every die runs in PS0 with no
queue mapped, its clock at 0, no command under way and every table base zero; every frame is of class S and no group is retired (R194, R195). Memory
is in canonical form. That an unlisted byte reads zero is the model's choice (log entry 6), as are the values of log entry 1. -/
def Obligations.ResetState : Prop :=
  let s := State.reset
  s.canonical ∧ s.teams = [] ∧ s.bundles = [] ∧ s.frags = [] ∧ s.copies = [] ∧ s.reqs = [] ∧ s.netops = [] ∧ s.pstate = 0 ∧ s.ident = [] ∧
  (∀ n < 5, (s.node n).up = true ∧ (s.node n).entries = []) ∧
  ∀ d < 4, (s.die d).up = true ∧ (s.die d).clk = 0 ∧ (s.die d).queues = [] ∧ (s.die d).routes = [] ∧ (s.die d).keys = [] ∧ (s.die d).retired = [] ∧
    (s.die d).func.busy = false ∧ (∀ k, (s.die d).func.base.get k 0 = 0) ∧ ∀ a, (s.die d).frameClass a = 1 ∧ s.byte d a = 0

/-- R38 to R41: a step of the machine runs what the outside has fixed as its turn. A stream fetches at its program counter, or at base + 12 i for a lane
path; the words that decode to a well-formed instruction run it, in the state that the fetch leaves, with the instruction's length noted; words
that decode to none raise the illegal-instruction exception, a failed fetch its fault. A code word is the four little-endian bytes at the translated
address where no instruction cache holds its line and nothing has been stored there since the sub-launch began. An instruction that a shadow team's
leader fetches goes through the queues of R428 and R429. An event runs its meaning; a turn of `elapse` lets cycles pass, up to the next deadline at once. `after` adds to
each what every step adds: what the end of a cycle and its deadlines bring, one cycle, the saving of stopped teams and teams that become dispatchable. Without a
fixed turn one of the moves that can happen is taken, or time passes, no deadline being passed over.
That a step is one turn and one cycle is the model's (log entry 10), as are the queues of a shadow pair (log entry 27). -/
def Obligations.StepRunsInstruction : Prop :=
  (∀ (s : State) (t va : Nat) (x : Trans) (s1 : State), va < 2 ^ 52 → isWindow va = false → s.translate (s.team t).space va = (.ok x, s1) →
    x.page.x = true → tailOk x va = true → (s.team t).asid < 4096 → (s.team t).old = [] → s.heldFetch t va = none →
    let o := (s.team t).origin
    let s2 := if x.page.a then s1 else (s1.mapped o (s.team t).space va x.page (x.pa va)).fillFetch (s.team t).die (s.team t).core (s.team t).space va (x.pa va)
    (s2.die o).poisoned (x.pa va) = false → (s2.die o).aliased (s.team t).space va x.page (x.pa va) = false →
    s.fetchWord t va = (.words [BitVec.ofNat 32 (s1.value o (x.pa va) 4)], s2)) ∧
  (∀ (s : State) (x : Stream) (r : List Turn), s.inputs = .stream x :: r →
    let s0 : State := { State.served { s with inputs := r } x with cur := x, ilen := 4 }
    let t := s0.me
    let runs (i : Instr) (s' : State) (n : Nat) : Prop :=
      (s0.leads x = none → step s = after (exec i { s' with ilen := n })) ∧
      ∀ u v, s0.leads x = some (u, v) → ∃ e, step s = after (State.leadIssue { s' with ilen := n } x u v i e)
    let raises (i : Instr) (s' : State) (n : Nat) : Prop := step s = after (exec i { s' with ilen := n })
    (x.ids.isSome → (∀ t w b, x ≠ .path t w b) →
      (∀ w0 s1, s0.fetchWord t s0.pc.toNat = (.words [w0], s1) →
        (scalarWords w0 = 1 → (∀ i, decodeScalar w0 0 = .ok i → runs i s1 4) ∧ (∀ e, decodeScalar w0 0 = .error e → raises .illegalInstruction s1 4)) ∧
        (scalarWords w0 = 2 →
          (∀ w1 s2, s1.fetchWord t (s0.pc.toNat + 4) = (.words [w1], s2) →
            (∀ i, decodeScalar w0 w1 = .ok i → runs i s2 8) ∧ (∀ e, decodeScalar w0 w1 = .error e → raises .illegalInstruction s2 8)) ∧
          (∀ d a b s2, s1.fetchWord t (s0.pc.toNat + 4) = (.fail d a b, s2) →
            (if a / 4096 = s0.pc.toNat / 4096 then raises (.fetchFault 11 (BitVec.ofNat 8 d) s0.pc.toNat false) s2 4
             else raises (.fetchFault 11 (BitVec.ofNat 8 d) a true) s2 4)) ∧
          ∀ s2, s1.fetchWord t (s0.pc.toNat + 4) = (.poison, s2) → raises (.fetchFault 14 4 s0.pc.toNat false) s2 4)) ∧
      (∀ d a b s1, s0.fetchWord t s0.pc.toNat = (.fail d a b, s1) → a = s0.pc.toNat → raises (.fetchFault 11 (BitVec.ofNat 8 d) a false) s1 4) ∧
      (∀ s1, s0.fetchWord t s0.pc.toNat = (.poison, s1) → raises (.fetchFault 14 4 s0.pc.toNat false) s1 4)) ∧
    ∀ w b, x = .path t w b →
      let va := (s.team t).lanebase + 12 * (s.path t w b).pc
      (∀ w0 w1 w2 s1 s2 s3, s0.fetchWord t va = (.words [w0], s1) → s1.fetchWord t (va + 4) = (.words [w1], s2) →
        s2.fetchWord t (va + 8) = (.words [w2], s3) →
        (∀ i, decodeLane w0 w1 w2 = .ok i → runs i s3 4) ∧ (∀ e, decodeLane w0 w1 w2 = .error e → raises .illegalInstruction s3 4)) ∧
      (∀ d a b s1, s0.fetchWords t va 3 = (.fail d a b, s1) → raises (.fetchFault 11 (BitVec.ofNat 8 d) a b) s1 4) ∧
      ∀ s1, s0.fetchWords t va 3 = (.poison, s1) → raises (.fetchFault 14 4 va false) s1 4) ∧
  (∀ (s : State) (i : Instr) (r : List Turn), s.inputs = .event i :: r → step s = after (exec i { s with inputs := r })) ∧
  (∀ (s : State) (n : Nat) (r : List Turn), s.inputs = .elapse n :: r → step s = after (.next (State.elapse { s with inputs := r } n))) ∧
  ∀ s : State, s.inputs = [] →
    (∃ f ∈ s.moves, ∃ c, step s = after (f { s with ctr := c })) ∨ ∃ n c, step s = after (.next (State.pass { s with ctr := c } n)) ∧ ∀ m, s.toDeadline = some m → n ≤ m

/-- R43, R51, R55, R56, R260: words written out from the encoding tables decode to the instructions that they stand for. -/
def Obligations.DecodedWords : Prop :=
  decodeWords [0x00304200] = .ok (.add 3 1 2) ∧
  decodeWords [0x0450BFFF] = .ok (.addi 5 2 0x3FFF) ∧
  decodeWords [0x44821FFE] = .ok (.br .ne 1 3 0x7FE) ∧
  decodeWords [0x5C00002F] = .ok (.fence .sc .p true false) ∧
  decodeWords [0xE0700000, 0x80000001] = .ok (.li 7 0x80000001) ∧
  decodeWords [0x00304220] = .error (.fn 0 0x20) ∧
  decodeWords [0x00000005, 0x00000000, 0x01030201] = .error (.flaw .unused) ∧
  decodeWords [0, 0x00010000, 0x01030201] = .ok (.vadd { (default : LaneWord) with vd := 3, va := 2, vb := 1, ty := 1 }) ∧
  decodeWords [0x00000009, 0x00000001, 0x50000000] = .ok (.lbr { (default : LaneWord) with imm := 9, sub := 1 })

/-- R43 to R63, R260: decoding is the inverse of encoding. Every well-formed instruction, whatever its operands, is what its words decode to; and words that
decode to an instruction are its words, so no two words stand for one instruction and no bit is ignored. -/
def Obligations.RoundTrip : Prop :=
  (∀ i : Instr, i.coded = true → i.wf = true → decodeWords (encode i) = .ok i) ∧
  ∀ (ws : List Half) (i : Instr), decodeWords ws = .ok i → (∀ w0 w1, ws = [w0, w1] → scalarWords w0 = 2) → encode i = ws ∧ i.wf = true

/-- No turn stops the machine: a stream that runs issues to a next state whatever its instruction, its operands and its fetch, and so does every event
of the part and every passing of time, from every state. -/
def Obligations.NoTurnStops : Prop :=
  (∀ (s : State) (x : Turn), x.sound s = true → ∃ t, s.move x = .next t) ∧
  ∀ (s : State) (x : Turn) (r : List Turn), s.inputs = x :: r → x.sound s = true → ∃ t, step s = .next t

/-- Every step keeps the canonical form of device memory and of the scratchpads, from every state. -/
def Obligations.CanonicalKept : Prop := ∀ s t : State, s.canonical → step s = .next t → t.canonical
end

