-- ==== Sys2Proof/Laws/Map.lean ====
section
/-! SUPPORT. Laws of maps by number and of bytes in memory: what is read after a write, and that the canonical form is kept. -/

namespace Sys2Proof.Machine

variable {α : Type}

namespace Map

@[simp] theorem find_nil (k : Nat) : Map.find ([] : Map α) k = none := rfl

@[simp] theorem find_cons (j k : Nat) (v : α) (m : Map α) : Map.find ((j, v) :: m) k = if j = k then some v else Map.find m k := rfl

@[simp] theorem find_ins_self (m : Map α) (k : Nat) (v : α) : (m.ins k v).find k = some v := by
  induction m with
  | nil => simp [ins]
  | cons x r ih =>
    obtain ⟨j, u⟩ := x
    unfold ins
    split
    · simp [find]
    · split
      · simp [find]
      · simp [find, *]

theorem find_ins_ne (m : Map α) {k l : Nat} (v : α) (h : l ≠ k) : (m.ins k v).find l = m.find l := by
  induction m with
  | nil => simp [ins, find, h.symm]
  | cons x r ih =>
    obtain ⟨j, u⟩ := x
    unfold ins
    split
    · simp [find, h.symm]
    · split
      · subst_vars; simp [find, h.symm]
      · simp [find, ih]

theorem find_ins (m : Map α) (k l : Nat) (v : α) : (m.ins k v).find l = if l = k then some v else m.find l := by
  by_cases h : l = k
  · subst h; simp
  · simp [find_ins_ne _ _ h, h]

theorem find_del (m : Map α) (k l : Nat) : (m.del k).find l = if l = k then none else m.find l := by
  induction m with
  | nil => simp [del, find]
  | cons x r ih =>
    obtain ⟨j, u⟩ := x
    unfold del
    split
    · rename_i hj
      subst hj
      rw [ih]
      by_cases h : l = j
      · simp [h]
      · simp [h, Ne.symm h]
    · rename_i hj
      simp only [find, ih]
      by_cases h : l = k
      · subst h; simp [hj]
      · simp [h]

theorem find_mod (m : Map α) (k l : Nat) (f : α → α) : (m.mod k f).find l = if l = k then (m.find l).map f else m.find l := by
  induction m with
  | nil => simp [mod, find]
  | cons x r ih =>
    obtain ⟨j, u⟩ := x
    unfold mod
    by_cases hj : j = k
    · subst hj
      by_cases h : l = j
      · subst h; simp [find]
      · simp [find, h, Ne.symm h]
    · simp only [hj, if_false, find, ih]
      by_cases h : l = k
      · subst h; simp [hj]
      · simp [h]

theorem mod_mod (m : Map α) (k : Nat) (f g : α → α) : (m.mod k f).mod k g = m.mod k fun x => g (f x) := by
  induction m with
  | nil => rfl
  | cons x r ih =>
    obtain ⟨j, u⟩ := x
    by_cases h : j = k
    · simp [mod, h]
    · simp [mod, h, ih]

theorem mod_congr (m : Map α) (k : Nat) (f g : α → α) (h : ∀ v, m.find k = some v → f v = g v) : m.mod k f = m.mod k g := by
  induction m with
  | nil => rfl
  | cons x r ih =>
    obtain ⟨j, u⟩ := x
    by_cases hj : j = k
    · subst hj; simp [mod, h u (by simp)]
    · simp only [mod, hj, if_false, List.cons.injEq, true_and]
      exact ih fun v hv => h v (by simp [hj, hv])

theorem find_each (m : Map α) (k : Nat) (f : Nat → α → α) : (m.each f).find k = (m.find k).map (f k) := by
  induction m with
  | nil => simp [each, find]
  | cons x r ih =>
    obtain ⟨j, u⟩ := x
    simp only [each, List.map_cons, find] at ih ⊢
    by_cases h : j = k
    · subst h; simp
    · simp [h, ih]

theorem get_eq (m : Map α) (k : Nat) (d : α) : m.get k d = (m.find k).getD d := rfl

/-- Reading after setting with zero left out. -/
@[simp] theorem get_put_self [DecidableEq α] (m : Map α) (z : α) (k : Nat) (v : α) : (m.put z k v).get k z = v := by
  unfold put get
  split
  · simp [find_del, *]
  · simp

theorem get_put_ne [DecidableEq α] (m : Map α) (z : α) {k l : Nat} (v : α) (h : l ≠ k) : (m.put z k v).get l z = m.get l z := by
  unfold put get
  split
  · simp [find_del, h]
  · simp [find_ins, h]

theorem get_put [DecidableEq α] (m : Map α) (z : α) (k l : Nat) (v : α) : (m.put z k v).get l z = if l = k then v else m.get l z := by
  by_cases h : l = k
  · subst h; simp
  · simp [get_put_ne _ _ _ h, h]

/-! ### The canonical form -/

/-- Every key of the map lies above. -/
def Above (k : Nat) (m : Map α) : Prop := ∀ x ∈ m, k < x.1

theorem sorted_cons {j : Nat} {u : α} {m : Map α} : Sorted ((j, u) :: m) = true ↔ Above j m ∧ Sorted m = true := by
  induction m generalizing j u with
  | nil => simp [Sorted, Above]
  | cons x r ih =>
    obtain ⟨k, v⟩ := x
    simp only [Sorted, Bool.and_eq_true, decide_eq_true_eq]
    constructor
    · rintro ⟨h, hs⟩
      refine ⟨?_, hs⟩
      intro y hy
      rcases List.mem_cons.1 hy with rfl | hy
      · exact h
      · exact Nat.lt_trans h ((ih.1 hs).1 y hy)
    · rintro ⟨h, hs⟩
      exact ⟨h (k, v) (by simp), hs⟩

theorem mem_ins {m : Map α} {k : Nat} {v : α} {x : Nat × α} (h : x ∈ m.ins k v) : x = (k, v) ∨ x ∈ m := by
  induction m with
  | nil => simp [ins] at h; exact .inl h
  | cons y r ih =>
    obtain ⟨j, u⟩ := y
    unfold ins at h
    split at h
    · simpa using h
    · split at h
      · rcases List.mem_cons.1 h with h | h
        · exact .inl h
        · exact .inr (List.mem_cons_of_mem _ h)
      · rcases List.mem_cons.1 h with h | h
        · exact .inr (by simp [h])
        · rcases ih h with h | h
          · exact .inl h
          · exact .inr (List.mem_cons_of_mem _ h)

theorem mem_del {m : Map α} {k : Nat} {x : Nat × α} (h : x ∈ m.del k) : x ∈ m := by
  induction m with
  | nil => simp [del] at h
  | cons y r ih =>
    obtain ⟨j, u⟩ := y
    unfold del at h
    split at h
    · exact List.mem_cons_of_mem _ (ih h)
    · rcases List.mem_cons.1 h with h | h
      · simp [h]
      · exact List.mem_cons_of_mem _ (ih h)

theorem sorted_ins (m : Map α) (k : Nat) (v : α) (h : Sorted m = true) : Sorted (m.ins k v) = true := by
  induction m with
  | nil => rfl
  | cons x r ih =>
    obtain ⟨j, u⟩ := x
    obtain ⟨ha, hs⟩ := sorted_cons.1 h
    unfold ins
    split
    · rename_i hk
      refine sorted_cons.2 ⟨?_, h⟩
      intro y hy
      rcases List.mem_cons.1 hy with rfl | hy
      · exact hk
      · exact Nat.lt_trans hk (ha y hy)
    · split
      · subst_vars; exact sorted_cons.2 ⟨ha, hs⟩
      · refine sorted_cons.2 ⟨?_, ih hs⟩
        intro y hy
        rcases mem_ins hy with rfl | hy
        · show j < k; omega
        · exact ha y hy

theorem sorted_del (m : Map α) (k : Nat) (h : Sorted m = true) : Sorted (m.del k) = true := by
  induction m with
  | nil => rfl
  | cons x r ih =>
    obtain ⟨j, u⟩ := x
    obtain ⟨ha, hs⟩ := sorted_cons.1 h
    unfold del
    split
    · exact ih hs
    · exact sorted_cons.2 ⟨fun y hy => ha y (mem_del hy), ih hs⟩

end Map

/-! ### Memory (MEMORY's canonical form) -/

theorem memory_wf_iff (m : List Host.Cell) : Memory.wf m = true ↔ Map.Sorted m = true ∧ ∀ c ∈ m, c.2 ≠ 0 := by
  simp [Memory.wf]

/-- Setting one byte keeps the canonical form. -/
theorem wf_put (m : List Host.Cell) (a : Nat) (b : Byte) (h : Memory.wf m = true) : Memory.wf (Map.put m 0 a b) = true := by
  rw [memory_wf_iff] at h ⊢
  unfold Map.put
  split
  · exact ⟨Map.sorted_del _ _ h.1, fun c hc => h.2 c (Map.mem_del hc)⟩
  · refine ⟨Map.sorted_ins _ _ _ h.1, fun c hc => ?_⟩
    rcases Map.mem_ins hc with rfl | hc
    · assumption
    · exact h.2 c hc

/-- Writing bytes keeps the canonical form. -/
theorem wf_wrBytes (bs : List Byte) (m : List Host.Cell) (a : Nat) (h : Memory.wf m = true) : Memory.wf (wrBytes m a bs) = true := by
  induction bs generalizing m a with
  | nil => exact h
  | cons b bs ih => exact ih _ _ (wf_put _ _ _ h)

/-- A byte outside the bytes written reads as before. -/
theorem get_wrBytes_out (bs : List Byte) (m : List Host.Cell) (a x : Nat) (h : x < a ∨ a + bs.length ≤ x) :
    Map.get (wrBytes m a bs) x 0 = Map.get m x 0 := by
  induction bs generalizing m a with
  | nil => rfl
  | cons b bs ih =>
    simp only [List.length_cons] at h
    rw [wrBytes, ih _ _ (by omega), Map.get_put_ne _ _ _ (by omega)]

/-- A byte written reads as written. -/
theorem get_wrBytes_in (bs : List Byte) (m : List Host.Cell) (a i : Nat) (h : i < bs.length) :
    Map.get (wrBytes m a bs) (a + i) 0 = bs[i] := by
  induction bs generalizing m a i with
  | nil => simp at h
  | cons b bs ih =>
    rw [wrBytes]
    cases i with
    | zero => rw [get_wrBytes_out _ _ _ _ (by omega)]; simp
    | succ i =>
      have := ih (Map.put m 0 a b) (a + 1) i (by simpa using h)
      rw [show a + (i + 1) = a + 1 + i by omega, this]; simp

/-- Bytes written read back. -/
theorem rd_wrBytes (bs : List Byte) (m : List Host.Cell) (a : Nat) : rdBytes (wrBytes m a bs) a bs.length = bs := by
  have key : ∀ (n b : Nat) (m : List Host.Cell), rdBytes m b n = (List.range n).map fun i => Map.get m (b + i) 0 := by
    intro n
    induction n with
    | zero => intro b m; rfl
    | succ n ih =>
      intro b m
      rw [rdBytes, ih, List.range_succ_eq_map]
      simp only [List.map_cons, List.map_map, Nat.add_zero, List.cons.injEq, true_and]
      exact List.map_congr_left fun i _ => by simp only [Function.comp]; congr 1; omega
  rw [key]
  refine List.ext_getElem (by simp) fun i h1 h2 => ?_
  simp only [List.getElem_map, List.getElem_range]
  exact get_wrBytes_in _ _ _ _ h2

/-- The memory of a die at reset, and after it is emptied, is canonical. -/
@[simp] theorem wf_nil : Memory.wf [] = true := rfl

end Sys2Proof.Machine
end

