-- ==== Sys2Proof/Laws/State.lean ====
section
/-! SUPPORT. One lemma per field of the state and per update of it. -/

namespace Sys2Proof.Machine

/-! ### `State.modDie` -/

@[simp] theorem State.modDie_now (s : State) (d : Nat) (f : Die → Die) : (s.modDie d f).now = s.now := rfl
@[simp] theorem State.modDie_ctr (s : State) (d : Nat) (f : Die → Die) : (s.modDie d f).ctr = s.ctr := rfl
@[simp] theorem State.modDie_turns (s : State) (d : Nat) (f : Die → Die) : (s.modDie d f).turns = s.turns := rfl
@[simp] theorem State.modDie_cur (s : State) (d : Nat) (f : Die → Die) : (s.modDie d f).cur = s.cur := rfl
@[simp] theorem State.modDie_ilen (s : State) (d : Nat) (f : Die → Die) : (s.modDie d f).ilen = s.ilen := rfl
@[simp] theorem State.modDie_inputs (s : State) (d : Nat) (f : Die → Die) : (s.modDie d f).inputs = s.inputs := rfl
@[simp] theorem State.modDie_uid (s : State) (d : Nat) (f : Die → Die) : (s.modDie d f).uid = s.uid := rfl
@[simp] theorem State.modDie_ptp (s : State) (d : Nat) (f : Die → Die) : (s.modDie d f).ptp = s.ptp := rfl
@[simp] theorem State.modDie_dies (s : State) (d : Nat) (f : Die → Die) : (s.modDie d f).dies = s.dies.mod d f := rfl
@[simp] theorem State.modDie_teams (s : State) (d : Nat) (f : Die → Die) : (s.modDie d f).teams = s.teams := rfl
@[simp] theorem State.modDie_frags (s : State) (d : Nat) (f : Die → Die) : (s.modDie d f).frags = s.frags := rfl
@[simp] theorem State.modDie_copies (s : State) (d : Nat) (f : Die → Die) : (s.modDie d f).copies = s.copies := rfl
@[simp] theorem State.modDie_engines (s : State) (d : Nat) (f : Die → Die) : (s.modDie d f).engines = s.engines := rfl
@[simp] theorem State.modDie_reqs (s : State) (d : Nat) (f : Die → Die) : (s.modDie d f).reqs = s.reqs := rfl
@[simp] theorem State.modDie_jobs (s : State) (d : Nat) (f : Die → Die) : (s.modDie d f).jobs = s.jobs := rfl
@[simp] theorem State.modDie_wires (s : State) (d : Nat) (f : Die → Die) : (s.modDie d f).wires = s.wires := rfl
@[simp] theorem State.modDie_outward (s : State) (d : Nat) (f : Die → Die) : (s.modDie d f).outward = s.outward := rfl
@[simp] theorem State.modDie_nodes (s : State) (d : Nat) (f : Die → Die) : (s.modDie d f).nodes = s.nodes := rfl
@[simp] theorem State.modDie_egress (s : State) (d : Nat) (f : Die → Die) : (s.modDie d f).egress = s.egress := rfl
@[simp] theorem State.modDie_retries (s : State) (d : Nat) (f : Die → Die) : (s.modDie d f).retries = s.retries := rfl
@[simp] theorem State.modDie_scWrites (s : State) (d : Nat) (f : Die → Die) : (s.modDie d f).scWrites = s.scWrites := rfl
@[simp] theorem State.modDie_lastScalar (s : State) (d : Nat) (f : Die → Die) : (s.modDie d f).lastScalar = s.lastScalar := rfl
@[simp] theorem State.modDie_lastSeq (s : State) (d : Nat) (f : Die → Die) : (s.modDie d f).lastSeq = s.lastSeq := rfl
@[simp] theorem State.modDie_lastStart (s : State) (d : Nat) (f : Die → Die) : (s.modDie d f).lastStart = s.lastStart := rfl
@[simp] theorem State.modDie_lastQueue (s : State) (d : Nat) (f : Die → Die) : (s.modDie d f).lastQueue = s.lastQueue := rfl
@[simp] theorem State.modDie_flits (s : State) (d : Nat) (f : Die → Die) : (s.modDie d f).flits = s.flits := rfl
@[simp] theorem State.modDie_credits (s : State) (d : Nat) (f : Die → Die) : (s.modDie d f).credits = s.credits := rfl
@[simp] theorem State.modDie_gqueue (s : State) (d : Nat) (f : Die → Die) : (s.modDie d f).gqueue = s.gqueue := rfl
@[simp] theorem State.modDie_gstall (s : State) (d : Nat) (f : Die → Die) : (s.modDie d f).gstall = s.gstall := rfl
@[simp] theorem State.modDie_trips (s : State) (d : Nat) (f : Die → Die) : (s.modDie d f).trips = s.trips := rfl
@[simp] theorem State.modDie_groups (s : State) (d : Nat) (f : Die → Die) : (s.modDie d f).groups = s.groups := rfl
@[simp] theorem State.modDie_netops (s : State) (d : Nat) (f : Die → Die) : (s.modDie d f).netops = s.netops := rfl
@[simp] theorem State.modDie_netqs (s : State) (d : Nat) (f : Die → Die) : (s.modDie d f).netqs = s.netqs := rfl
@[simp] theorem State.modDie_bundles (s : State) (d : Nat) (f : Die → Die) : (s.modDie d f).bundles = s.bundles := rfl
@[simp] theorem State.modDie_ident (s : State) (d : Nat) (f : Die → Die) : (s.modDie d f).ident = s.ident := rfl
@[simp] theorem State.modDie_partitions (s : State) (d : Nat) (f : Die → Die) : (s.modDie d f).partitions = s.partitions := rfl
@[simp] theorem State.modDie_keys (s : State) (d : Nat) (f : Die → Die) : (s.modDie d f).keys = s.keys := rfl
@[simp] theorem State.modDie_integrity (s : State) (d : Nat) (f : Die → Die) : (s.modDie d f).integrity = s.integrity := rfl
@[simp] theorem State.modDie_failed (s : State) (d : Nat) (f : Die → Die) : (s.modDie d f).failed = s.failed := rfl
@[simp] theorem State.modDie_draining (s : State) (d : Nat) (f : Die → Die) : (s.modDie d f).draining = s.draining := rfl
@[simp] theorem State.modDie_ports (s : State) (d : Nat) (f : Die → Die) : (s.modDie d f).ports = s.ports := rfl
@[simp] theorem State.modDie_gports (s : State) (d : Nat) (f : Die → Die) : (s.modDie d f).gports = s.gports := rfl
@[simp] theorem State.modDie_lost (s : State) (d : Nat) (f : Die → Die) : (s.modDie d f).lost = s.lost := rfl
@[simp] theorem State.modDie_link (s : State) (d : Nat) (f : Die → Die) : (s.modDie d f).link = s.link := rfl
@[simp] theorem State.modDie_vfs (s : State) (d : Nat) (f : Die → Die) : (s.modDie d f).vfs = s.vfs := rfl
@[simp] theorem State.modDie_cmd (s : State) (d : Nat) (f : Die → Die) : (s.modDie d f).cmd = s.cmd := rfl
@[simp] theorem State.modDie_spdm (s : State) (d : Nat) (f : Die → Die) : (s.modDie d f).spdm = s.spdm := rfl
@[simp] theorem State.modDie_pstate (s : State) (d : Nat) (f : Die → Die) : (s.modDie d f).pstate = s.pstate := rfl
@[simp] theorem State.modDie_goal (s : State) (d : Nat) (f : Die → Die) : (s.modDie d f).goal = s.goal := rfl
@[simp] theorem State.modDie_cap (s : State) (d : Nat) (f : Die → Die) : (s.modDie d f).cap = s.cap := rfl
@[simp] theorem State.modDie_below (s : State) (d : Nat) (f : Die → Die) : (s.modDie d f).below = s.below := rfl
@[simp] theorem State.modDie_thermal (s : State) (d : Nat) (f : Die → Die) : (s.modDie d f).thermal = s.thermal := rfl
@[simp] theorem State.modDie_hot (s : State) (d : Nat) (f : Die → Die) : (s.modDie d f).hot = s.hot := rfl
@[simp] theorem State.modDie_events (s : State) (d : Nat) (f : Die → Die) : (s.modDie d f).events = s.events := rfl
@[simp] theorem State.modDie_logHead (s : State) (d : Nat) (f : Die → Die) : (s.modDie d f).logHead = s.logHead := rfl
@[simp] theorem State.modDie_banks (s : State) (d : Nat) (f : Die → Die) : (s.modDie d f).banks = s.banks := rfl
@[simp] theorem State.modDie_updating (s : State) (d : Nat) (f : Die → Die) : (s.modDie d f).updating = s.updating := rfl
@[simp] theorem State.modDie_ways (s : State) (d : Nat) (f : Die → Die) : (s.modDie d f).ways = s.ways := rfl
@[simp] theorem State.modDie_slices (s : State) (d : Nat) (f : Die → Die) : (s.modDie d f).slices = s.slices := rfl
@[simp] theorem State.modDie_corrected (s : State) (d : Nat) (f : Die → Die) : (s.modDie d f).corrected = s.corrected := rfl
@[simp] theorem State.modDie_recent (s : State) (d : Nat) (f : Die → Die) : (s.modDie d f).recent = s.recent := rfl
@[simp] theorem State.modDie_faults (s : State) (d : Nat) (f : Die → Die) : (s.modDie d f).faults = s.faults := rfl
@[simp] theorem State.modDie_reported (s : State) (d : Nat) (f : Die → Die) : (s.modDie d f).reported = s.reported := rfl
@[simp] theorem State.modDie_ended (s : State) (d : Nat) (f : Die → Die) : (s.modDie d f).ended = s.ended := rfl
@[simp] theorem State.modDie_out (s : State) (d : Nat) (f : Die → Die) : (s.modDie d f).out = s.out := rfl

/-! ### `State.modTeam` -/

@[simp] theorem State.modTeam_now (s : State) (t : Nat) (f : Team → Team) : (s.modTeam t f).now = s.now := rfl
@[simp] theorem State.modTeam_ctr (s : State) (t : Nat) (f : Team → Team) : (s.modTeam t f).ctr = s.ctr := rfl
@[simp] theorem State.modTeam_turns (s : State) (t : Nat) (f : Team → Team) : (s.modTeam t f).turns = s.turns := rfl
@[simp] theorem State.modTeam_cur (s : State) (t : Nat) (f : Team → Team) : (s.modTeam t f).cur = s.cur := rfl
@[simp] theorem State.modTeam_ilen (s : State) (t : Nat) (f : Team → Team) : (s.modTeam t f).ilen = s.ilen := rfl
@[simp] theorem State.modTeam_inputs (s : State) (t : Nat) (f : Team → Team) : (s.modTeam t f).inputs = s.inputs := rfl
@[simp] theorem State.modTeam_uid (s : State) (t : Nat) (f : Team → Team) : (s.modTeam t f).uid = s.uid := rfl
@[simp] theorem State.modTeam_ptp (s : State) (t : Nat) (f : Team → Team) : (s.modTeam t f).ptp = s.ptp := rfl
@[simp] theorem State.modTeam_dies (s : State) (t : Nat) (f : Team → Team) : (s.modTeam t f).dies = s.dies := rfl
@[simp] theorem State.modTeam_teams (s : State) (t : Nat) (f : Team → Team) : (s.modTeam t f).teams = s.teams.mod t f := rfl
@[simp] theorem State.modTeam_frags (s : State) (t : Nat) (f : Team → Team) : (s.modTeam t f).frags = s.frags := rfl
@[simp] theorem State.modTeam_copies (s : State) (t : Nat) (f : Team → Team) : (s.modTeam t f).copies = s.copies := rfl
@[simp] theorem State.modTeam_engines (s : State) (t : Nat) (f : Team → Team) : (s.modTeam t f).engines = s.engines := rfl
@[simp] theorem State.modTeam_reqs (s : State) (t : Nat) (f : Team → Team) : (s.modTeam t f).reqs = s.reqs := rfl
@[simp] theorem State.modTeam_jobs (s : State) (t : Nat) (f : Team → Team) : (s.modTeam t f).jobs = s.jobs := rfl
@[simp] theorem State.modTeam_wires (s : State) (t : Nat) (f : Team → Team) : (s.modTeam t f).wires = s.wires := rfl
@[simp] theorem State.modTeam_outward (s : State) (t : Nat) (f : Team → Team) : (s.modTeam t f).outward = s.outward := rfl
@[simp] theorem State.modTeam_nodes (s : State) (t : Nat) (f : Team → Team) : (s.modTeam t f).nodes = s.nodes := rfl
@[simp] theorem State.modTeam_egress (s : State) (t : Nat) (f : Team → Team) : (s.modTeam t f).egress = s.egress := rfl
@[simp] theorem State.modTeam_retries (s : State) (t : Nat) (f : Team → Team) : (s.modTeam t f).retries = s.retries := rfl
@[simp] theorem State.modTeam_scWrites (s : State) (t : Nat) (f : Team → Team) : (s.modTeam t f).scWrites = s.scWrites := rfl
@[simp] theorem State.modTeam_lastScalar (s : State) (t : Nat) (f : Team → Team) : (s.modTeam t f).lastScalar = s.lastScalar := rfl
@[simp] theorem State.modTeam_lastSeq (s : State) (t : Nat) (f : Team → Team) : (s.modTeam t f).lastSeq = s.lastSeq := rfl
@[simp] theorem State.modTeam_lastStart (s : State) (t : Nat) (f : Team → Team) : (s.modTeam t f).lastStart = s.lastStart := rfl
@[simp] theorem State.modTeam_lastQueue (s : State) (t : Nat) (f : Team → Team) : (s.modTeam t f).lastQueue = s.lastQueue := rfl
@[simp] theorem State.modTeam_flits (s : State) (t : Nat) (f : Team → Team) : (s.modTeam t f).flits = s.flits := rfl
@[simp] theorem State.modTeam_credits (s : State) (t : Nat) (f : Team → Team) : (s.modTeam t f).credits = s.credits := rfl
@[simp] theorem State.modTeam_gqueue (s : State) (t : Nat) (f : Team → Team) : (s.modTeam t f).gqueue = s.gqueue := rfl
@[simp] theorem State.modTeam_gstall (s : State) (t : Nat) (f : Team → Team) : (s.modTeam t f).gstall = s.gstall := rfl
@[simp] theorem State.modTeam_trips (s : State) (t : Nat) (f : Team → Team) : (s.modTeam t f).trips = s.trips := rfl
@[simp] theorem State.modTeam_groups (s : State) (t : Nat) (f : Team → Team) : (s.modTeam t f).groups = s.groups := rfl
@[simp] theorem State.modTeam_netops (s : State) (t : Nat) (f : Team → Team) : (s.modTeam t f).netops = s.netops := rfl
@[simp] theorem State.modTeam_netqs (s : State) (t : Nat) (f : Team → Team) : (s.modTeam t f).netqs = s.netqs := rfl
@[simp] theorem State.modTeam_bundles (s : State) (t : Nat) (f : Team → Team) : (s.modTeam t f).bundles = s.bundles := rfl
@[simp] theorem State.modTeam_ident (s : State) (t : Nat) (f : Team → Team) : (s.modTeam t f).ident = s.ident := rfl
@[simp] theorem State.modTeam_partitions (s : State) (t : Nat) (f : Team → Team) : (s.modTeam t f).partitions = s.partitions := rfl
@[simp] theorem State.modTeam_keys (s : State) (t : Nat) (f : Team → Team) : (s.modTeam t f).keys = s.keys := rfl
@[simp] theorem State.modTeam_integrity (s : State) (t : Nat) (f : Team → Team) : (s.modTeam t f).integrity = s.integrity := rfl
@[simp] theorem State.modTeam_failed (s : State) (t : Nat) (f : Team → Team) : (s.modTeam t f).failed = s.failed := rfl
@[simp] theorem State.modTeam_draining (s : State) (t : Nat) (f : Team → Team) : (s.modTeam t f).draining = s.draining := rfl
@[simp] theorem State.modTeam_ports (s : State) (t : Nat) (f : Team → Team) : (s.modTeam t f).ports = s.ports := rfl
@[simp] theorem State.modTeam_gports (s : State) (t : Nat) (f : Team → Team) : (s.modTeam t f).gports = s.gports := rfl
@[simp] theorem State.modTeam_lost (s : State) (t : Nat) (f : Team → Team) : (s.modTeam t f).lost = s.lost := rfl
@[simp] theorem State.modTeam_link (s : State) (t : Nat) (f : Team → Team) : (s.modTeam t f).link = s.link := rfl
@[simp] theorem State.modTeam_vfs (s : State) (t : Nat) (f : Team → Team) : (s.modTeam t f).vfs = s.vfs := rfl
@[simp] theorem State.modTeam_cmd (s : State) (t : Nat) (f : Team → Team) : (s.modTeam t f).cmd = s.cmd := rfl
@[simp] theorem State.modTeam_spdm (s : State) (t : Nat) (f : Team → Team) : (s.modTeam t f).spdm = s.spdm := rfl
@[simp] theorem State.modTeam_pstate (s : State) (t : Nat) (f : Team → Team) : (s.modTeam t f).pstate = s.pstate := rfl
@[simp] theorem State.modTeam_goal (s : State) (t : Nat) (f : Team → Team) : (s.modTeam t f).goal = s.goal := rfl
@[simp] theorem State.modTeam_cap (s : State) (t : Nat) (f : Team → Team) : (s.modTeam t f).cap = s.cap := rfl
@[simp] theorem State.modTeam_below (s : State) (t : Nat) (f : Team → Team) : (s.modTeam t f).below = s.below := rfl
@[simp] theorem State.modTeam_thermal (s : State) (t : Nat) (f : Team → Team) : (s.modTeam t f).thermal = s.thermal := rfl
@[simp] theorem State.modTeam_hot (s : State) (t : Nat) (f : Team → Team) : (s.modTeam t f).hot = s.hot := rfl
@[simp] theorem State.modTeam_events (s : State) (t : Nat) (f : Team → Team) : (s.modTeam t f).events = s.events := rfl
@[simp] theorem State.modTeam_logHead (s : State) (t : Nat) (f : Team → Team) : (s.modTeam t f).logHead = s.logHead := rfl
@[simp] theorem State.modTeam_banks (s : State) (t : Nat) (f : Team → Team) : (s.modTeam t f).banks = s.banks := rfl
@[simp] theorem State.modTeam_updating (s : State) (t : Nat) (f : Team → Team) : (s.modTeam t f).updating = s.updating := rfl
@[simp] theorem State.modTeam_ways (s : State) (t : Nat) (f : Team → Team) : (s.modTeam t f).ways = s.ways := rfl
@[simp] theorem State.modTeam_slices (s : State) (t : Nat) (f : Team → Team) : (s.modTeam t f).slices = s.slices := rfl
@[simp] theorem State.modTeam_corrected (s : State) (t : Nat) (f : Team → Team) : (s.modTeam t f).corrected = s.corrected := rfl
@[simp] theorem State.modTeam_recent (s : State) (t : Nat) (f : Team → Team) : (s.modTeam t f).recent = s.recent := rfl
@[simp] theorem State.modTeam_faults (s : State) (t : Nat) (f : Team → Team) : (s.modTeam t f).faults = s.faults := rfl
@[simp] theorem State.modTeam_reported (s : State) (t : Nat) (f : Team → Team) : (s.modTeam t f).reported = s.reported := rfl
@[simp] theorem State.modTeam_ended (s : State) (t : Nat) (f : Team → Team) : (s.modTeam t f).ended = s.ended := rfl
@[simp] theorem State.modTeam_out (s : State) (t : Nat) (f : Team → Team) : (s.modTeam t f).out = s.out := rfl

/-! ### `State.modWarp` -/

@[simp] theorem State.modWarp_now (s : State) (t w : Nat) (f : Warp → Warp) : (s.modWarp t w f).now = s.now := rfl
@[simp] theorem State.modWarp_ctr (s : State) (t w : Nat) (f : Warp → Warp) : (s.modWarp t w f).ctr = s.ctr := rfl
@[simp] theorem State.modWarp_turns (s : State) (t w : Nat) (f : Warp → Warp) : (s.modWarp t w f).turns = s.turns := rfl
@[simp] theorem State.modWarp_cur (s : State) (t w : Nat) (f : Warp → Warp) : (s.modWarp t w f).cur = s.cur := rfl
@[simp] theorem State.modWarp_ilen (s : State) (t w : Nat) (f : Warp → Warp) : (s.modWarp t w f).ilen = s.ilen := rfl
@[simp] theorem State.modWarp_inputs (s : State) (t w : Nat) (f : Warp → Warp) : (s.modWarp t w f).inputs = s.inputs := rfl
@[simp] theorem State.modWarp_uid (s : State) (t w : Nat) (f : Warp → Warp) : (s.modWarp t w f).uid = s.uid := rfl
@[simp] theorem State.modWarp_ptp (s : State) (t w : Nat) (f : Warp → Warp) : (s.modWarp t w f).ptp = s.ptp := rfl
@[simp] theorem State.modWarp_dies (s : State) (t w : Nat) (f : Warp → Warp) : (s.modWarp t w f).dies = s.dies := rfl
@[simp] theorem State.modWarp_teams (s : State) (t w : Nat) (f : Warp → Warp) : (s.modWarp t w f).teams = s.teams.mod t fun T => T.modWarp w f := rfl
@[simp] theorem State.modWarp_frags (s : State) (t w : Nat) (f : Warp → Warp) : (s.modWarp t w f).frags = s.frags := rfl
@[simp] theorem State.modWarp_copies (s : State) (t w : Nat) (f : Warp → Warp) : (s.modWarp t w f).copies = s.copies := rfl
@[simp] theorem State.modWarp_engines (s : State) (t w : Nat) (f : Warp → Warp) : (s.modWarp t w f).engines = s.engines := rfl
@[simp] theorem State.modWarp_reqs (s : State) (t w : Nat) (f : Warp → Warp) : (s.modWarp t w f).reqs = s.reqs := rfl
@[simp] theorem State.modWarp_jobs (s : State) (t w : Nat) (f : Warp → Warp) : (s.modWarp t w f).jobs = s.jobs := rfl
@[simp] theorem State.modWarp_wires (s : State) (t w : Nat) (f : Warp → Warp) : (s.modWarp t w f).wires = s.wires := rfl
@[simp] theorem State.modWarp_outward (s : State) (t w : Nat) (f : Warp → Warp) : (s.modWarp t w f).outward = s.outward := rfl
@[simp] theorem State.modWarp_nodes (s : State) (t w : Nat) (f : Warp → Warp) : (s.modWarp t w f).nodes = s.nodes := rfl
@[simp] theorem State.modWarp_egress (s : State) (t w : Nat) (f : Warp → Warp) : (s.modWarp t w f).egress = s.egress := rfl
@[simp] theorem State.modWarp_retries (s : State) (t w : Nat) (f : Warp → Warp) : (s.modWarp t w f).retries = s.retries := rfl
@[simp] theorem State.modWarp_scWrites (s : State) (t w : Nat) (f : Warp → Warp) : (s.modWarp t w f).scWrites = s.scWrites := rfl
@[simp] theorem State.modWarp_lastScalar (s : State) (t w : Nat) (f : Warp → Warp) : (s.modWarp t w f).lastScalar = s.lastScalar := rfl
@[simp] theorem State.modWarp_lastSeq (s : State) (t w : Nat) (f : Warp → Warp) : (s.modWarp t w f).lastSeq = s.lastSeq := rfl
@[simp] theorem State.modWarp_lastStart (s : State) (t w : Nat) (f : Warp → Warp) : (s.modWarp t w f).lastStart = s.lastStart := rfl
@[simp] theorem State.modWarp_lastQueue (s : State) (t w : Nat) (f : Warp → Warp) : (s.modWarp t w f).lastQueue = s.lastQueue := rfl
@[simp] theorem State.modWarp_flits (s : State) (t w : Nat) (f : Warp → Warp) : (s.modWarp t w f).flits = s.flits := rfl
@[simp] theorem State.modWarp_credits (s : State) (t w : Nat) (f : Warp → Warp) : (s.modWarp t w f).credits = s.credits := rfl
@[simp] theorem State.modWarp_gqueue (s : State) (t w : Nat) (f : Warp → Warp) : (s.modWarp t w f).gqueue = s.gqueue := rfl
@[simp] theorem State.modWarp_gstall (s : State) (t w : Nat) (f : Warp → Warp) : (s.modWarp t w f).gstall = s.gstall := rfl
@[simp] theorem State.modWarp_trips (s : State) (t w : Nat) (f : Warp → Warp) : (s.modWarp t w f).trips = s.trips := rfl
@[simp] theorem State.modWarp_groups (s : State) (t w : Nat) (f : Warp → Warp) : (s.modWarp t w f).groups = s.groups := rfl
@[simp] theorem State.modWarp_netops (s : State) (t w : Nat) (f : Warp → Warp) : (s.modWarp t w f).netops = s.netops := rfl
@[simp] theorem State.modWarp_netqs (s : State) (t w : Nat) (f : Warp → Warp) : (s.modWarp t w f).netqs = s.netqs := rfl
@[simp] theorem State.modWarp_bundles (s : State) (t w : Nat) (f : Warp → Warp) : (s.modWarp t w f).bundles = s.bundles := rfl
@[simp] theorem State.modWarp_ident (s : State) (t w : Nat) (f : Warp → Warp) : (s.modWarp t w f).ident = s.ident := rfl
@[simp] theorem State.modWarp_partitions (s : State) (t w : Nat) (f : Warp → Warp) : (s.modWarp t w f).partitions = s.partitions := rfl
@[simp] theorem State.modWarp_keys (s : State) (t w : Nat) (f : Warp → Warp) : (s.modWarp t w f).keys = s.keys := rfl
@[simp] theorem State.modWarp_integrity (s : State) (t w : Nat) (f : Warp → Warp) : (s.modWarp t w f).integrity = s.integrity := rfl
@[simp] theorem State.modWarp_failed (s : State) (t w : Nat) (f : Warp → Warp) : (s.modWarp t w f).failed = s.failed := rfl
@[simp] theorem State.modWarp_draining (s : State) (t w : Nat) (f : Warp → Warp) : (s.modWarp t w f).draining = s.draining := rfl
@[simp] theorem State.modWarp_ports (s : State) (t w : Nat) (f : Warp → Warp) : (s.modWarp t w f).ports = s.ports := rfl
@[simp] theorem State.modWarp_gports (s : State) (t w : Nat) (f : Warp → Warp) : (s.modWarp t w f).gports = s.gports := rfl
@[simp] theorem State.modWarp_lost (s : State) (t w : Nat) (f : Warp → Warp) : (s.modWarp t w f).lost = s.lost := rfl
@[simp] theorem State.modWarp_link (s : State) (t w : Nat) (f : Warp → Warp) : (s.modWarp t w f).link = s.link := rfl
@[simp] theorem State.modWarp_vfs (s : State) (t w : Nat) (f : Warp → Warp) : (s.modWarp t w f).vfs = s.vfs := rfl
@[simp] theorem State.modWarp_cmd (s : State) (t w : Nat) (f : Warp → Warp) : (s.modWarp t w f).cmd = s.cmd := rfl
@[simp] theorem State.modWarp_spdm (s : State) (t w : Nat) (f : Warp → Warp) : (s.modWarp t w f).spdm = s.spdm := rfl
@[simp] theorem State.modWarp_pstate (s : State) (t w : Nat) (f : Warp → Warp) : (s.modWarp t w f).pstate = s.pstate := rfl
@[simp] theorem State.modWarp_goal (s : State) (t w : Nat) (f : Warp → Warp) : (s.modWarp t w f).goal = s.goal := rfl
@[simp] theorem State.modWarp_cap (s : State) (t w : Nat) (f : Warp → Warp) : (s.modWarp t w f).cap = s.cap := rfl
@[simp] theorem State.modWarp_below (s : State) (t w : Nat) (f : Warp → Warp) : (s.modWarp t w f).below = s.below := rfl
@[simp] theorem State.modWarp_thermal (s : State) (t w : Nat) (f : Warp → Warp) : (s.modWarp t w f).thermal = s.thermal := rfl
@[simp] theorem State.modWarp_hot (s : State) (t w : Nat) (f : Warp → Warp) : (s.modWarp t w f).hot = s.hot := rfl
@[simp] theorem State.modWarp_events (s : State) (t w : Nat) (f : Warp → Warp) : (s.modWarp t w f).events = s.events := rfl
@[simp] theorem State.modWarp_logHead (s : State) (t w : Nat) (f : Warp → Warp) : (s.modWarp t w f).logHead = s.logHead := rfl
@[simp] theorem State.modWarp_banks (s : State) (t w : Nat) (f : Warp → Warp) : (s.modWarp t w f).banks = s.banks := rfl
@[simp] theorem State.modWarp_updating (s : State) (t w : Nat) (f : Warp → Warp) : (s.modWarp t w f).updating = s.updating := rfl
@[simp] theorem State.modWarp_ways (s : State) (t w : Nat) (f : Warp → Warp) : (s.modWarp t w f).ways = s.ways := rfl
@[simp] theorem State.modWarp_slices (s : State) (t w : Nat) (f : Warp → Warp) : (s.modWarp t w f).slices = s.slices := rfl
@[simp] theorem State.modWarp_corrected (s : State) (t w : Nat) (f : Warp → Warp) : (s.modWarp t w f).corrected = s.corrected := rfl
@[simp] theorem State.modWarp_recent (s : State) (t w : Nat) (f : Warp → Warp) : (s.modWarp t w f).recent = s.recent := rfl
@[simp] theorem State.modWarp_faults (s : State) (t w : Nat) (f : Warp → Warp) : (s.modWarp t w f).faults = s.faults := rfl
@[simp] theorem State.modWarp_reported (s : State) (t w : Nat) (f : Warp → Warp) : (s.modWarp t w f).reported = s.reported := rfl
@[simp] theorem State.modWarp_ended (s : State) (t w : Nat) (f : Warp → Warp) : (s.modWarp t w f).ended = s.ended := rfl
@[simp] theorem State.modWarp_out (s : State) (t w : Nat) (f : Warp → Warp) : (s.modWarp t w f).out = s.out := rfl

/-! ### `State.modSeq` -/

@[simp] theorem State.modSeq_now (s : State) (t : Nat) (f : Seq → Seq) : (s.modSeq t f).now = s.now := rfl
@[simp] theorem State.modSeq_ctr (s : State) (t : Nat) (f : Seq → Seq) : (s.modSeq t f).ctr = s.ctr := rfl
@[simp] theorem State.modSeq_turns (s : State) (t : Nat) (f : Seq → Seq) : (s.modSeq t f).turns = s.turns := rfl
@[simp] theorem State.modSeq_cur (s : State) (t : Nat) (f : Seq → Seq) : (s.modSeq t f).cur = s.cur := rfl
@[simp] theorem State.modSeq_ilen (s : State) (t : Nat) (f : Seq → Seq) : (s.modSeq t f).ilen = s.ilen := rfl
@[simp] theorem State.modSeq_inputs (s : State) (t : Nat) (f : Seq → Seq) : (s.modSeq t f).inputs = s.inputs := rfl
@[simp] theorem State.modSeq_uid (s : State) (t : Nat) (f : Seq → Seq) : (s.modSeq t f).uid = s.uid := rfl
@[simp] theorem State.modSeq_ptp (s : State) (t : Nat) (f : Seq → Seq) : (s.modSeq t f).ptp = s.ptp := rfl
@[simp] theorem State.modSeq_dies (s : State) (t : Nat) (f : Seq → Seq) : (s.modSeq t f).dies = s.dies := rfl
@[simp] theorem State.modSeq_teams (s : State) (t : Nat) (f : Seq → Seq) : (s.modSeq t f).teams = s.teams.mod t fun T => { T with seq := f T.seq } := rfl
@[simp] theorem State.modSeq_frags (s : State) (t : Nat) (f : Seq → Seq) : (s.modSeq t f).frags = s.frags := rfl
@[simp] theorem State.modSeq_copies (s : State) (t : Nat) (f : Seq → Seq) : (s.modSeq t f).copies = s.copies := rfl
@[simp] theorem State.modSeq_engines (s : State) (t : Nat) (f : Seq → Seq) : (s.modSeq t f).engines = s.engines := rfl
@[simp] theorem State.modSeq_reqs (s : State) (t : Nat) (f : Seq → Seq) : (s.modSeq t f).reqs = s.reqs := rfl
@[simp] theorem State.modSeq_jobs (s : State) (t : Nat) (f : Seq → Seq) : (s.modSeq t f).jobs = s.jobs := rfl
@[simp] theorem State.modSeq_wires (s : State) (t : Nat) (f : Seq → Seq) : (s.modSeq t f).wires = s.wires := rfl
@[simp] theorem State.modSeq_outward (s : State) (t : Nat) (f : Seq → Seq) : (s.modSeq t f).outward = s.outward := rfl
@[simp] theorem State.modSeq_nodes (s : State) (t : Nat) (f : Seq → Seq) : (s.modSeq t f).nodes = s.nodes := rfl
@[simp] theorem State.modSeq_egress (s : State) (t : Nat) (f : Seq → Seq) : (s.modSeq t f).egress = s.egress := rfl
@[simp] theorem State.modSeq_retries (s : State) (t : Nat) (f : Seq → Seq) : (s.modSeq t f).retries = s.retries := rfl
@[simp] theorem State.modSeq_scWrites (s : State) (t : Nat) (f : Seq → Seq) : (s.modSeq t f).scWrites = s.scWrites := rfl
@[simp] theorem State.modSeq_lastScalar (s : State) (t : Nat) (f : Seq → Seq) : (s.modSeq t f).lastScalar = s.lastScalar := rfl
@[simp] theorem State.modSeq_lastSeq (s : State) (t : Nat) (f : Seq → Seq) : (s.modSeq t f).lastSeq = s.lastSeq := rfl
@[simp] theorem State.modSeq_lastStart (s : State) (t : Nat) (f : Seq → Seq) : (s.modSeq t f).lastStart = s.lastStart := rfl
@[simp] theorem State.modSeq_lastQueue (s : State) (t : Nat) (f : Seq → Seq) : (s.modSeq t f).lastQueue = s.lastQueue := rfl
@[simp] theorem State.modSeq_flits (s : State) (t : Nat) (f : Seq → Seq) : (s.modSeq t f).flits = s.flits := rfl
@[simp] theorem State.modSeq_credits (s : State) (t : Nat) (f : Seq → Seq) : (s.modSeq t f).credits = s.credits := rfl
@[simp] theorem State.modSeq_gqueue (s : State) (t : Nat) (f : Seq → Seq) : (s.modSeq t f).gqueue = s.gqueue := rfl
@[simp] theorem State.modSeq_gstall (s : State) (t : Nat) (f : Seq → Seq) : (s.modSeq t f).gstall = s.gstall := rfl
@[simp] theorem State.modSeq_trips (s : State) (t : Nat) (f : Seq → Seq) : (s.modSeq t f).trips = s.trips := rfl
@[simp] theorem State.modSeq_groups (s : State) (t : Nat) (f : Seq → Seq) : (s.modSeq t f).groups = s.groups := rfl
@[simp] theorem State.modSeq_netops (s : State) (t : Nat) (f : Seq → Seq) : (s.modSeq t f).netops = s.netops := rfl
@[simp] theorem State.modSeq_netqs (s : State) (t : Nat) (f : Seq → Seq) : (s.modSeq t f).netqs = s.netqs := rfl
@[simp] theorem State.modSeq_bundles (s : State) (t : Nat) (f : Seq → Seq) : (s.modSeq t f).bundles = s.bundles := rfl
@[simp] theorem State.modSeq_ident (s : State) (t : Nat) (f : Seq → Seq) : (s.modSeq t f).ident = s.ident := rfl
@[simp] theorem State.modSeq_partitions (s : State) (t : Nat) (f : Seq → Seq) : (s.modSeq t f).partitions = s.partitions := rfl
@[simp] theorem State.modSeq_keys (s : State) (t : Nat) (f : Seq → Seq) : (s.modSeq t f).keys = s.keys := rfl
@[simp] theorem State.modSeq_integrity (s : State) (t : Nat) (f : Seq → Seq) : (s.modSeq t f).integrity = s.integrity := rfl
@[simp] theorem State.modSeq_failed (s : State) (t : Nat) (f : Seq → Seq) : (s.modSeq t f).failed = s.failed := rfl
@[simp] theorem State.modSeq_draining (s : State) (t : Nat) (f : Seq → Seq) : (s.modSeq t f).draining = s.draining := rfl
@[simp] theorem State.modSeq_ports (s : State) (t : Nat) (f : Seq → Seq) : (s.modSeq t f).ports = s.ports := rfl
@[simp] theorem State.modSeq_gports (s : State) (t : Nat) (f : Seq → Seq) : (s.modSeq t f).gports = s.gports := rfl
@[simp] theorem State.modSeq_lost (s : State) (t : Nat) (f : Seq → Seq) : (s.modSeq t f).lost = s.lost := rfl
@[simp] theorem State.modSeq_link (s : State) (t : Nat) (f : Seq → Seq) : (s.modSeq t f).link = s.link := rfl
@[simp] theorem State.modSeq_vfs (s : State) (t : Nat) (f : Seq → Seq) : (s.modSeq t f).vfs = s.vfs := rfl
@[simp] theorem State.modSeq_cmd (s : State) (t : Nat) (f : Seq → Seq) : (s.modSeq t f).cmd = s.cmd := rfl
@[simp] theorem State.modSeq_spdm (s : State) (t : Nat) (f : Seq → Seq) : (s.modSeq t f).spdm = s.spdm := rfl
@[simp] theorem State.modSeq_pstate (s : State) (t : Nat) (f : Seq → Seq) : (s.modSeq t f).pstate = s.pstate := rfl
@[simp] theorem State.modSeq_goal (s : State) (t : Nat) (f : Seq → Seq) : (s.modSeq t f).goal = s.goal := rfl
@[simp] theorem State.modSeq_cap (s : State) (t : Nat) (f : Seq → Seq) : (s.modSeq t f).cap = s.cap := rfl
@[simp] theorem State.modSeq_below (s : State) (t : Nat) (f : Seq → Seq) : (s.modSeq t f).below = s.below := rfl
@[simp] theorem State.modSeq_thermal (s : State) (t : Nat) (f : Seq → Seq) : (s.modSeq t f).thermal = s.thermal := rfl
@[simp] theorem State.modSeq_hot (s : State) (t : Nat) (f : Seq → Seq) : (s.modSeq t f).hot = s.hot := rfl
@[simp] theorem State.modSeq_events (s : State) (t : Nat) (f : Seq → Seq) : (s.modSeq t f).events = s.events := rfl
@[simp] theorem State.modSeq_logHead (s : State) (t : Nat) (f : Seq → Seq) : (s.modSeq t f).logHead = s.logHead := rfl
@[simp] theorem State.modSeq_banks (s : State) (t : Nat) (f : Seq → Seq) : (s.modSeq t f).banks = s.banks := rfl
@[simp] theorem State.modSeq_updating (s : State) (t : Nat) (f : Seq → Seq) : (s.modSeq t f).updating = s.updating := rfl
@[simp] theorem State.modSeq_ways (s : State) (t : Nat) (f : Seq → Seq) : (s.modSeq t f).ways = s.ways := rfl
@[simp] theorem State.modSeq_slices (s : State) (t : Nat) (f : Seq → Seq) : (s.modSeq t f).slices = s.slices := rfl
@[simp] theorem State.modSeq_corrected (s : State) (t : Nat) (f : Seq → Seq) : (s.modSeq t f).corrected = s.corrected := rfl
@[simp] theorem State.modSeq_recent (s : State) (t : Nat) (f : Seq → Seq) : (s.modSeq t f).recent = s.recent := rfl
@[simp] theorem State.modSeq_faults (s : State) (t : Nat) (f : Seq → Seq) : (s.modSeq t f).faults = s.faults := rfl
@[simp] theorem State.modSeq_reported (s : State) (t : Nat) (f : Seq → Seq) : (s.modSeq t f).reported = s.reported := rfl
@[simp] theorem State.modSeq_ended (s : State) (t : Nat) (f : Seq → Seq) : (s.modSeq t f).ended = s.ended := rfl
@[simp] theorem State.modSeq_out (s : State) (t : Nat) (f : Seq → Seq) : (s.modSeq t f).out = s.out := rfl

/-! ### `State.modPath` -/

@[simp] theorem State.modPath_now (s : State) (t w : Nat) (b : Bool) (f : Path → Path) : (s.modPath t w b f).now = s.now := rfl
@[simp] theorem State.modPath_ctr (s : State) (t w : Nat) (b : Bool) (f : Path → Path) : (s.modPath t w b f).ctr = s.ctr := rfl
@[simp] theorem State.modPath_turns (s : State) (t w : Nat) (b : Bool) (f : Path → Path) : (s.modPath t w b f).turns = s.turns := rfl
@[simp] theorem State.modPath_cur (s : State) (t w : Nat) (b : Bool) (f : Path → Path) : (s.modPath t w b f).cur = s.cur := rfl
@[simp] theorem State.modPath_ilen (s : State) (t w : Nat) (b : Bool) (f : Path → Path) : (s.modPath t w b f).ilen = s.ilen := rfl
@[simp] theorem State.modPath_inputs (s : State) (t w : Nat) (b : Bool) (f : Path → Path) : (s.modPath t w b f).inputs = s.inputs := rfl
@[simp] theorem State.modPath_uid (s : State) (t w : Nat) (b : Bool) (f : Path → Path) : (s.modPath t w b f).uid = s.uid := rfl
@[simp] theorem State.modPath_ptp (s : State) (t w : Nat) (b : Bool) (f : Path → Path) : (s.modPath t w b f).ptp = s.ptp := rfl
@[simp] theorem State.modPath_dies (s : State) (t w : Nat) (b : Bool) (f : Path → Path) : (s.modPath t w b f).dies = s.dies := rfl
@[simp] theorem State.modPath_teams (s : State) (t w : Nat) (b : Bool) (f : Path → Path) : (s.modPath t w b f).teams = (s.modWarp t w fun W => W.setPath b ((W.path b).map f)).teams := rfl
@[simp] theorem State.modPath_frags (s : State) (t w : Nat) (b : Bool) (f : Path → Path) : (s.modPath t w b f).frags = s.frags := rfl
@[simp] theorem State.modPath_copies (s : State) (t w : Nat) (b : Bool) (f : Path → Path) : (s.modPath t w b f).copies = s.copies := rfl
@[simp] theorem State.modPath_engines (s : State) (t w : Nat) (b : Bool) (f : Path → Path) : (s.modPath t w b f).engines = s.engines := rfl
@[simp] theorem State.modPath_reqs (s : State) (t w : Nat) (b : Bool) (f : Path → Path) : (s.modPath t w b f).reqs = s.reqs := rfl
@[simp] theorem State.modPath_jobs (s : State) (t w : Nat) (b : Bool) (f : Path → Path) : (s.modPath t w b f).jobs = s.jobs := rfl
@[simp] theorem State.modPath_wires (s : State) (t w : Nat) (b : Bool) (f : Path → Path) : (s.modPath t w b f).wires = s.wires := rfl
@[simp] theorem State.modPath_outward (s : State) (t w : Nat) (b : Bool) (f : Path → Path) : (s.modPath t w b f).outward = s.outward := rfl
@[simp] theorem State.modPath_nodes (s : State) (t w : Nat) (b : Bool) (f : Path → Path) : (s.modPath t w b f).nodes = s.nodes := rfl
@[simp] theorem State.modPath_egress (s : State) (t w : Nat) (b : Bool) (f : Path → Path) : (s.modPath t w b f).egress = s.egress := rfl
@[simp] theorem State.modPath_retries (s : State) (t w : Nat) (b : Bool) (f : Path → Path) : (s.modPath t w b f).retries = s.retries := rfl
@[simp] theorem State.modPath_scWrites (s : State) (t w : Nat) (b : Bool) (f : Path → Path) : (s.modPath t w b f).scWrites = s.scWrites := rfl
@[simp] theorem State.modPath_lastScalar (s : State) (t w : Nat) (b : Bool) (f : Path → Path) : (s.modPath t w b f).lastScalar = s.lastScalar := rfl
@[simp] theorem State.modPath_lastSeq (s : State) (t w : Nat) (b : Bool) (f : Path → Path) : (s.modPath t w b f).lastSeq = s.lastSeq := rfl
@[simp] theorem State.modPath_lastStart (s : State) (t w : Nat) (b : Bool) (f : Path → Path) : (s.modPath t w b f).lastStart = s.lastStart := rfl
@[simp] theorem State.modPath_lastQueue (s : State) (t w : Nat) (b : Bool) (f : Path → Path) : (s.modPath t w b f).lastQueue = s.lastQueue := rfl
@[simp] theorem State.modPath_flits (s : State) (t w : Nat) (b : Bool) (f : Path → Path) : (s.modPath t w b f).flits = s.flits := rfl
@[simp] theorem State.modPath_credits (s : State) (t w : Nat) (b : Bool) (f : Path → Path) : (s.modPath t w b f).credits = s.credits := rfl
@[simp] theorem State.modPath_gqueue (s : State) (t w : Nat) (b : Bool) (f : Path → Path) : (s.modPath t w b f).gqueue = s.gqueue := rfl
@[simp] theorem State.modPath_gstall (s : State) (t w : Nat) (b : Bool) (f : Path → Path) : (s.modPath t w b f).gstall = s.gstall := rfl
@[simp] theorem State.modPath_trips (s : State) (t w : Nat) (b : Bool) (f : Path → Path) : (s.modPath t w b f).trips = s.trips := rfl
@[simp] theorem State.modPath_groups (s : State) (t w : Nat) (b : Bool) (f : Path → Path) : (s.modPath t w b f).groups = s.groups := rfl
@[simp] theorem State.modPath_netops (s : State) (t w : Nat) (b : Bool) (f : Path → Path) : (s.modPath t w b f).netops = s.netops := rfl
@[simp] theorem State.modPath_netqs (s : State) (t w : Nat) (b : Bool) (f : Path → Path) : (s.modPath t w b f).netqs = s.netqs := rfl
@[simp] theorem State.modPath_bundles (s : State) (t w : Nat) (b : Bool) (f : Path → Path) : (s.modPath t w b f).bundles = s.bundles := rfl
@[simp] theorem State.modPath_ident (s : State) (t w : Nat) (b : Bool) (f : Path → Path) : (s.modPath t w b f).ident = s.ident := rfl
@[simp] theorem State.modPath_partitions (s : State) (t w : Nat) (b : Bool) (f : Path → Path) : (s.modPath t w b f).partitions = s.partitions := rfl
@[simp] theorem State.modPath_keys (s : State) (t w : Nat) (b : Bool) (f : Path → Path) : (s.modPath t w b f).keys = s.keys := rfl
@[simp] theorem State.modPath_integrity (s : State) (t w : Nat) (b : Bool) (f : Path → Path) : (s.modPath t w b f).integrity = s.integrity := rfl
@[simp] theorem State.modPath_failed (s : State) (t w : Nat) (b : Bool) (f : Path → Path) : (s.modPath t w b f).failed = s.failed := rfl
@[simp] theorem State.modPath_draining (s : State) (t w : Nat) (b : Bool) (f : Path → Path) : (s.modPath t w b f).draining = s.draining := rfl
@[simp] theorem State.modPath_ports (s : State) (t w : Nat) (b : Bool) (f : Path → Path) : (s.modPath t w b f).ports = s.ports := rfl
@[simp] theorem State.modPath_gports (s : State) (t w : Nat) (b : Bool) (f : Path → Path) : (s.modPath t w b f).gports = s.gports := rfl
@[simp] theorem State.modPath_lost (s : State) (t w : Nat) (b : Bool) (f : Path → Path) : (s.modPath t w b f).lost = s.lost := rfl
@[simp] theorem State.modPath_link (s : State) (t w : Nat) (b : Bool) (f : Path → Path) : (s.modPath t w b f).link = s.link := rfl
@[simp] theorem State.modPath_vfs (s : State) (t w : Nat) (b : Bool) (f : Path → Path) : (s.modPath t w b f).vfs = s.vfs := rfl
@[simp] theorem State.modPath_cmd (s : State) (t w : Nat) (b : Bool) (f : Path → Path) : (s.modPath t w b f).cmd = s.cmd := rfl
@[simp] theorem State.modPath_spdm (s : State) (t w : Nat) (b : Bool) (f : Path → Path) : (s.modPath t w b f).spdm = s.spdm := rfl
@[simp] theorem State.modPath_pstate (s : State) (t w : Nat) (b : Bool) (f : Path → Path) : (s.modPath t w b f).pstate = s.pstate := rfl
@[simp] theorem State.modPath_goal (s : State) (t w : Nat) (b : Bool) (f : Path → Path) : (s.modPath t w b f).goal = s.goal := rfl
@[simp] theorem State.modPath_cap (s : State) (t w : Nat) (b : Bool) (f : Path → Path) : (s.modPath t w b f).cap = s.cap := rfl
@[simp] theorem State.modPath_below (s : State) (t w : Nat) (b : Bool) (f : Path → Path) : (s.modPath t w b f).below = s.below := rfl
@[simp] theorem State.modPath_thermal (s : State) (t w : Nat) (b : Bool) (f : Path → Path) : (s.modPath t w b f).thermal = s.thermal := rfl
@[simp] theorem State.modPath_hot (s : State) (t w : Nat) (b : Bool) (f : Path → Path) : (s.modPath t w b f).hot = s.hot := rfl
@[simp] theorem State.modPath_events (s : State) (t w : Nat) (b : Bool) (f : Path → Path) : (s.modPath t w b f).events = s.events := rfl
@[simp] theorem State.modPath_logHead (s : State) (t w : Nat) (b : Bool) (f : Path → Path) : (s.modPath t w b f).logHead = s.logHead := rfl
@[simp] theorem State.modPath_banks (s : State) (t w : Nat) (b : Bool) (f : Path → Path) : (s.modPath t w b f).banks = s.banks := rfl
@[simp] theorem State.modPath_updating (s : State) (t w : Nat) (b : Bool) (f : Path → Path) : (s.modPath t w b f).updating = s.updating := rfl
@[simp] theorem State.modPath_ways (s : State) (t w : Nat) (b : Bool) (f : Path → Path) : (s.modPath t w b f).ways = s.ways := rfl
@[simp] theorem State.modPath_slices (s : State) (t w : Nat) (b : Bool) (f : Path → Path) : (s.modPath t w b f).slices = s.slices := rfl
@[simp] theorem State.modPath_corrected (s : State) (t w : Nat) (b : Bool) (f : Path → Path) : (s.modPath t w b f).corrected = s.corrected := rfl
@[simp] theorem State.modPath_recent (s : State) (t w : Nat) (b : Bool) (f : Path → Path) : (s.modPath t w b f).recent = s.recent := rfl
@[simp] theorem State.modPath_faults (s : State) (t w : Nat) (b : Bool) (f : Path → Path) : (s.modPath t w b f).faults = s.faults := rfl
@[simp] theorem State.modPath_reported (s : State) (t w : Nat) (b : Bool) (f : Path → Path) : (s.modPath t w b f).reported = s.reported := rfl
@[simp] theorem State.modPath_ended (s : State) (t w : Nat) (b : Bool) (f : Path → Path) : (s.modPath t w b f).ended = s.ended := rfl
@[simp] theorem State.modPath_out (s : State) (t w : Nat) (b : Bool) (f : Path → Path) : (s.modPath t w b f).out = s.out := rfl

/-! ### `State.modFrag` -/

@[simp] theorem State.modFrag_now (s : State) (k : Nat) (f : Frag → Frag) : (s.modFrag k f).now = s.now := rfl
@[simp] theorem State.modFrag_ctr (s : State) (k : Nat) (f : Frag → Frag) : (s.modFrag k f).ctr = s.ctr := rfl
@[simp] theorem State.modFrag_turns (s : State) (k : Nat) (f : Frag → Frag) : (s.modFrag k f).turns = s.turns := rfl
@[simp] theorem State.modFrag_cur (s : State) (k : Nat) (f : Frag → Frag) : (s.modFrag k f).cur = s.cur := rfl
@[simp] theorem State.modFrag_ilen (s : State) (k : Nat) (f : Frag → Frag) : (s.modFrag k f).ilen = s.ilen := rfl
@[simp] theorem State.modFrag_inputs (s : State) (k : Nat) (f : Frag → Frag) : (s.modFrag k f).inputs = s.inputs := rfl
@[simp] theorem State.modFrag_uid (s : State) (k : Nat) (f : Frag → Frag) : (s.modFrag k f).uid = s.uid := rfl
@[simp] theorem State.modFrag_ptp (s : State) (k : Nat) (f : Frag → Frag) : (s.modFrag k f).ptp = s.ptp := rfl
@[simp] theorem State.modFrag_dies (s : State) (k : Nat) (f : Frag → Frag) : (s.modFrag k f).dies = s.dies := rfl
@[simp] theorem State.modFrag_teams (s : State) (k : Nat) (f : Frag → Frag) : (s.modFrag k f).teams = s.teams := rfl
@[simp] theorem State.modFrag_frags (s : State) (k : Nat) (f : Frag → Frag) : (s.modFrag k f).frags = s.frags.mod k f := rfl
@[simp] theorem State.modFrag_copies (s : State) (k : Nat) (f : Frag → Frag) : (s.modFrag k f).copies = s.copies := rfl
@[simp] theorem State.modFrag_engines (s : State) (k : Nat) (f : Frag → Frag) : (s.modFrag k f).engines = s.engines := rfl
@[simp] theorem State.modFrag_reqs (s : State) (k : Nat) (f : Frag → Frag) : (s.modFrag k f).reqs = s.reqs := rfl
@[simp] theorem State.modFrag_jobs (s : State) (k : Nat) (f : Frag → Frag) : (s.modFrag k f).jobs = s.jobs := rfl
@[simp] theorem State.modFrag_wires (s : State) (k : Nat) (f : Frag → Frag) : (s.modFrag k f).wires = s.wires := rfl
@[simp] theorem State.modFrag_outward (s : State) (k : Nat) (f : Frag → Frag) : (s.modFrag k f).outward = s.outward := rfl
@[simp] theorem State.modFrag_nodes (s : State) (k : Nat) (f : Frag → Frag) : (s.modFrag k f).nodes = s.nodes := rfl
@[simp] theorem State.modFrag_egress (s : State) (k : Nat) (f : Frag → Frag) : (s.modFrag k f).egress = s.egress := rfl
@[simp] theorem State.modFrag_retries (s : State) (k : Nat) (f : Frag → Frag) : (s.modFrag k f).retries = s.retries := rfl
@[simp] theorem State.modFrag_scWrites (s : State) (k : Nat) (f : Frag → Frag) : (s.modFrag k f).scWrites = s.scWrites := rfl
@[simp] theorem State.modFrag_lastScalar (s : State) (k : Nat) (f : Frag → Frag) : (s.modFrag k f).lastScalar = s.lastScalar := rfl
@[simp] theorem State.modFrag_lastSeq (s : State) (k : Nat) (f : Frag → Frag) : (s.modFrag k f).lastSeq = s.lastSeq := rfl
@[simp] theorem State.modFrag_lastStart (s : State) (k : Nat) (f : Frag → Frag) : (s.modFrag k f).lastStart = s.lastStart := rfl
@[simp] theorem State.modFrag_lastQueue (s : State) (k : Nat) (f : Frag → Frag) : (s.modFrag k f).lastQueue = s.lastQueue := rfl
@[simp] theorem State.modFrag_flits (s : State) (k : Nat) (f : Frag → Frag) : (s.modFrag k f).flits = s.flits := rfl
@[simp] theorem State.modFrag_credits (s : State) (k : Nat) (f : Frag → Frag) : (s.modFrag k f).credits = s.credits := rfl
@[simp] theorem State.modFrag_gqueue (s : State) (k : Nat) (f : Frag → Frag) : (s.modFrag k f).gqueue = s.gqueue := rfl
@[simp] theorem State.modFrag_gstall (s : State) (k : Nat) (f : Frag → Frag) : (s.modFrag k f).gstall = s.gstall := rfl
@[simp] theorem State.modFrag_trips (s : State) (k : Nat) (f : Frag → Frag) : (s.modFrag k f).trips = s.trips := rfl
@[simp] theorem State.modFrag_groups (s : State) (k : Nat) (f : Frag → Frag) : (s.modFrag k f).groups = s.groups := rfl
@[simp] theorem State.modFrag_netops (s : State) (k : Nat) (f : Frag → Frag) : (s.modFrag k f).netops = s.netops := rfl
@[simp] theorem State.modFrag_netqs (s : State) (k : Nat) (f : Frag → Frag) : (s.modFrag k f).netqs = s.netqs := rfl
@[simp] theorem State.modFrag_bundles (s : State) (k : Nat) (f : Frag → Frag) : (s.modFrag k f).bundles = s.bundles := rfl
@[simp] theorem State.modFrag_ident (s : State) (k : Nat) (f : Frag → Frag) : (s.modFrag k f).ident = s.ident := rfl
@[simp] theorem State.modFrag_partitions (s : State) (k : Nat) (f : Frag → Frag) : (s.modFrag k f).partitions = s.partitions := rfl
@[simp] theorem State.modFrag_keys (s : State) (k : Nat) (f : Frag → Frag) : (s.modFrag k f).keys = s.keys := rfl
@[simp] theorem State.modFrag_integrity (s : State) (k : Nat) (f : Frag → Frag) : (s.modFrag k f).integrity = s.integrity := rfl
@[simp] theorem State.modFrag_failed (s : State) (k : Nat) (f : Frag → Frag) : (s.modFrag k f).failed = s.failed := rfl
@[simp] theorem State.modFrag_draining (s : State) (k : Nat) (f : Frag → Frag) : (s.modFrag k f).draining = s.draining := rfl
@[simp] theorem State.modFrag_ports (s : State) (k : Nat) (f : Frag → Frag) : (s.modFrag k f).ports = s.ports := rfl
@[simp] theorem State.modFrag_gports (s : State) (k : Nat) (f : Frag → Frag) : (s.modFrag k f).gports = s.gports := rfl
@[simp] theorem State.modFrag_lost (s : State) (k : Nat) (f : Frag → Frag) : (s.modFrag k f).lost = s.lost := rfl
@[simp] theorem State.modFrag_link (s : State) (k : Nat) (f : Frag → Frag) : (s.modFrag k f).link = s.link := rfl
@[simp] theorem State.modFrag_vfs (s : State) (k : Nat) (f : Frag → Frag) : (s.modFrag k f).vfs = s.vfs := rfl
@[simp] theorem State.modFrag_cmd (s : State) (k : Nat) (f : Frag → Frag) : (s.modFrag k f).cmd = s.cmd := rfl
@[simp] theorem State.modFrag_spdm (s : State) (k : Nat) (f : Frag → Frag) : (s.modFrag k f).spdm = s.spdm := rfl
@[simp] theorem State.modFrag_pstate (s : State) (k : Nat) (f : Frag → Frag) : (s.modFrag k f).pstate = s.pstate := rfl
@[simp] theorem State.modFrag_goal (s : State) (k : Nat) (f : Frag → Frag) : (s.modFrag k f).goal = s.goal := rfl
@[simp] theorem State.modFrag_cap (s : State) (k : Nat) (f : Frag → Frag) : (s.modFrag k f).cap = s.cap := rfl
@[simp] theorem State.modFrag_below (s : State) (k : Nat) (f : Frag → Frag) : (s.modFrag k f).below = s.below := rfl
@[simp] theorem State.modFrag_thermal (s : State) (k : Nat) (f : Frag → Frag) : (s.modFrag k f).thermal = s.thermal := rfl
@[simp] theorem State.modFrag_hot (s : State) (k : Nat) (f : Frag → Frag) : (s.modFrag k f).hot = s.hot := rfl
@[simp] theorem State.modFrag_events (s : State) (k : Nat) (f : Frag → Frag) : (s.modFrag k f).events = s.events := rfl
@[simp] theorem State.modFrag_logHead (s : State) (k : Nat) (f : Frag → Frag) : (s.modFrag k f).logHead = s.logHead := rfl
@[simp] theorem State.modFrag_banks (s : State) (k : Nat) (f : Frag → Frag) : (s.modFrag k f).banks = s.banks := rfl
@[simp] theorem State.modFrag_updating (s : State) (k : Nat) (f : Frag → Frag) : (s.modFrag k f).updating = s.updating := rfl
@[simp] theorem State.modFrag_ways (s : State) (k : Nat) (f : Frag → Frag) : (s.modFrag k f).ways = s.ways := rfl
@[simp] theorem State.modFrag_slices (s : State) (k : Nat) (f : Frag → Frag) : (s.modFrag k f).slices = s.slices := rfl
@[simp] theorem State.modFrag_corrected (s : State) (k : Nat) (f : Frag → Frag) : (s.modFrag k f).corrected = s.corrected := rfl
@[simp] theorem State.modFrag_recent (s : State) (k : Nat) (f : Frag → Frag) : (s.modFrag k f).recent = s.recent := rfl
@[simp] theorem State.modFrag_faults (s : State) (k : Nat) (f : Frag → Frag) : (s.modFrag k f).faults = s.faults := rfl
@[simp] theorem State.modFrag_reported (s : State) (k : Nat) (f : Frag → Frag) : (s.modFrag k f).reported = s.reported := rfl
@[simp] theorem State.modFrag_ended (s : State) (k : Nat) (f : Frag → Frag) : (s.modFrag k f).ended = s.ended := rfl
@[simp] theorem State.modFrag_out (s : State) (k : Nat) (f : Frag → Frag) : (s.modFrag k f).out = s.out := rfl

/-! ### `State.modCopy` -/

@[simp] theorem State.modCopy_now (s : State) (k : Nat) (f : Copy → Copy) : (s.modCopy k f).now = s.now := rfl
@[simp] theorem State.modCopy_ctr (s : State) (k : Nat) (f : Copy → Copy) : (s.modCopy k f).ctr = s.ctr := rfl
@[simp] theorem State.modCopy_turns (s : State) (k : Nat) (f : Copy → Copy) : (s.modCopy k f).turns = s.turns := rfl
@[simp] theorem State.modCopy_cur (s : State) (k : Nat) (f : Copy → Copy) : (s.modCopy k f).cur = s.cur := rfl
@[simp] theorem State.modCopy_ilen (s : State) (k : Nat) (f : Copy → Copy) : (s.modCopy k f).ilen = s.ilen := rfl
@[simp] theorem State.modCopy_inputs (s : State) (k : Nat) (f : Copy → Copy) : (s.modCopy k f).inputs = s.inputs := rfl
@[simp] theorem State.modCopy_uid (s : State) (k : Nat) (f : Copy → Copy) : (s.modCopy k f).uid = s.uid := rfl
@[simp] theorem State.modCopy_ptp (s : State) (k : Nat) (f : Copy → Copy) : (s.modCopy k f).ptp = s.ptp := rfl
@[simp] theorem State.modCopy_dies (s : State) (k : Nat) (f : Copy → Copy) : (s.modCopy k f).dies = s.dies := rfl
@[simp] theorem State.modCopy_teams (s : State) (k : Nat) (f : Copy → Copy) : (s.modCopy k f).teams = s.teams := rfl
@[simp] theorem State.modCopy_frags (s : State) (k : Nat) (f : Copy → Copy) : (s.modCopy k f).frags = s.frags := rfl
@[simp] theorem State.modCopy_copies (s : State) (k : Nat) (f : Copy → Copy) : (s.modCopy k f).copies = s.copies.mod k f := rfl
@[simp] theorem State.modCopy_engines (s : State) (k : Nat) (f : Copy → Copy) : (s.modCopy k f).engines = s.engines := rfl
@[simp] theorem State.modCopy_reqs (s : State) (k : Nat) (f : Copy → Copy) : (s.modCopy k f).reqs = s.reqs := rfl
@[simp] theorem State.modCopy_jobs (s : State) (k : Nat) (f : Copy → Copy) : (s.modCopy k f).jobs = s.jobs := rfl
@[simp] theorem State.modCopy_wires (s : State) (k : Nat) (f : Copy → Copy) : (s.modCopy k f).wires = s.wires := rfl
@[simp] theorem State.modCopy_outward (s : State) (k : Nat) (f : Copy → Copy) : (s.modCopy k f).outward = s.outward := rfl
@[simp] theorem State.modCopy_nodes (s : State) (k : Nat) (f : Copy → Copy) : (s.modCopy k f).nodes = s.nodes := rfl
@[simp] theorem State.modCopy_egress (s : State) (k : Nat) (f : Copy → Copy) : (s.modCopy k f).egress = s.egress := rfl
@[simp] theorem State.modCopy_retries (s : State) (k : Nat) (f : Copy → Copy) : (s.modCopy k f).retries = s.retries := rfl
@[simp] theorem State.modCopy_scWrites (s : State) (k : Nat) (f : Copy → Copy) : (s.modCopy k f).scWrites = s.scWrites := rfl
@[simp] theorem State.modCopy_lastScalar (s : State) (k : Nat) (f : Copy → Copy) : (s.modCopy k f).lastScalar = s.lastScalar := rfl
@[simp] theorem State.modCopy_lastSeq (s : State) (k : Nat) (f : Copy → Copy) : (s.modCopy k f).lastSeq = s.lastSeq := rfl
@[simp] theorem State.modCopy_lastStart (s : State) (k : Nat) (f : Copy → Copy) : (s.modCopy k f).lastStart = s.lastStart := rfl
@[simp] theorem State.modCopy_lastQueue (s : State) (k : Nat) (f : Copy → Copy) : (s.modCopy k f).lastQueue = s.lastQueue := rfl
@[simp] theorem State.modCopy_flits (s : State) (k : Nat) (f : Copy → Copy) : (s.modCopy k f).flits = s.flits := rfl
@[simp] theorem State.modCopy_credits (s : State) (k : Nat) (f : Copy → Copy) : (s.modCopy k f).credits = s.credits := rfl
@[simp] theorem State.modCopy_gqueue (s : State) (k : Nat) (f : Copy → Copy) : (s.modCopy k f).gqueue = s.gqueue := rfl
@[simp] theorem State.modCopy_gstall (s : State) (k : Nat) (f : Copy → Copy) : (s.modCopy k f).gstall = s.gstall := rfl
@[simp] theorem State.modCopy_trips (s : State) (k : Nat) (f : Copy → Copy) : (s.modCopy k f).trips = s.trips := rfl
@[simp] theorem State.modCopy_groups (s : State) (k : Nat) (f : Copy → Copy) : (s.modCopy k f).groups = s.groups := rfl
@[simp] theorem State.modCopy_netops (s : State) (k : Nat) (f : Copy → Copy) : (s.modCopy k f).netops = s.netops := rfl
@[simp] theorem State.modCopy_netqs (s : State) (k : Nat) (f : Copy → Copy) : (s.modCopy k f).netqs = s.netqs := rfl
@[simp] theorem State.modCopy_bundles (s : State) (k : Nat) (f : Copy → Copy) : (s.modCopy k f).bundles = s.bundles := rfl
@[simp] theorem State.modCopy_ident (s : State) (k : Nat) (f : Copy → Copy) : (s.modCopy k f).ident = s.ident := rfl
@[simp] theorem State.modCopy_partitions (s : State) (k : Nat) (f : Copy → Copy) : (s.modCopy k f).partitions = s.partitions := rfl
@[simp] theorem State.modCopy_keys (s : State) (k : Nat) (f : Copy → Copy) : (s.modCopy k f).keys = s.keys := rfl
@[simp] theorem State.modCopy_integrity (s : State) (k : Nat) (f : Copy → Copy) : (s.modCopy k f).integrity = s.integrity := rfl
@[simp] theorem State.modCopy_failed (s : State) (k : Nat) (f : Copy → Copy) : (s.modCopy k f).failed = s.failed := rfl
@[simp] theorem State.modCopy_draining (s : State) (k : Nat) (f : Copy → Copy) : (s.modCopy k f).draining = s.draining := rfl
@[simp] theorem State.modCopy_ports (s : State) (k : Nat) (f : Copy → Copy) : (s.modCopy k f).ports = s.ports := rfl
@[simp] theorem State.modCopy_gports (s : State) (k : Nat) (f : Copy → Copy) : (s.modCopy k f).gports = s.gports := rfl
@[simp] theorem State.modCopy_lost (s : State) (k : Nat) (f : Copy → Copy) : (s.modCopy k f).lost = s.lost := rfl
@[simp] theorem State.modCopy_link (s : State) (k : Nat) (f : Copy → Copy) : (s.modCopy k f).link = s.link := rfl
@[simp] theorem State.modCopy_vfs (s : State) (k : Nat) (f : Copy → Copy) : (s.modCopy k f).vfs = s.vfs := rfl
@[simp] theorem State.modCopy_cmd (s : State) (k : Nat) (f : Copy → Copy) : (s.modCopy k f).cmd = s.cmd := rfl
@[simp] theorem State.modCopy_spdm (s : State) (k : Nat) (f : Copy → Copy) : (s.modCopy k f).spdm = s.spdm := rfl
@[simp] theorem State.modCopy_pstate (s : State) (k : Nat) (f : Copy → Copy) : (s.modCopy k f).pstate = s.pstate := rfl
@[simp] theorem State.modCopy_goal (s : State) (k : Nat) (f : Copy → Copy) : (s.modCopy k f).goal = s.goal := rfl
@[simp] theorem State.modCopy_cap (s : State) (k : Nat) (f : Copy → Copy) : (s.modCopy k f).cap = s.cap := rfl
@[simp] theorem State.modCopy_below (s : State) (k : Nat) (f : Copy → Copy) : (s.modCopy k f).below = s.below := rfl
@[simp] theorem State.modCopy_thermal (s : State) (k : Nat) (f : Copy → Copy) : (s.modCopy k f).thermal = s.thermal := rfl
@[simp] theorem State.modCopy_hot (s : State) (k : Nat) (f : Copy → Copy) : (s.modCopy k f).hot = s.hot := rfl
@[simp] theorem State.modCopy_events (s : State) (k : Nat) (f : Copy → Copy) : (s.modCopy k f).events = s.events := rfl
@[simp] theorem State.modCopy_logHead (s : State) (k : Nat) (f : Copy → Copy) : (s.modCopy k f).logHead = s.logHead := rfl
@[simp] theorem State.modCopy_banks (s : State) (k : Nat) (f : Copy → Copy) : (s.modCopy k f).banks = s.banks := rfl
@[simp] theorem State.modCopy_updating (s : State) (k : Nat) (f : Copy → Copy) : (s.modCopy k f).updating = s.updating := rfl
@[simp] theorem State.modCopy_ways (s : State) (k : Nat) (f : Copy → Copy) : (s.modCopy k f).ways = s.ways := rfl
@[simp] theorem State.modCopy_slices (s : State) (k : Nat) (f : Copy → Copy) : (s.modCopy k f).slices = s.slices := rfl
@[simp] theorem State.modCopy_corrected (s : State) (k : Nat) (f : Copy → Copy) : (s.modCopy k f).corrected = s.corrected := rfl
@[simp] theorem State.modCopy_recent (s : State) (k : Nat) (f : Copy → Copy) : (s.modCopy k f).recent = s.recent := rfl
@[simp] theorem State.modCopy_faults (s : State) (k : Nat) (f : Copy → Copy) : (s.modCopy k f).faults = s.faults := rfl
@[simp] theorem State.modCopy_reported (s : State) (k : Nat) (f : Copy → Copy) : (s.modCopy k f).reported = s.reported := rfl
@[simp] theorem State.modCopy_ended (s : State) (k : Nat) (f : Copy → Copy) : (s.modCopy k f).ended = s.ended := rfl
@[simp] theorem State.modCopy_out (s : State) (k : Nat) (f : Copy → Copy) : (s.modCopy k f).out = s.out := rfl

/-! ### `State.modNode` -/

@[simp] theorem State.modNode_now (s : State) (n : Nat) (f : Node → Node) : (s.modNode n f).now = s.now := rfl
@[simp] theorem State.modNode_ctr (s : State) (n : Nat) (f : Node → Node) : (s.modNode n f).ctr = s.ctr := rfl
@[simp] theorem State.modNode_turns (s : State) (n : Nat) (f : Node → Node) : (s.modNode n f).turns = s.turns := rfl
@[simp] theorem State.modNode_cur (s : State) (n : Nat) (f : Node → Node) : (s.modNode n f).cur = s.cur := rfl
@[simp] theorem State.modNode_ilen (s : State) (n : Nat) (f : Node → Node) : (s.modNode n f).ilen = s.ilen := rfl
@[simp] theorem State.modNode_inputs (s : State) (n : Nat) (f : Node → Node) : (s.modNode n f).inputs = s.inputs := rfl
@[simp] theorem State.modNode_uid (s : State) (n : Nat) (f : Node → Node) : (s.modNode n f).uid = s.uid := rfl
@[simp] theorem State.modNode_ptp (s : State) (n : Nat) (f : Node → Node) : (s.modNode n f).ptp = s.ptp := rfl
@[simp] theorem State.modNode_dies (s : State) (n : Nat) (f : Node → Node) : (s.modNode n f).dies = s.dies := rfl
@[simp] theorem State.modNode_teams (s : State) (n : Nat) (f : Node → Node) : (s.modNode n f).teams = s.teams := rfl
@[simp] theorem State.modNode_frags (s : State) (n : Nat) (f : Node → Node) : (s.modNode n f).frags = s.frags := rfl
@[simp] theorem State.modNode_copies (s : State) (n : Nat) (f : Node → Node) : (s.modNode n f).copies = s.copies := rfl
@[simp] theorem State.modNode_engines (s : State) (n : Nat) (f : Node → Node) : (s.modNode n f).engines = s.engines := rfl
@[simp] theorem State.modNode_reqs (s : State) (n : Nat) (f : Node → Node) : (s.modNode n f).reqs = s.reqs := rfl
@[simp] theorem State.modNode_jobs (s : State) (n : Nat) (f : Node → Node) : (s.modNode n f).jobs = s.jobs := rfl
@[simp] theorem State.modNode_wires (s : State) (n : Nat) (f : Node → Node) : (s.modNode n f).wires = s.wires := rfl
@[simp] theorem State.modNode_outward (s : State) (n : Nat) (f : Node → Node) : (s.modNode n f).outward = s.outward := rfl
@[simp] theorem State.modNode_nodes (s : State) (n : Nat) (f : Node → Node) : (s.modNode n f).nodes = s.nodes.mod n f := rfl
@[simp] theorem State.modNode_egress (s : State) (n : Nat) (f : Node → Node) : (s.modNode n f).egress = s.egress := rfl
@[simp] theorem State.modNode_retries (s : State) (n : Nat) (f : Node → Node) : (s.modNode n f).retries = s.retries := rfl
@[simp] theorem State.modNode_scWrites (s : State) (n : Nat) (f : Node → Node) : (s.modNode n f).scWrites = s.scWrites := rfl
@[simp] theorem State.modNode_lastScalar (s : State) (n : Nat) (f : Node → Node) : (s.modNode n f).lastScalar = s.lastScalar := rfl
@[simp] theorem State.modNode_lastSeq (s : State) (n : Nat) (f : Node → Node) : (s.modNode n f).lastSeq = s.lastSeq := rfl
@[simp] theorem State.modNode_lastStart (s : State) (n : Nat) (f : Node → Node) : (s.modNode n f).lastStart = s.lastStart := rfl
@[simp] theorem State.modNode_lastQueue (s : State) (n : Nat) (f : Node → Node) : (s.modNode n f).lastQueue = s.lastQueue := rfl
@[simp] theorem State.modNode_flits (s : State) (n : Nat) (f : Node → Node) : (s.modNode n f).flits = s.flits := rfl
@[simp] theorem State.modNode_credits (s : State) (n : Nat) (f : Node → Node) : (s.modNode n f).credits = s.credits := rfl
@[simp] theorem State.modNode_gqueue (s : State) (n : Nat) (f : Node → Node) : (s.modNode n f).gqueue = s.gqueue := rfl
@[simp] theorem State.modNode_gstall (s : State) (n : Nat) (f : Node → Node) : (s.modNode n f).gstall = s.gstall := rfl
@[simp] theorem State.modNode_trips (s : State) (n : Nat) (f : Node → Node) : (s.modNode n f).trips = s.trips := rfl
@[simp] theorem State.modNode_groups (s : State) (n : Nat) (f : Node → Node) : (s.modNode n f).groups = s.groups := rfl
@[simp] theorem State.modNode_netops (s : State) (n : Nat) (f : Node → Node) : (s.modNode n f).netops = s.netops := rfl
@[simp] theorem State.modNode_netqs (s : State) (n : Nat) (f : Node → Node) : (s.modNode n f).netqs = s.netqs := rfl
@[simp] theorem State.modNode_bundles (s : State) (n : Nat) (f : Node → Node) : (s.modNode n f).bundles = s.bundles := rfl
@[simp] theorem State.modNode_ident (s : State) (n : Nat) (f : Node → Node) : (s.modNode n f).ident = s.ident := rfl
@[simp] theorem State.modNode_partitions (s : State) (n : Nat) (f : Node → Node) : (s.modNode n f).partitions = s.partitions := rfl
@[simp] theorem State.modNode_keys (s : State) (n : Nat) (f : Node → Node) : (s.modNode n f).keys = s.keys := rfl
@[simp] theorem State.modNode_integrity (s : State) (n : Nat) (f : Node → Node) : (s.modNode n f).integrity = s.integrity := rfl
@[simp] theorem State.modNode_failed (s : State) (n : Nat) (f : Node → Node) : (s.modNode n f).failed = s.failed := rfl
@[simp] theorem State.modNode_draining (s : State) (n : Nat) (f : Node → Node) : (s.modNode n f).draining = s.draining := rfl
@[simp] theorem State.modNode_ports (s : State) (n : Nat) (f : Node → Node) : (s.modNode n f).ports = s.ports := rfl
@[simp] theorem State.modNode_gports (s : State) (n : Nat) (f : Node → Node) : (s.modNode n f).gports = s.gports := rfl
@[simp] theorem State.modNode_lost (s : State) (n : Nat) (f : Node → Node) : (s.modNode n f).lost = s.lost := rfl
@[simp] theorem State.modNode_link (s : State) (n : Nat) (f : Node → Node) : (s.modNode n f).link = s.link := rfl
@[simp] theorem State.modNode_vfs (s : State) (n : Nat) (f : Node → Node) : (s.modNode n f).vfs = s.vfs := rfl
@[simp] theorem State.modNode_cmd (s : State) (n : Nat) (f : Node → Node) : (s.modNode n f).cmd = s.cmd := rfl
@[simp] theorem State.modNode_spdm (s : State) (n : Nat) (f : Node → Node) : (s.modNode n f).spdm = s.spdm := rfl
@[simp] theorem State.modNode_pstate (s : State) (n : Nat) (f : Node → Node) : (s.modNode n f).pstate = s.pstate := rfl
@[simp] theorem State.modNode_goal (s : State) (n : Nat) (f : Node → Node) : (s.modNode n f).goal = s.goal := rfl
@[simp] theorem State.modNode_cap (s : State) (n : Nat) (f : Node → Node) : (s.modNode n f).cap = s.cap := rfl
@[simp] theorem State.modNode_below (s : State) (n : Nat) (f : Node → Node) : (s.modNode n f).below = s.below := rfl
@[simp] theorem State.modNode_thermal (s : State) (n : Nat) (f : Node → Node) : (s.modNode n f).thermal = s.thermal := rfl
@[simp] theorem State.modNode_hot (s : State) (n : Nat) (f : Node → Node) : (s.modNode n f).hot = s.hot := rfl
@[simp] theorem State.modNode_events (s : State) (n : Nat) (f : Node → Node) : (s.modNode n f).events = s.events := rfl
@[simp] theorem State.modNode_logHead (s : State) (n : Nat) (f : Node → Node) : (s.modNode n f).logHead = s.logHead := rfl
@[simp] theorem State.modNode_banks (s : State) (n : Nat) (f : Node → Node) : (s.modNode n f).banks = s.banks := rfl
@[simp] theorem State.modNode_updating (s : State) (n : Nat) (f : Node → Node) : (s.modNode n f).updating = s.updating := rfl
@[simp] theorem State.modNode_ways (s : State) (n : Nat) (f : Node → Node) : (s.modNode n f).ways = s.ways := rfl
@[simp] theorem State.modNode_slices (s : State) (n : Nat) (f : Node → Node) : (s.modNode n f).slices = s.slices := rfl
@[simp] theorem State.modNode_corrected (s : State) (n : Nat) (f : Node → Node) : (s.modNode n f).corrected = s.corrected := rfl
@[simp] theorem State.modNode_recent (s : State) (n : Nat) (f : Node → Node) : (s.modNode n f).recent = s.recent := rfl
@[simp] theorem State.modNode_faults (s : State) (n : Nat) (f : Node → Node) : (s.modNode n f).faults = s.faults := rfl
@[simp] theorem State.modNode_reported (s : State) (n : Nat) (f : Node → Node) : (s.modNode n f).reported = s.reported := rfl
@[simp] theorem State.modNode_ended (s : State) (n : Nat) (f : Node → Node) : (s.modNode n f).ended = s.ended := rfl
@[simp] theorem State.modNode_out (s : State) (n : Nat) (f : Node → Node) : (s.modNode n f).out = s.out := rfl

/-! ### `State.modGroup` -/

@[simp] theorem State.modGroup_now (s : State) (g : Nat) (f : Group → Group) : (s.modGroup g f).now = s.now := rfl
@[simp] theorem State.modGroup_ctr (s : State) (g : Nat) (f : Group → Group) : (s.modGroup g f).ctr = s.ctr := rfl
@[simp] theorem State.modGroup_turns (s : State) (g : Nat) (f : Group → Group) : (s.modGroup g f).turns = s.turns := rfl
@[simp] theorem State.modGroup_cur (s : State) (g : Nat) (f : Group → Group) : (s.modGroup g f).cur = s.cur := rfl
@[simp] theorem State.modGroup_ilen (s : State) (g : Nat) (f : Group → Group) : (s.modGroup g f).ilen = s.ilen := rfl
@[simp] theorem State.modGroup_inputs (s : State) (g : Nat) (f : Group → Group) : (s.modGroup g f).inputs = s.inputs := rfl
@[simp] theorem State.modGroup_uid (s : State) (g : Nat) (f : Group → Group) : (s.modGroup g f).uid = s.uid := rfl
@[simp] theorem State.modGroup_ptp (s : State) (g : Nat) (f : Group → Group) : (s.modGroup g f).ptp = s.ptp := rfl
@[simp] theorem State.modGroup_dies (s : State) (g : Nat) (f : Group → Group) : (s.modGroup g f).dies = s.dies := rfl
@[simp] theorem State.modGroup_teams (s : State) (g : Nat) (f : Group → Group) : (s.modGroup g f).teams = s.teams := rfl
@[simp] theorem State.modGroup_frags (s : State) (g : Nat) (f : Group → Group) : (s.modGroup g f).frags = s.frags := rfl
@[simp] theorem State.modGroup_copies (s : State) (g : Nat) (f : Group → Group) : (s.modGroup g f).copies = s.copies := rfl
@[simp] theorem State.modGroup_engines (s : State) (g : Nat) (f : Group → Group) : (s.modGroup g f).engines = s.engines := rfl
@[simp] theorem State.modGroup_reqs (s : State) (g : Nat) (f : Group → Group) : (s.modGroup g f).reqs = s.reqs := rfl
@[simp] theorem State.modGroup_jobs (s : State) (g : Nat) (f : Group → Group) : (s.modGroup g f).jobs = s.jobs := rfl
@[simp] theorem State.modGroup_wires (s : State) (g : Nat) (f : Group → Group) : (s.modGroup g f).wires = s.wires := rfl
@[simp] theorem State.modGroup_outward (s : State) (g : Nat) (f : Group → Group) : (s.modGroup g f).outward = s.outward := rfl
@[simp] theorem State.modGroup_nodes (s : State) (g : Nat) (f : Group → Group) : (s.modGroup g f).nodes = s.nodes := rfl
@[simp] theorem State.modGroup_egress (s : State) (g : Nat) (f : Group → Group) : (s.modGroup g f).egress = s.egress := rfl
@[simp] theorem State.modGroup_retries (s : State) (g : Nat) (f : Group → Group) : (s.modGroup g f).retries = s.retries := rfl
@[simp] theorem State.modGroup_scWrites (s : State) (g : Nat) (f : Group → Group) : (s.modGroup g f).scWrites = s.scWrites := rfl
@[simp] theorem State.modGroup_lastScalar (s : State) (g : Nat) (f : Group → Group) : (s.modGroup g f).lastScalar = s.lastScalar := rfl
@[simp] theorem State.modGroup_lastSeq (s : State) (g : Nat) (f : Group → Group) : (s.modGroup g f).lastSeq = s.lastSeq := rfl
@[simp] theorem State.modGroup_lastStart (s : State) (g : Nat) (f : Group → Group) : (s.modGroup g f).lastStart = s.lastStart := rfl
@[simp] theorem State.modGroup_lastQueue (s : State) (g : Nat) (f : Group → Group) : (s.modGroup g f).lastQueue = s.lastQueue := rfl
@[simp] theorem State.modGroup_flits (s : State) (g : Nat) (f : Group → Group) : (s.modGroup g f).flits = s.flits := rfl
@[simp] theorem State.modGroup_credits (s : State) (g : Nat) (f : Group → Group) : (s.modGroup g f).credits = s.credits := rfl
@[simp] theorem State.modGroup_gqueue (s : State) (g : Nat) (f : Group → Group) : (s.modGroup g f).gqueue = s.gqueue := rfl
@[simp] theorem State.modGroup_gstall (s : State) (g : Nat) (f : Group → Group) : (s.modGroup g f).gstall = s.gstall := rfl
@[simp] theorem State.modGroup_trips (s : State) (g : Nat) (f : Group → Group) : (s.modGroup g f).trips = s.trips := rfl
@[simp] theorem State.modGroup_groups (s : State) (g : Nat) (f : Group → Group) : (s.modGroup g f).groups = s.groups.mod g f := rfl
@[simp] theorem State.modGroup_netops (s : State) (g : Nat) (f : Group → Group) : (s.modGroup g f).netops = s.netops := rfl
@[simp] theorem State.modGroup_netqs (s : State) (g : Nat) (f : Group → Group) : (s.modGroup g f).netqs = s.netqs := rfl
@[simp] theorem State.modGroup_bundles (s : State) (g : Nat) (f : Group → Group) : (s.modGroup g f).bundles = s.bundles := rfl
@[simp] theorem State.modGroup_ident (s : State) (g : Nat) (f : Group → Group) : (s.modGroup g f).ident = s.ident := rfl
@[simp] theorem State.modGroup_partitions (s : State) (g : Nat) (f : Group → Group) : (s.modGroup g f).partitions = s.partitions := rfl
@[simp] theorem State.modGroup_keys (s : State) (g : Nat) (f : Group → Group) : (s.modGroup g f).keys = s.keys := rfl
@[simp] theorem State.modGroup_integrity (s : State) (g : Nat) (f : Group → Group) : (s.modGroup g f).integrity = s.integrity := rfl
@[simp] theorem State.modGroup_failed (s : State) (g : Nat) (f : Group → Group) : (s.modGroup g f).failed = s.failed := rfl
@[simp] theorem State.modGroup_draining (s : State) (g : Nat) (f : Group → Group) : (s.modGroup g f).draining = s.draining := rfl
@[simp] theorem State.modGroup_ports (s : State) (g : Nat) (f : Group → Group) : (s.modGroup g f).ports = s.ports := rfl
@[simp] theorem State.modGroup_gports (s : State) (g : Nat) (f : Group → Group) : (s.modGroup g f).gports = s.gports := rfl
@[simp] theorem State.modGroup_lost (s : State) (g : Nat) (f : Group → Group) : (s.modGroup g f).lost = s.lost := rfl
@[simp] theorem State.modGroup_link (s : State) (g : Nat) (f : Group → Group) : (s.modGroup g f).link = s.link := rfl
@[simp] theorem State.modGroup_vfs (s : State) (g : Nat) (f : Group → Group) : (s.modGroup g f).vfs = s.vfs := rfl
@[simp] theorem State.modGroup_cmd (s : State) (g : Nat) (f : Group → Group) : (s.modGroup g f).cmd = s.cmd := rfl
@[simp] theorem State.modGroup_spdm (s : State) (g : Nat) (f : Group → Group) : (s.modGroup g f).spdm = s.spdm := rfl
@[simp] theorem State.modGroup_pstate (s : State) (g : Nat) (f : Group → Group) : (s.modGroup g f).pstate = s.pstate := rfl
@[simp] theorem State.modGroup_goal (s : State) (g : Nat) (f : Group → Group) : (s.modGroup g f).goal = s.goal := rfl
@[simp] theorem State.modGroup_cap (s : State) (g : Nat) (f : Group → Group) : (s.modGroup g f).cap = s.cap := rfl
@[simp] theorem State.modGroup_below (s : State) (g : Nat) (f : Group → Group) : (s.modGroup g f).below = s.below := rfl
@[simp] theorem State.modGroup_thermal (s : State) (g : Nat) (f : Group → Group) : (s.modGroup g f).thermal = s.thermal := rfl
@[simp] theorem State.modGroup_hot (s : State) (g : Nat) (f : Group → Group) : (s.modGroup g f).hot = s.hot := rfl
@[simp] theorem State.modGroup_events (s : State) (g : Nat) (f : Group → Group) : (s.modGroup g f).events = s.events := rfl
@[simp] theorem State.modGroup_logHead (s : State) (g : Nat) (f : Group → Group) : (s.modGroup g f).logHead = s.logHead := rfl
@[simp] theorem State.modGroup_banks (s : State) (g : Nat) (f : Group → Group) : (s.modGroup g f).banks = s.banks := rfl
@[simp] theorem State.modGroup_updating (s : State) (g : Nat) (f : Group → Group) : (s.modGroup g f).updating = s.updating := rfl
@[simp] theorem State.modGroup_ways (s : State) (g : Nat) (f : Group → Group) : (s.modGroup g f).ways = s.ways := rfl
@[simp] theorem State.modGroup_slices (s : State) (g : Nat) (f : Group → Group) : (s.modGroup g f).slices = s.slices := rfl
@[simp] theorem State.modGroup_corrected (s : State) (g : Nat) (f : Group → Group) : (s.modGroup g f).corrected = s.corrected := rfl
@[simp] theorem State.modGroup_recent (s : State) (g : Nat) (f : Group → Group) : (s.modGroup g f).recent = s.recent := rfl
@[simp] theorem State.modGroup_faults (s : State) (g : Nat) (f : Group → Group) : (s.modGroup g f).faults = s.faults := rfl
@[simp] theorem State.modGroup_reported (s : State) (g : Nat) (f : Group → Group) : (s.modGroup g f).reported = s.reported := rfl
@[simp] theorem State.modGroup_ended (s : State) (g : Nat) (f : Group → Group) : (s.modGroup g f).ended = s.ended := rfl
@[simp] theorem State.modGroup_out (s : State) (g : Nat) (f : Group → Group) : (s.modGroup g f).out = s.out := rfl

/-! ### `State.modBundle` -/

@[simp] theorem State.modBundle_now (s : State) (b : Nat) (f : Bundle → Bundle) : (s.modBundle b f).now = s.now := rfl
@[simp] theorem State.modBundle_ctr (s : State) (b : Nat) (f : Bundle → Bundle) : (s.modBundle b f).ctr = s.ctr := rfl
@[simp] theorem State.modBundle_turns (s : State) (b : Nat) (f : Bundle → Bundle) : (s.modBundle b f).turns = s.turns := rfl
@[simp] theorem State.modBundle_cur (s : State) (b : Nat) (f : Bundle → Bundle) : (s.modBundle b f).cur = s.cur := rfl
@[simp] theorem State.modBundle_ilen (s : State) (b : Nat) (f : Bundle → Bundle) : (s.modBundle b f).ilen = s.ilen := rfl
@[simp] theorem State.modBundle_inputs (s : State) (b : Nat) (f : Bundle → Bundle) : (s.modBundle b f).inputs = s.inputs := rfl
@[simp] theorem State.modBundle_uid (s : State) (b : Nat) (f : Bundle → Bundle) : (s.modBundle b f).uid = s.uid := rfl
@[simp] theorem State.modBundle_ptp (s : State) (b : Nat) (f : Bundle → Bundle) : (s.modBundle b f).ptp = s.ptp := rfl
@[simp] theorem State.modBundle_dies (s : State) (b : Nat) (f : Bundle → Bundle) : (s.modBundle b f).dies = s.dies := rfl
@[simp] theorem State.modBundle_teams (s : State) (b : Nat) (f : Bundle → Bundle) : (s.modBundle b f).teams = s.teams := rfl
@[simp] theorem State.modBundle_frags (s : State) (b : Nat) (f : Bundle → Bundle) : (s.modBundle b f).frags = s.frags := rfl
@[simp] theorem State.modBundle_copies (s : State) (b : Nat) (f : Bundle → Bundle) : (s.modBundle b f).copies = s.copies := rfl
@[simp] theorem State.modBundle_engines (s : State) (b : Nat) (f : Bundle → Bundle) : (s.modBundle b f).engines = s.engines := rfl
@[simp] theorem State.modBundle_reqs (s : State) (b : Nat) (f : Bundle → Bundle) : (s.modBundle b f).reqs = s.reqs := rfl
@[simp] theorem State.modBundle_jobs (s : State) (b : Nat) (f : Bundle → Bundle) : (s.modBundle b f).jobs = s.jobs := rfl
@[simp] theorem State.modBundle_wires (s : State) (b : Nat) (f : Bundle → Bundle) : (s.modBundle b f).wires = s.wires := rfl
@[simp] theorem State.modBundle_outward (s : State) (b : Nat) (f : Bundle → Bundle) : (s.modBundle b f).outward = s.outward := rfl
@[simp] theorem State.modBundle_nodes (s : State) (b : Nat) (f : Bundle → Bundle) : (s.modBundle b f).nodes = s.nodes := rfl
@[simp] theorem State.modBundle_egress (s : State) (b : Nat) (f : Bundle → Bundle) : (s.modBundle b f).egress = s.egress := rfl
@[simp] theorem State.modBundle_retries (s : State) (b : Nat) (f : Bundle → Bundle) : (s.modBundle b f).retries = s.retries := rfl
@[simp] theorem State.modBundle_scWrites (s : State) (b : Nat) (f : Bundle → Bundle) : (s.modBundle b f).scWrites = s.scWrites := rfl
@[simp] theorem State.modBundle_lastScalar (s : State) (b : Nat) (f : Bundle → Bundle) : (s.modBundle b f).lastScalar = s.lastScalar := rfl
@[simp] theorem State.modBundle_lastSeq (s : State) (b : Nat) (f : Bundle → Bundle) : (s.modBundle b f).lastSeq = s.lastSeq := rfl
@[simp] theorem State.modBundle_lastStart (s : State) (b : Nat) (f : Bundle → Bundle) : (s.modBundle b f).lastStart = s.lastStart := rfl
@[simp] theorem State.modBundle_lastQueue (s : State) (b : Nat) (f : Bundle → Bundle) : (s.modBundle b f).lastQueue = s.lastQueue := rfl
@[simp] theorem State.modBundle_flits (s : State) (b : Nat) (f : Bundle → Bundle) : (s.modBundle b f).flits = s.flits := rfl
@[simp] theorem State.modBundle_credits (s : State) (b : Nat) (f : Bundle → Bundle) : (s.modBundle b f).credits = s.credits := rfl
@[simp] theorem State.modBundle_gqueue (s : State) (b : Nat) (f : Bundle → Bundle) : (s.modBundle b f).gqueue = s.gqueue := rfl
@[simp] theorem State.modBundle_gstall (s : State) (b : Nat) (f : Bundle → Bundle) : (s.modBundle b f).gstall = s.gstall := rfl
@[simp] theorem State.modBundle_trips (s : State) (b : Nat) (f : Bundle → Bundle) : (s.modBundle b f).trips = s.trips := rfl
@[simp] theorem State.modBundle_groups (s : State) (b : Nat) (f : Bundle → Bundle) : (s.modBundle b f).groups = s.groups := rfl
@[simp] theorem State.modBundle_netops (s : State) (b : Nat) (f : Bundle → Bundle) : (s.modBundle b f).netops = s.netops := rfl
@[simp] theorem State.modBundle_netqs (s : State) (b : Nat) (f : Bundle → Bundle) : (s.modBundle b f).netqs = s.netqs := rfl
@[simp] theorem State.modBundle_bundles (s : State) (b : Nat) (f : Bundle → Bundle) : (s.modBundle b f).bundles = s.bundles.mod b f := rfl
@[simp] theorem State.modBundle_ident (s : State) (b : Nat) (f : Bundle → Bundle) : (s.modBundle b f).ident = s.ident := rfl
@[simp] theorem State.modBundle_partitions (s : State) (b : Nat) (f : Bundle → Bundle) : (s.modBundle b f).partitions = s.partitions := rfl
@[simp] theorem State.modBundle_keys (s : State) (b : Nat) (f : Bundle → Bundle) : (s.modBundle b f).keys = s.keys := rfl
@[simp] theorem State.modBundle_integrity (s : State) (b : Nat) (f : Bundle → Bundle) : (s.modBundle b f).integrity = s.integrity := rfl
@[simp] theorem State.modBundle_failed (s : State) (b : Nat) (f : Bundle → Bundle) : (s.modBundle b f).failed = s.failed := rfl
@[simp] theorem State.modBundle_draining (s : State) (b : Nat) (f : Bundle → Bundle) : (s.modBundle b f).draining = s.draining := rfl
@[simp] theorem State.modBundle_ports (s : State) (b : Nat) (f : Bundle → Bundle) : (s.modBundle b f).ports = s.ports := rfl
@[simp] theorem State.modBundle_gports (s : State) (b : Nat) (f : Bundle → Bundle) : (s.modBundle b f).gports = s.gports := rfl
@[simp] theorem State.modBundle_lost (s : State) (b : Nat) (f : Bundle → Bundle) : (s.modBundle b f).lost = s.lost := rfl
@[simp] theorem State.modBundle_link (s : State) (b : Nat) (f : Bundle → Bundle) : (s.modBundle b f).link = s.link := rfl
@[simp] theorem State.modBundle_vfs (s : State) (b : Nat) (f : Bundle → Bundle) : (s.modBundle b f).vfs = s.vfs := rfl
@[simp] theorem State.modBundle_cmd (s : State) (b : Nat) (f : Bundle → Bundle) : (s.modBundle b f).cmd = s.cmd := rfl
@[simp] theorem State.modBundle_spdm (s : State) (b : Nat) (f : Bundle → Bundle) : (s.modBundle b f).spdm = s.spdm := rfl
@[simp] theorem State.modBundle_pstate (s : State) (b : Nat) (f : Bundle → Bundle) : (s.modBundle b f).pstate = s.pstate := rfl
@[simp] theorem State.modBundle_goal (s : State) (b : Nat) (f : Bundle → Bundle) : (s.modBundle b f).goal = s.goal := rfl
@[simp] theorem State.modBundle_cap (s : State) (b : Nat) (f : Bundle → Bundle) : (s.modBundle b f).cap = s.cap := rfl
@[simp] theorem State.modBundle_below (s : State) (b : Nat) (f : Bundle → Bundle) : (s.modBundle b f).below = s.below := rfl
@[simp] theorem State.modBundle_thermal (s : State) (b : Nat) (f : Bundle → Bundle) : (s.modBundle b f).thermal = s.thermal := rfl
@[simp] theorem State.modBundle_hot (s : State) (b : Nat) (f : Bundle → Bundle) : (s.modBundle b f).hot = s.hot := rfl
@[simp] theorem State.modBundle_events (s : State) (b : Nat) (f : Bundle → Bundle) : (s.modBundle b f).events = s.events := rfl
@[simp] theorem State.modBundle_logHead (s : State) (b : Nat) (f : Bundle → Bundle) : (s.modBundle b f).logHead = s.logHead := rfl
@[simp] theorem State.modBundle_banks (s : State) (b : Nat) (f : Bundle → Bundle) : (s.modBundle b f).banks = s.banks := rfl
@[simp] theorem State.modBundle_updating (s : State) (b : Nat) (f : Bundle → Bundle) : (s.modBundle b f).updating = s.updating := rfl
@[simp] theorem State.modBundle_ways (s : State) (b : Nat) (f : Bundle → Bundle) : (s.modBundle b f).ways = s.ways := rfl
@[simp] theorem State.modBundle_slices (s : State) (b : Nat) (f : Bundle → Bundle) : (s.modBundle b f).slices = s.slices := rfl
@[simp] theorem State.modBundle_corrected (s : State) (b : Nat) (f : Bundle → Bundle) : (s.modBundle b f).corrected = s.corrected := rfl
@[simp] theorem State.modBundle_recent (s : State) (b : Nat) (f : Bundle → Bundle) : (s.modBundle b f).recent = s.recent := rfl
@[simp] theorem State.modBundle_faults (s : State) (b : Nat) (f : Bundle → Bundle) : (s.modBundle b f).faults = s.faults := rfl
@[simp] theorem State.modBundle_reported (s : State) (b : Nat) (f : Bundle → Bundle) : (s.modBundle b f).reported = s.reported := rfl
@[simp] theorem State.modBundle_ended (s : State) (b : Nat) (f : Bundle → Bundle) : (s.modBundle b f).ended = s.ended := rfl
@[simp] theorem State.modBundle_out (s : State) (b : Nat) (f : Bundle → Bundle) : (s.modBundle b f).out = s.out := rfl

/-! ### `State.send` -/

@[simp] theorem State.send_now (s : State) (x : Sent) : (s.send x).now = s.now := rfl
@[simp] theorem State.send_ctr (s : State) (x : Sent) : (s.send x).ctr = s.ctr := rfl
@[simp] theorem State.send_turns (s : State) (x : Sent) : (s.send x).turns = s.turns := rfl
@[simp] theorem State.send_cur (s : State) (x : Sent) : (s.send x).cur = s.cur := rfl
@[simp] theorem State.send_ilen (s : State) (x : Sent) : (s.send x).ilen = s.ilen := rfl
@[simp] theorem State.send_inputs (s : State) (x : Sent) : (s.send x).inputs = s.inputs := rfl
@[simp] theorem State.send_uid (s : State) (x : Sent) : (s.send x).uid = s.uid := rfl
@[simp] theorem State.send_ptp (s : State) (x : Sent) : (s.send x).ptp = s.ptp := rfl
@[simp] theorem State.send_dies (s : State) (x : Sent) : (s.send x).dies = s.dies := rfl
@[simp] theorem State.send_teams (s : State) (x : Sent) : (s.send x).teams = s.teams := rfl
@[simp] theorem State.send_frags (s : State) (x : Sent) : (s.send x).frags = s.frags := rfl
@[simp] theorem State.send_copies (s : State) (x : Sent) : (s.send x).copies = s.copies := rfl
@[simp] theorem State.send_engines (s : State) (x : Sent) : (s.send x).engines = s.engines := rfl
@[simp] theorem State.send_reqs (s : State) (x : Sent) : (s.send x).reqs = s.reqs := rfl
@[simp] theorem State.send_jobs (s : State) (x : Sent) : (s.send x).jobs = s.jobs := rfl
@[simp] theorem State.send_wires (s : State) (x : Sent) : (s.send x).wires = s.wires := rfl
@[simp] theorem State.send_outward (s : State) (x : Sent) : (s.send x).outward = s.outward := rfl
@[simp] theorem State.send_nodes (s : State) (x : Sent) : (s.send x).nodes = s.nodes := rfl
@[simp] theorem State.send_egress (s : State) (x : Sent) : (s.send x).egress = s.egress := rfl
@[simp] theorem State.send_retries (s : State) (x : Sent) : (s.send x).retries = s.retries := rfl
@[simp] theorem State.send_scWrites (s : State) (x : Sent) : (s.send x).scWrites = s.scWrites := rfl
@[simp] theorem State.send_lastScalar (s : State) (x : Sent) : (s.send x).lastScalar = s.lastScalar := rfl
@[simp] theorem State.send_lastSeq (s : State) (x : Sent) : (s.send x).lastSeq = s.lastSeq := rfl
@[simp] theorem State.send_lastStart (s : State) (x : Sent) : (s.send x).lastStart = s.lastStart := rfl
@[simp] theorem State.send_lastQueue (s : State) (x : Sent) : (s.send x).lastQueue = s.lastQueue := rfl
@[simp] theorem State.send_flits (s : State) (x : Sent) : (s.send x).flits = s.flits := rfl
@[simp] theorem State.send_credits (s : State) (x : Sent) : (s.send x).credits = s.credits := rfl
@[simp] theorem State.send_gqueue (s : State) (x : Sent) : (s.send x).gqueue = s.gqueue := rfl
@[simp] theorem State.send_gstall (s : State) (x : Sent) : (s.send x).gstall = s.gstall := rfl
@[simp] theorem State.send_trips (s : State) (x : Sent) : (s.send x).trips = s.trips := rfl
@[simp] theorem State.send_groups (s : State) (x : Sent) : (s.send x).groups = s.groups := rfl
@[simp] theorem State.send_netops (s : State) (x : Sent) : (s.send x).netops = s.netops := rfl
@[simp] theorem State.send_netqs (s : State) (x : Sent) : (s.send x).netqs = s.netqs := rfl
@[simp] theorem State.send_bundles (s : State) (x : Sent) : (s.send x).bundles = s.bundles := rfl
@[simp] theorem State.send_ident (s : State) (x : Sent) : (s.send x).ident = s.ident := rfl
@[simp] theorem State.send_partitions (s : State) (x : Sent) : (s.send x).partitions = s.partitions := rfl
@[simp] theorem State.send_keys (s : State) (x : Sent) : (s.send x).keys = s.keys := rfl
@[simp] theorem State.send_integrity (s : State) (x : Sent) : (s.send x).integrity = s.integrity := rfl
@[simp] theorem State.send_failed (s : State) (x : Sent) : (s.send x).failed = s.failed := rfl
@[simp] theorem State.send_draining (s : State) (x : Sent) : (s.send x).draining = s.draining := rfl
@[simp] theorem State.send_ports (s : State) (x : Sent) : (s.send x).ports = s.ports := rfl
@[simp] theorem State.send_gports (s : State) (x : Sent) : (s.send x).gports = s.gports := rfl
@[simp] theorem State.send_lost (s : State) (x : Sent) : (s.send x).lost = s.lost := rfl
@[simp] theorem State.send_link (s : State) (x : Sent) : (s.send x).link = s.link := rfl
@[simp] theorem State.send_vfs (s : State) (x : Sent) : (s.send x).vfs = s.vfs := rfl
@[simp] theorem State.send_cmd (s : State) (x : Sent) : (s.send x).cmd = s.cmd := rfl
@[simp] theorem State.send_spdm (s : State) (x : Sent) : (s.send x).spdm = s.spdm := rfl
@[simp] theorem State.send_pstate (s : State) (x : Sent) : (s.send x).pstate = s.pstate := rfl
@[simp] theorem State.send_goal (s : State) (x : Sent) : (s.send x).goal = s.goal := rfl
@[simp] theorem State.send_cap (s : State) (x : Sent) : (s.send x).cap = s.cap := rfl
@[simp] theorem State.send_below (s : State) (x : Sent) : (s.send x).below = s.below := rfl
@[simp] theorem State.send_thermal (s : State) (x : Sent) : (s.send x).thermal = s.thermal := rfl
@[simp] theorem State.send_hot (s : State) (x : Sent) : (s.send x).hot = s.hot := rfl
@[simp] theorem State.send_events (s : State) (x : Sent) : (s.send x).events = s.events := rfl
@[simp] theorem State.send_logHead (s : State) (x : Sent) : (s.send x).logHead = s.logHead := rfl
@[simp] theorem State.send_banks (s : State) (x : Sent) : (s.send x).banks = s.banks := rfl
@[simp] theorem State.send_updating (s : State) (x : Sent) : (s.send x).updating = s.updating := rfl
@[simp] theorem State.send_ways (s : State) (x : Sent) : (s.send x).ways = s.ways := rfl
@[simp] theorem State.send_slices (s : State) (x : Sent) : (s.send x).slices = s.slices := rfl
@[simp] theorem State.send_corrected (s : State) (x : Sent) : (s.send x).corrected = s.corrected := rfl
@[simp] theorem State.send_recent (s : State) (x : Sent) : (s.send x).recent = s.recent := rfl
@[simp] theorem State.send_faults (s : State) (x : Sent) : (s.send x).faults = s.faults := rfl
@[simp] theorem State.send_reported (s : State) (x : Sent) : (s.send x).reported = s.reported := rfl
@[simp] theorem State.send_ended (s : State) (x : Sent) : (s.send x).ended = s.ended := rfl
@[simp] theorem State.send_out (s : State) (x : Sent) : (s.send x).out = s.out ++ [x] := rfl

/-! ### Teams and warps -/

@[simp] theorem Team.modWarp_ref (T : Team) (w : Nat) (f : Warp → Warp) : (T.modWarp w f).ref = T.ref := rfl
@[simp] theorem Team.modWarp_phase (T : Team) (w : Nat) (f : Warp → Warp) : (T.modWarp w f).phase = T.phase := rfl
@[simp] theorem Team.modWarp_origin (T : Team) (w : Nat) (f : Warp → Warp) : (T.modWarp w f).origin = T.origin := rfl
@[simp] theorem Team.modWarp_die (T : Team) (w : Nat) (f : Warp → Warp) : (T.modWarp w f).die = T.die := rfl
@[simp] theorem Team.modWarp_core (T : Team) (w : Nat) (f : Warp → Warp) : (T.modWarp w f).core = T.core := rfl
@[simp] theorem Team.modWarp_sslot (T : Team) (w : Nat) (f : Warp → Warp) : (T.modWarp w f).sslot = T.sslot := rfl
@[simp] theorem Team.modWarp_asid (T : Team) (w : Nat) (f : Warp → Warp) : (T.modWarp w f).asid = T.asid := rfl
@[simp] theorem Team.modWarp_prio (T : Team) (w : Nat) (f : Warp → Warp) : (T.modWarp w f).prio = T.prio := rfl
@[simp] theorem Team.modWarp_stag (T : Team) (w : Nat) (f : Warp → Warp) : (T.modWarp w f).stag = T.stag := rfl
@[simp] theorem Team.modWarp_part (T : Team) (w : Nat) (f : Warp → Warp) : (T.modWarp w f).part = T.part := rfl
@[simp] theorem Team.modWarp_teamid (T : Team) (w : Nat) (f : Warp → Warp) : (T.modWarp w f).teamid = T.teamid := rfl
@[simp] theorem Team.modWarp_xyz (T : Team) (w : Nat) (f : Warp → Warp) : (T.modWarp w f).xyz = T.xyz := rfl
@[simp] theorem Team.modWarp_grid (T : Team) (w : Nat) (f : Warp → Warp) : (T.modWarp w f).grid = T.grid := rfl
@[simp] theorem Team.modWarp_subidx (T : Team) (w : Nat) (f : Warp → Warp) : (T.modWarp w f).subidx = T.subidx := rfl
@[simp] theorem Team.modWarp_nwarps (T : Team) (w : Nat) (f : Warp → Warp) : (T.modWarp w f).nwarps = T.nwarps := rfl
@[simp] theorem Team.modWarp_sentry (T : Team) (w : Nat) (f : Warp → Warp) : (T.modWarp w f).sentry = T.sentry := rfl
@[simp] theorem Team.modWarp_mentry (T : Team) (w : Nat) (f : Warp → Warp) : (T.modWarp w f).mentry = T.mentry := rfl
@[simp] theorem Team.modWarp_lanebase (T : Team) (w : Nat) (f : Warp → Warp) : (T.modWarp w f).lanebase = T.lanebase := rfl
@[simp] theorem Team.modWarp_args (T : Team) (w : Nat) (f : Warp → Warp) : (T.modWarp w f).args = T.args := rfl
@[simp] theorem Team.modWarp_pmgr (T : Team) (w : Nat) (f : Warp → Warp) : (T.modWarp w f).pmgr = T.pmgr := rfl
@[simp] theorem Team.modWarp_shadow (T : Team) (w : Nat) (f : Warp → Warp) : (T.modWarp w f).shadow = T.shadow := rfl
@[simp] theorem Team.modWarp_migrate (T : Team) (w : Nat) (f : Warp → Warp) : (T.modWarp w f).migrate = T.migrate := rfl
@[simp] theorem Team.modWarp_child (T : Team) (w : Nat) (f : Warp → Warp) : (T.modWarp w f).child = T.child := rfl
@[simp] theorem Team.modWarp_partition (T : Team) (w : Nat) (f : Warp → Warp) : (T.modWarp w f).partition = T.partition := rfl
@[simp] theorem Team.modWarp_bundle (T : Team) (w : Nat) (f : Warp → Warp) : (T.modWarp w f).bundle = T.bundle := rfl
@[simp] theorem Team.modWarp_qsb (T : Team) (w : Nat) (f : Warp → Warp) : (T.modWarp w f).qsb = T.qsb := rfl
@[simp] theorem Team.modWarp_handler (T : Team) (w : Nat) (f : Warp → Warp) : (T.modWarp w f).handler = T.handler := rfl
@[simp] theorem Team.modWarp_warps (T : Team) (w : Nat) (f : Warp → Warp) : (T.modWarp w f).warps = T.warps.mod w f := rfl
@[simp] theorem Team.modWarp_trailers (T : Team) (w : Nat) (f : Warp → Warp) : (T.modWarp w f).trailers = T.trailers := rfl
@[simp] theorem Team.modWarp_seq (T : Team) (w : Nat) (f : Warp → Warp) : (T.modWarp w f).seq = T.seq := rfl
@[simp] theorem Team.modWarp_sp (T : Team) (w : Nat) (f : Warp → Warp) : (T.modWarp w f).sp = T.sp := rfl
@[simp] theorem Team.modWarp_spBad (T : Team) (w : Nat) (f : Warp → Warp) : (T.modWarp w f).spBad = T.spBad := rfl
@[simp] theorem Team.modWarp_spOld (T : Team) (w : Nat) (f : Warp → Warp) : (T.modWarp w f).spOld = T.spOld := rfl
@[simp] theorem Team.modWarp_tiles (T : Team) (w : Nat) (f : Warp → Warp) : (T.modWarp w f).tiles = T.tiles := rfl
@[simp] theorem Team.modWarp_slots (T : Team) (w : Nat) (f : Warp → Warp) : (T.modWarp w f).slots = T.slots := rfl
@[simp] theorem Team.modWarp_barriers (T : Team) (w : Nat) (f : Warp → Warp) : (T.modWarp w f).barriers = T.barriers := rfl
@[simp] theorem Team.modWarp_mretry (T : Team) (w : Nat) (f : Warp → Warp) : (T.modWarp w f).mretry = T.mretry := rfl
@[simp] theorem Team.modWarp_mtol8 (T : Team) (w : Nat) (f : Warp → Warp) : (T.modWarp w f).mtol8 = T.mtol8 := rfl
@[simp] theorem Team.modWarp_mtol4 (T : Team) (w : Nat) (f : Warp → Warp) : (T.modWarp w f).mtol4 = T.mtol4 := rfl
@[simp] theorem Team.modWarp_minj (T : Team) (w : Nat) (f : Warp → Warp) : (T.modWarp w f).minj = T.minj := rfl
@[simp] theorem Team.modWarp_retry (T : Team) (w : Nat) (f : Warp → Warp) : (T.modWarp w f).retry = T.retry := rfl
@[simp] theorem Team.modWarp_fcause (T : Team) (w : Nat) (f : Warp → Warp) : (T.modWarp w f).fcause = T.fcause := rfl
@[simp] theorem Team.modWarp_ftile (T : Team) (w : Nat) (f : Warp → Warp) : (T.modWarp w f).ftile = T.ftile := rfl
@[simp] theorem Team.modWarp_badrows (T : Team) (w : Nat) (f : Warp → Warp) : (T.modWarp w f).badrows = T.badrows := rfl
@[simp] theorem Team.modWarp_badcols (T : Team) (w : Nat) (f : Warp → Warp) : (T.modWarp w f).badcols = T.badcols := rfl
@[simp] theorem Team.modWarp_frozen (T : Team) (w : Nat) (f : Warp → Warp) : (T.modWarp w f).frozen = T.frozen := rfl
@[simp] theorem Team.modWarp_mq (T : Team) (w : Nat) (f : Warp → Warp) : (T.modWarp w f).mq = T.mq := rfl
@[simp] theorem Team.modWarp_replay (T : Team) (w : Nat) (f : Warp → Warp) : (T.modWarp w f).replay = T.replay := rfl
@[simp] theorem Team.modWarp_log (T : Team) (w : Nat) (f : Warp → Warp) : (T.modWarp w f).log = T.log := rfl
@[simp] theorem Team.modWarp_scales (T : Team) (w : Nat) (f : Warp → Warp) : (T.modWarp w f).scales = T.scales := rfl
@[simp] theorem Team.modWarp_saved (T : Team) (w : Nat) (f : Warp → Warp) : (T.modWarp w f).saved = T.saved := rfl
@[simp] theorem Team.modWarp_leaving (T : Team) (w : Nat) (f : Warp → Warp) : (T.modWarp w f).leaving = T.leaving := rfl
@[simp] theorem Team.modWarp_halt (T : Team) (w : Nat) (f : Warp → Warp) : (T.modWarp w f).halt = T.halt := rfl
@[simp] theorem Team.modWarp_faulted (T : Team) (w : Nat) (f : Warp → Warp) : (T.modWarp w f).faulted = T.faulted := rfl
@[simp] theorem Team.modWarp_lost (T : Team) (w : Nat) (f : Warp → Warp) : (T.modWarp w f).lost = T.lost := rfl
@[simp] theorem Team.modWarp_hint (T : Team) (w : Nat) (f : Warp → Warp) : (T.modWarp w f).hint = T.hint := rfl
@[simp] theorem Team.modWarp_held (T : Team) (w : Nat) (f : Warp → Warp) : (T.modWarp w f).held = T.held := rfl
@[simp] theorem Team.modWarp_ready (T : Team) (w : Nat) (f : Warp → Warp) : (T.modWarp w f).ready = T.ready := rfl
@[simp] theorem Team.modWarp_preempted (T : Team) (w : Nat) (f : Warp → Warp) : (T.modWarp w f).preempted = T.preempted := rfl
@[simp] theorem Team.modWarp_placed (T : Team) (w : Nat) (f : Warp → Warp) : (T.modWarp w f).placed = T.placed := rfl
@[simp] theorem Team.modWarp_ran (T : Team) (w : Nat) (f : Warp → Warp) : (T.modWarp w f).ran = T.ran := rfl
@[simp] theorem Team.modWarp_image (T : Team) (w : Nat) (f : Warp → Warp) : (T.modWarp w f).image = T.image := rfl
@[simp] theorem Team.modWarp_old (T : Team) (w : Nat) (f : Warp → Warp) : (T.modWarp w f).old = T.old := rfl

@[simp] theorem Warp.setV_slot (W : Warp) (r l : Nat) (x : Half) : (W.setV r l x).slot = W.slot := rfl
@[simp] theorem Warp.setV_life (W : Warp) (r l : Nat) (x : Half) : (W.setV r l x).life = W.life := rfl
@[simp] theorem Warp.setV_spc (W : Warp) (r l : Nat) (x : Half) : (W.setV r l x).spc = W.spc := rfl
@[simp] theorem Warp.setV_s (W : Warp) (r l : Nat) (x : Half) : (W.setV r l x).s = W.s := rfl
@[simp] theorem Warp.setV_v (W : Warp) (r l : Nat) (x : Half) : (W.setV r l x).v = W.v.put 0 (32 * r + l) x := rfl
@[simp] theorem Warp.setV_m (W : Warp) (r l : Nat) (x : Half) : (W.setV r l x).m = W.m := rfl
@[simp] theorem Warp.setV_badS (W : Warp) (r l : Nat) (x : Half) : (W.setV r l x).badS = W.badS := rfl
@[simp] theorem Warp.setV_badV (W : Warp) (r l : Nat) (x : Half) : (W.setV r l x).badV = W.badV.filter (· != 32 * r + l) := rfl
@[simp] theorem Warp.setV_cold (W : Warp) (r l : Nat) (x : Half) : (W.setV r l x).cold = W.cold := rfl
@[simp] theorem Warp.setV_stream (W : Warp) (r l : Nat) (x : Half) : (W.setV r l x).stream = W.stream := rfl
@[simp] theorem Warp.setV_dead (W : Warp) (r l : Nat) (x : Half) : (W.setV r l x).dead = W.dead := rfl
@[simp] theorem Warp.setV_deaths (W : Warp) (r l : Nat) (x : Half) : (W.setV r l x).deaths = W.deaths := rfl
@[simp] theorem Warp.setV_detached (W : Warp) (r l : Nat) (x : Half) : (W.setV r l x).detached = W.detached := rfl
@[simp] theorem Warp.setV_queue (W : Warp) (r l : Nat) (x : Half) : (W.setV r l x).queue = W.queue := rfl
@[simp] theorem Warp.setV_started (W : Warp) (r l : Nat) (x : Half) : (W.setV r l x).started = W.started := rfl
@[simp] theorem Warp.setV_a (W : Warp) (r l : Nat) (x : Half) : (W.setV r l x).a = W.a := rfl
@[simp] theorem Warp.setV_b (W : Warp) (r l : Nat) (x : Half) : (W.setV r l x).b = W.b := rfl
@[simp] theorem Warp.setV_arrived (W : Warp) (r l : Nat) (x : Half) : (W.setV r l x).arrived = W.arrived := rfl
@[simp] theorem Warp.setV_stack (W : Warp) (r l : Nat) (x : Half) : (W.setV r l x).stack = W.stack := rfl
@[simp] theorem Warp.setV_joins (W : Warp) (r l : Nat) (x : Half) : (W.setV r l x).joins = W.joins := rfl
@[simp] theorem Warp.setV_members (W : Warp) (r l : Nat) (x : Half) : (W.setV r l x).members = W.members := rfl
@[simp] theorem Warp.setV_wait (W : Warp) (r l : Nat) (x : Half) : (W.setV r l x).wait = W.wait := rfl
@[simp] theorem Warp.setV_asks (W : Warp) (r l : Nat) (x : Half) : (W.setV r l x).asks = W.asks := rfl
@[simp] theorem Warp.setV_got (W : Warp) (r l : Nat) (x : Half) : (W.setV r l x).got = W.got := rfl
@[simp] theorem Warp.setV_qwait (W : Warp) (r l : Nat) (x : Half) : (W.setV r l x).qwait = W.qwait := rfl
@[simp] theorem Warp.setV_writes (W : Warp) (r l : Nat) (x : Half) : (W.setV r l x).writes = W.writes := rfl
@[simp] theorem Warp.setV_blockWrites (W : Warp) (r l : Nat) (x : Half) : (W.setV r l x).blockWrites = W.blockWrites := rfl
@[simp] theorem Warp.setV_report (W : Warp) (r l : Nat) (x : Half) : (W.setV r l x).report = W.report := rfl
@[simp] theorem Warp.setV_origins (W : Warp) (r l : Nat) (x : Half) : (W.setV r l x).origins = W.origins := rfl
@[simp] theorem Warp.setV_owed (W : Warp) (r l : Nat) (x : Half) : (W.setV r l x).owed = W.owed := rfl

/-! ### What is read after an update -/

@[simp] theorem State.find_modTeam (s : State) (t u : Nat) (f : Team → Team) :
    (s.modTeam t f).teams.find u = if u = t then (s.teams.find u).map f else s.teams.find u := Map.find_mod _ _ _ _

theorem State.team_modTeam (s : State) (t u : Nat) (f : Team → Team) (h : (s.teams.find t).isSome) :
    (s.modTeam t f).team u = if u = t then f (s.team u) else s.team u := by
  unfold State.team Map.get
  rw [State.find_modTeam]
  split
  · subst_vars
    obtain ⟨T, hT⟩ := Option.isSome_iff_exists.1 h
    simp [hT]
  · rfl

@[simp] theorem State.team_modTeam_ne (s : State) {t u : Nat} (f : Team → Team) (h : u ≠ t) : (s.modTeam t f).team u = s.team u := by
  unfold State.team Map.get
  rw [State.find_modTeam, if_neg h]

@[simp] theorem Team.find_modWarp (T : Team) (w x : Nat) (f : Warp → Warp) :
    (T.modWarp w f).warps.find x = if x = w then (T.warps.find x).map f else T.warps.find x := Map.find_mod _ _ _ _

theorem Team.warp_modWarp (T : Team) (w x : Nat) (f : Warp → Warp) (h : (T.warps.find w).isSome) :
    (T.modWarp w f).warp x = if x = w then f (T.warp x) else T.warp x := by
  unfold Team.warp Map.get
  rw [Team.find_modWarp]
  split
  · subst_vars
    obtain ⟨W, hW⟩ := Option.isSome_iff_exists.1 h
    simp [hW]
  · rfl

/-- The team and the warp stand in the state. -/
def State.hasWarp (s : State) (t w : Nat) : Bool := (s.teams.find t).isSome && ((s.team t).warps.find w).isSome

theorem State.hasWarp_of_live {s : State} {t w : Nat} (h : s.warpLive t w = true) : s.hasWarp t w = true := by
  unfold State.warpLive at h
  unfold State.hasWarp State.team Map.get
  cases hT : s.teams.find t with
  | none => simp [hT] at h
  | some T =>
    cases hW : T.warps.find w with
    | none => simp [hT, hW] at h
    | some W => simp [hW]

theorem State.running_of_live {s : State} {t w : Nat} (h : s.warpLive t w = true) : (s.warp t w).life = .running := by
  unfold State.warpLive at h
  unfold State.warp State.team Team.warp Map.get
  cases hT : s.teams.find t with
  | none => simp [hT] at h
  | some T =>
    cases hW : T.warps.find w with
    | none => simp [hT, hW] at h
    | some W => simpa [hT, hW] using h

theorem State.warp_modWarp (s : State) (t w x : Nat) (f : Warp → Warp) (h : s.hasWarp t w = true) :
    (s.modWarp t w f).warp t x = if x = w then f (s.warp t x) else s.warp t x := by
  simp only [State.hasWarp, Bool.and_eq_true] at h
  unfold State.warp State.modWarp
  rw [State.team_modTeam _ _ _ _ h.1, if_pos rfl, Team.warp_modWarp _ _ _ _ h.2]

theorem State.warp_modWarp_self (s : State) (t w : Nat) (f : Warp → Warp) (h : s.hasWarp t w = true) :
    (s.modWarp t w f).warp t w = f (s.warp t w) := by rw [State.warp_modWarp _ _ _ _ _ h, if_pos rfl]

@[simp] theorem State.warp_modTeam_ne (s : State) {t u : Nat} (w : Nat) (f : Team → Team) (h : u ≠ t) :
    (s.modTeam t f).warp u w = s.warp u w := by unfold State.warp; rw [State.team_modTeam_ne _ _ h]

@[simp] theorem State.hasWarp_modWarp (s : State) (t w u x : Nat) (f : Warp → Warp) :
    (s.modWarp t w f).hasWarp u x = s.hasWarp u x := by
  unfold State.hasWarp State.team Map.get State.modWarp
  rw [State.find_modTeam]
  by_cases h : u = t
  · rw [if_pos h]
    cases s.teams.find u with
    | none => rfl
    | some T =>
      simp only [Option.map_some, Option.isSome_some, Option.getD_some, Bool.true_and, Team.find_modWarp]
      split <;> simp
  · rw [if_neg h]

/-- Two changes of one team are one. -/
theorem State.modTeam_modTeam (s : State) (t : Nat) (f g : Team → Team) :
    (s.modTeam t f).modTeam t g = s.modTeam t fun T => g (f T) := by
  unfold State.modTeam; simp only [Map.mod_mod]

/-- Two changes of one warp are one. -/
theorem State.modWarp_modWarp (s : State) (t w : Nat) (f g : Warp → Warp) :
    (s.modWarp t w f).modWarp t w g = s.modWarp t w fun W => g (f W) := by
  unfold State.modWarp; rw [State.modTeam_modTeam]; simp only [Team.modWarp, Map.mod_mod]

theorem State.modSeq_modSeq (s : State) (t : Nat) (f g : Seq → Seq) : (s.modSeq t f).modSeq t g = s.modSeq t fun q => g (f q) := by
  unfold State.modSeq; rw [State.modTeam_modTeam]

/-- A change of a team depends on the team alone. -/
theorem State.modTeam_congr (s : State) (t : Nat) (f g : Team → Team) (h : f (s.team t) = g (s.team t)) : s.modTeam t f = s.modTeam t g := by
  unfold State.modTeam
  rw [Map.mod_congr _ _ f g]
  intro T hT
  have : s.team t = T := by simp [State.team, Map.get, hT]
  rw [← this, h]

/-- A change of a warp depends on the warp alone. -/
theorem State.modWarp_congr (s : State) (t w : Nat) (f g : Warp → Warp) (h : f (s.warp t w) = g (s.warp t w)) :
    s.modWarp t w f = s.modWarp t w g := by
  unfold State.modWarp
  refine State.modTeam_congr _ _ _ _ ?_
  unfold Team.modWarp
  rw [Map.mod_congr _ _ f g]
  intro W hW
  have : s.warp t w = W := by simp [State.warp, Team.warp, Map.get, hW]
  rw [← this, h]

theorem State.modSeq_congr (s : State) (t : Nat) (f g : Seq → Seq) (h : f (s.team t).seq = g (s.team t).seq) : s.modSeq t f = s.modSeq t g := by
  unfold State.modSeq
  exact State.modTeam_congr _ _ _ _ (by rw [h])

@[simp] theorem State.find_modDie (s : State) (d e : Nat) (f : Die → Die) :
    (s.modDie d f).dies.find e = if e = d then (s.dies.find e).map f else s.dies.find e := Map.find_mod _ _ _ _

theorem State.die_modDie (s : State) (d e : Nat) (f : Die → Die) (h : (s.dies.find d).isSome) :
    (s.modDie d f).die e = if e = d then f (s.die e) else s.die e := by
  unfold State.die Map.get
  rw [State.find_modDie]
  split
  · subst_vars
    obtain ⟨D, hD⟩ := Option.isSome_iff_exists.1 h
    simp [hD]
  · rfl

@[simp] theorem State.die_modDie_ne (s : State) {d e : Nat} (f : Die → Die) (h : e ≠ d) : (s.modDie d f).die e = s.die e := by
  unfold State.die Map.get
  rw [State.find_modDie, if_neg h]

@[simp] theorem State.team_modDie (s : State) (d t : Nat) (f : Die → Die) : (s.modDie d f).team t = s.team t := rfl
@[simp] theorem State.warp_modDie (s : State) (d t w : Nat) (f : Die → Die) : (s.modDie d f).warp t w = s.warp t w := rfl
@[simp] theorem State.die_modTeam (s : State) (t d : Nat) (f : Team → Team) : (s.modTeam t f).die d = s.die d := rfl
@[simp] theorem State.die_modWarp (s : State) (t w d : Nat) (f : Warp → Warp) : (s.modWarp t w f).die d = s.die d := rfl
@[simp] theorem State.die_modSeq (s : State) (t d : Nat) (f : Seq → Seq) : (s.modSeq t f).die d = s.die d := rfl

/-- A lane's word of a register after a write. -/
@[simp] theorem Warp.vw_setV (W : Warp) (r l : Nat) (x : Half) (q k : Nat) (hl : l < 32) (hk : k < 32) :
    (W.setV r l x).vw q k = if q = r ∧ k = l then x else W.vw q k := by
  unfold Warp.vw
  rw [Warp.setV_v, Map.get_put]
  by_cases h : q = r ∧ k = l
  · rw [if_pos h, if_pos (by omega)]
  · rw [if_neg h, if_neg (by omega)]

end Sys2Proof.Machine
end

