-- ==== Sys2Proof/Laws/Scalar.lean ====
section
/-! SUPPORT. What the frames of scalar and matrix instructions do. -/

namespace Sys2Proof.Machine

@[simp] theorem State.cur_setSreg (s : State) (r : Nat) (x : Word) : (s.setSreg r x).cur = s.cur := by
  unfold State.setSreg; split <;> rfl

@[simp] theorem State.cur_setReg (s : State) (r : Reg) (x : Word) : (s.setReg r x).cur = s.cur := State.cur_setSreg _ _ _

@[simp] theorem State.cur_advance (s : State) (n : Nat) : (s.advance n).cur = s.cur := by
  unfold State.advance; split <;> rfl

@[simp] theorem State.cur_result (s : State) (d : Reg) (x : Word) : (s.result d x).cur = s.cur := by simp [State.result]

@[simp] theorem State.cur_setPc (s : State) (x : Word) : (s.setPc x).cur = s.cur := by
  unfold State.setPc; split <;> rfl

/-- The frame lets an instruction of both streams run (R46, R48). -/
theorem scalar_ready {s : State} {fields : List Reg} (reads : List Nat) (k : Out) (h : s.ready fields)
    (hr : ∀ n ∈ reads, ∃ r ∈ fields, r.toNat = n) : scalar true true fields reads s k = k := by
  unfold State.ready at h
  unfold scalar
  split at h <;> rename_i hc
  · rename_i t w
    obtain ⟨hl, hb⟩ := h
    have : (reads.any fun r => (s.warp t w).badS.contains r) = false := by
      rw [List.any_eq_false]
      intro n hn
      obtain ⟨r, hr, rfl⟩ := hr n hn
      simpa using hb r hr
    simp only [hc, hl, this]; simp
  · obtain ⟨hl, hb, ha⟩ := h
    rename_i t
    have h1 : (reads.any fun r => (s.team t).seq.badT.contains r) = false := by
      rw [List.any_eq_false]
      intro n hn
      obtain ⟨r, hr, rfl⟩ := hr n hn
      simpa using (hb r hr).2
    have h2 : (fields.any fun r => decide (r.toNat ≥ 32)) = false := by
      rw [List.any_eq_false]
      intro r hr
      simpa using (hb r hr).1
    have h3 : (s.team t).awaits (fields.map (·.toNat) ++ reads) = false := by
      unfold Team.awaits at ha ⊢
      rw [List.any_eq_false] at ha ⊢
      intro o ho
      have := ha o ho
      simp only [Bool.and_eq_true, not_and, Bool.not_eq_true] at this ⊢
      intro hd
      have := this hd
      simp only [List.contains_eq_mem, decide_eq_false_iff_not, List.mem_append, not_or] at this ⊢
      refine ⟨this, fun hm => ?_⟩
      obtain ⟨r, hr, hq⟩ := hr _ hm
      exact this (List.mem_map.2 ⟨r, hr, hq⟩)
    simp only [hc, hl, h1, h2, h3]; simp
  · exact h.elim

/-- The frame lets a warp's instruction run. -/
theorem warpOnly_ready {s : State} {t w : Nat} (fields : List Reg) (reads : List Nat) (k : Out) (h : s.onWarp t w) :
    warpOnly fields reads s k = k := by
  obtain ⟨hc, hl, hb⟩ := h
  simp [warpOnly, scalar, hc, hl, hb]

/-- The frame lets a sequencer's instruction run. -/
theorem seqOnly_ready {s : State} {t : Nat} (b : Bool) (fields : List Reg) (reads : List Nat) (k : Out) (h : s.onSeq t)
    (hf : ∀ r ∈ fields, r.toNat < 32) : scalar b true fields reads s k = k := by
  obtain ⟨hc, hl, hb, hm⟩ := h
  have : (fields.any fun r => decide (r.toNat ≥ 32)) = false := by
    rw [List.any_eq_false]
    intro r hr
    simpa using hf r hr
  simp [scalar, hc, hl, hb, this, Team.awaits, hm]

/-- The stream of a state in which an instruction can run stands there. -/
theorem State.stands {s : State} {fields : List Reg} (h : s.ready fields) :
    (∃ t w, s.cur = .warp t w ∧ s.hasWarp t w = true) ∨ ∃ t, s.cur = .seq t ∧ (s.teams.find t).isSome := by
  unfold State.ready at h
  split at h <;> rename_i hc
  · exact .inl ⟨_, _, hc, State.hasWarp_of_live h.1⟩
  · refine .inr ⟨_, hc, ?_⟩
    have := h.1
    unfold State.seqLive at this
    split at this
    · simp [*]
    · simp at this
  · exact h.elim

/-- A scalar register of a warp after a write; register 0 is not stored (R78). -/
theorem Warp.get_setS (W : Warp) (d r : Nat) (x : Word) (hr : r ≠ 0) : (W.setS d x).s.get r 0 = if r = d then x else W.s.get r 0 := by
  unfold Warp.setS
  split
  · subst_vars; simp [hr]
  · exact Map.get_put _ _ _ _ _

theorem Seq.get_setT (q : Seq) (d r : Nat) (x : Word) (hr : r ≠ 0) : (q.setT d x).t.get r 0 = if r = d then x else q.t.get r 0 := by
  unfold Seq.setT
  split
  · subst_vars; simp [hr]
  · exact Map.get_put _ _ _ _ _

theorem Warp.setS_eq (W : Warp) (d : Nat) (x : Word) : W.setS d x = { W with s := (W.setS d x).s, badS := (W.setS d x).badS } := by
  unfold Warp.setS; split <;> rfl

theorem Seq.setT_eq (q : Seq) (d : Nat) (x : Word) : q.setT d x = { q with t := (q.setT d x).t, badT := (q.setT d x).badT } := by
  unfold Seq.setT; split <;> rfl

/-- What a state must be for a claim that a register of the stream was written: the warp's form. -/
theorem wrote_warp {s : State} {t w d : Nat} {x p : Word} (hc : s.cur = .warp t w) (hw : s.hasWarp t w = true) :
    Wrote s (s.modWarp t w fun W => { W.setS d x with spc := p, wait := .none, asks := [], got := [], qwait := none }) d x p := by
  have hq := State.warp_modWarp_self s t w (fun W => { W.setS d x with spc := p, wait := .none, asks := [], got := [], qwait := none }) hw
  refine ⟨?_, fun r _ => ?_, ?_⟩
  · simp only [StreamOnly, hc]
    refine State.modWarp_congr _ _ _ _ _ ?_
    simp only [State.pc, State.modWarp_cur, hc, hq]
    rw [Warp.setS_eq]
  · simp only [State.sreg, State.modWarp_cur, hc, hq]
    by_cases h0 : r = 0
    · simp [h0]
    · simp only [h0, if_false, Warp.get_setS _ _ _ _ h0, ne_eq, not_false_eq_true, and_true]
  · simp only [State.pc, State.modWarp_cur, hc, hq]

/-- The sequencer's form. -/
theorem wrote_seq {s : State} {t d : Nat} {x p : Word} (hc : s.cur = .seq t) (ht : (s.teams.find t).isSome) :
    Wrote s (s.modSeq t fun q => { q.setT d x with pc := p, wait := .none, asks := [] }) d x p := by
  have hq : ((s.modSeq t fun q => { q.setT d x with pc := p, wait := .none, asks := [] }).team t).seq =
      { (s.team t).seq.setT d x with pc := p, wait := .none, asks := [] } := by
    unfold State.modSeq; rw [State.team_modTeam _ _ _ _ ht, if_pos rfl]
  refine ⟨?_, fun r _ => ?_, ?_⟩
  · simp only [StreamOnly, hc]
    refine State.modSeq_congr _ _ _ _ ?_
    simp only [State.pc, State.modSeq_cur, hc, hq]
    rw [Seq.setT_eq]
  · simp only [State.sreg, State.modSeq_cur, hc, hq]
    by_cases h0 : r = 0
    · simp [h0]
    · simp only [h0, if_false, Seq.get_setT _ _ _ _ h0, ne_eq, not_false_eq_true, and_true]
  · simp only [State.pc, State.modSeq_cur, hc, hq]

/-- A result and the advance by `n` bytes (R50, R85). -/
theorem wrote_advance {s : State} {fields : List Reg} (h : s.ready fields) (d : Nat) (x : Word) (n : Nat) :
    Wrote s ((s.setSreg d x).advance n) d x (s.pc + BitVec.ofNat 64 n) := by
  rcases s.stands h with ⟨t, w, hc, hw⟩ | ⟨t, hc, ht⟩
  · have := wrote_warp (d := d) (x := x) (p := s.pc + BitVec.ofNat 64 n) hc hw
    convert this using 1
    simp only [State.advance, State.setSreg, hc, State.modWarp_cur, State.modWarp_modWarp]
    refine State.modWarp_congr _ _ _ _ _ ?_
    simp only [State.pc, hc]
    rw [Warp.setS_eq]
  · have := wrote_seq (d := d) (x := x) (p := s.pc + BitVec.ofNat 64 n) hc ht
    convert this using 1
    simp only [State.advance, State.setSreg, hc, State.modSeq_cur, State.modSeq_modSeq]
    refine State.modSeq_congr _ _ _ _ ?_
    simp only [State.pc, hc]
    rw [Seq.setT_eq]

/-- The result of a one-word instruction. -/
theorem result_wrote {s : State} {fields : List Reg} (h : s.ready fields) (d : Reg) (x : Word) : Result s (s.result d x) d x :=
  wrote_advance h d.toNat x 4

end Sys2Proof.Machine
end

