-- ==== Sys2Proof/Laws/Faults.lean ====
section
/-! SUPPORT. What ends of cycles, lane deaths and the faults of a stream leave of a warp that has stopped. -/

namespace Sys2Proof.Machine

/-- What stands of a stopped warp, of its team and of the fault log while other warps' lanes die and cycles end. -/
structure Stands (s s' : State) (t w : Nat) : Prop where
  life : (s'.warp t w).life = (s.warp t w).life
  report : (s'.warp t w).report = (s.warp t w).report
  spc : (s'.warp t w).spc = (s.warp t w).spc
  regs : (s'.warp t w).s = (s.warp t w).s
  members : (s'.warp t w).members = (s.warp t w).members
  faults : s'.faults = s.faults
  faulted : (s'.team t).faulted = (s.team t).faulted
  handler : ∀ u, (s'.team u).handler = (s.team u).handler
  seq : ∀ u, (s'.team u).seq = (s.team u).seq
  dies : s'.dies = s.dies
  has : ∀ u, (s'.teams.find u).isSome = (s.teams.find u).isSome

theorem Stands.refl (s : State) (t w : Nat) : Stands s s t w :=
  ⟨rfl, rfl, rfl, rfl, rfl, rfl, rfl, fun _ => rfl, fun _ => rfl, rfl, fun _ => rfl⟩

theorem Stands.trans {s s' s'' : State} {t w : Nat} (h : Stands s s' t w) (g : Stands s' s'' t w) : Stands s s'' t w :=
  ⟨g.life.trans h.life, g.report.trans h.report, g.spc.trans h.spc, g.regs.trans h.regs, g.members.trans h.members, g.faults.trans h.faults,
   g.faulted.trans h.faulted, fun u => (g.handler u).trans (h.handler u), fun u => (g.seq u).trans (h.seq u), g.dies.trans h.dies,
   fun u => (g.has u).trans (h.has u)⟩

/-- A change of a team that leaves its status, its sequencer and this of a warp. -/
theorem stands_modTeam (s : State) (t w u : Nat) (f : Team → Team)
    (hf : ∀ T, (f T).faulted = T.faulted ∧ (f T).handler = T.handler ∧ (f T).seq = T.seq)
    (hw : ∀ T, u = t → s.team t = T → ((f T).warp w).life = (T.warp w).life ∧ ((f T).warp w).report = (T.warp w).report ∧
      ((f T).warp w).spc = (T.warp w).spc ∧ ((f T).warp w).s = (T.warp w).s ∧ ((f T).warp w).members = (T.warp w).members) :
    Stands s (s.modTeam u f) t w := by
  have key (x : Nat) : (s.modTeam u f).team x = s.team x ∨ (x = u ∧ (s.modTeam u f).team x = f (s.team x)) := by
    by_cases h : x = u
    · subst h
      by_cases hs : (s.teams.find x).isSome
      · right; exact ⟨rfl, by rw [State.team_modTeam _ _ _ _ hs, if_pos rfl]⟩
      · left
        unfold State.team Map.get
        rw [State.find_modTeam, if_pos rfl]
        cases hq : s.teams.find x with
        | none => rfl
        | some _ => simp [hq] at hs
    · exact .inl (State.team_modTeam_ne _ _ h)
  have kh (x : Nat) : ((s.modTeam u f).team x).faulted = (s.team x).faulted ∧ ((s.modTeam u f).team x).handler = (s.team x).handler ∧
      ((s.modTeam u f).team x).seq = (s.team x).seq := by
    rcases key x with h | ⟨_, h⟩ <;> rw [h]
    · exact ⟨rfl, rfl, rfl⟩
    · exact hf _
  have kw : ((s.modTeam u f).warp t w).life = (s.warp t w).life ∧ ((s.modTeam u f).warp t w).report = (s.warp t w).report ∧
      ((s.modTeam u f).warp t w).spc = (s.warp t w).spc ∧ ((s.modTeam u f).warp t w).s = (s.warp t w).s ∧
      ((s.modTeam u f).warp t w).members = (s.warp t w).members := by
    unfold State.warp
    rcases key t with h | ⟨h, h'⟩
    · rw [h]; exact ⟨rfl, rfl, rfl, rfl, rfl⟩
    · rw [h']; exact hw _ h.symm rfl
  refine ⟨kw.1, kw.2.1, kw.2.2.1, kw.2.2.2.1, kw.2.2.2.2, rfl, (kh t).1, fun x => (kh x).2.1, fun x => (kh x).2.2, rfl, fun x => ?_⟩
  rw [State.find_modTeam]; split <;> simp

theorem Team.barriersDone_keeps (T : Team) (w : Nat) :
    (T.barriersDone.faulted = T.faulted ∧ T.barriersDone.handler = T.handler ∧ T.barriersDone.seq = T.seq) ∧
    (T.barriersDone.warp w).life = (T.warp w).life ∧ (T.barriersDone.warp w).report = (T.warp w).report ∧
    (T.barriersDone.warp w).spc = (T.warp w).spc ∧ (T.barriersDone.warp w).s = (T.warp w).s ∧ (T.barriersDone.warp w).members = (T.warp w).members := by
  unfold Team.barriersDone
  generalize T.barriers = l
  induction l generalizing T with
  | nil => simp
  | cons x r ih =>
    rw [List.foldl_cons]
    have := ih (T := match x with
      | (n, c) => if c < T.barTarget then T
        else { T with
          barriers := T.barriers.del n
          warps := T.warps.each fun _ W => { W with a := W.a.map (Path.release n), b := W.b.map (Path.release n) } })
    refine ⟨⟨this.1.1.trans ?_, this.1.2.1.trans ?_, this.1.2.2.trans ?_⟩, this.2.1.trans ?_, this.2.2.1.trans ?_, this.2.2.2.1.trans ?_, this.2.2.2.2.1.trans ?_,
      this.2.2.2.2.2.trans ?_⟩ <;>
    · dsimp only
      split
      · rfl
      · simp only [Team.warp, Map.get, Map.find_each]
        try (cases T.warps.find w <;> rfl)

/-- The end of a cycle leaves a warp that has stopped. -/
theorem settle_stands (s : State) (t w u : Nat) (h : (s.warp t w).life ≠ .running) : Stands s (s.settle u) t w := by
  refine stands_modTeam _ _ _ _ _ (fun T => ?_) (fun T hu hT => ?_)
  · have := (Team.barriersDone_keeps { T with warps := T.warps.each fun _ W => W.settle } w).1
    exact this
  · have hb := (Team.barriersDone_keeps { T with warps := T.warps.each fun _ W => W.settle } w).2
    have hs : (Team.warp { T with warps := T.warps.each fun _ W => W.settle } w) = T.warp w := by
      have hl : (T.warp w).life ≠ .running := by rw [← hT]; exact h
      simp only [Team.warp, Map.get, Map.find_each] at hl ⊢
      cases hW : T.warps.find w with
      | none => rfl
      | some W =>
        simp only [hW, Option.getD_some, Option.map_some] at hl ⊢
        unfold Warp.settle
        rw [if_neg hl]
    rw [hs] at hb
    exact hb

/-- A change of a warp that leaves this of it. -/
theorem stands_modWarp (s : State) (t w u v : Nat) (f : Warp → Warp)
    (hf : ∀ W, (f W).life = W.life ∧ (f W).report = W.report ∧ (f W).spc = W.spc ∧ (f W).s = W.s ∧ (f W).members = W.members) :
    Stands s (s.modWarp u v f) t w := by
  refine stands_modTeam _ _ _ _ _ (fun T => ⟨rfl, rfl, rfl⟩) (fun (T : Team) _ _ => ?_)
  simp only [Team.warp, Map.get, Team.find_modWarp]
  split
  · rename_i hv
    cases T.warps.find w with
    | none => exact ⟨rfl, rfl, rfl, rfl, rfl⟩
    | some W => exact hf W
  · exact ⟨rfl, rfl, rfl, rfl, rfl⟩

theorem stands_frags (s : State) (t w : Nat) (l : Map Frag) : Stands s { s with frags := l } t w :=
  ⟨rfl, rfl, rfl, rfl, rfl, rfl, rfl, fun _ => rfl, fun _ => rfl, rfl, fun _ => rfl⟩

/-- Lanes that die leave a stopped warp's scalar side. -/
theorem killLanes_stands (s : State) (t w u v : Nat) (ls : Half) (c : Nat) : Stands s (s.killLanes u v ls c) t w := by
  have h1 : Stands s (s.modWarp u v (·.kill ls c)) t w := stands_modWarp _ _ _ _ _ _ fun W => ⟨rfl, rfl, rfl, rfl, rfl⟩
  exact h1.trans (stands_frags _ t w _)

theorem resolveFrag_stands (s : State) (t w f : Nat) (h : (s.warp t w).life ≠ .running) : Stands s (s.resolveFrag f) t w := by
  unfold State.resolveFrag
  split
  · exact .refl _ _ _
  · rename_i F hF
    extract_lets live pt rs p mix kil left out s0 s1 s2 s3
    split
    · exact .refl _ _ _
    · have h1 : Stands s s1 t w := by
        simp only [s1]
        split
        · exact stands_frags _ _ _ _
        · split
          · have h0 : Stands s s0 t w := stands_modWarp _ _ _ _ _ _ fun W => ⟨rfl, rfl, rfl, rfl, rfl⟩
            split
            · exact h0.trans (stands_frags _ _ _ _)
            · exact h0.trans (stands_frags _ _ _ _)
          · exact stands_frags _ _ _ _
      have h2 : Stands s s2 t w := by
        simp only [s2]
        split
        · exact h1
        · exact h1.trans (killLanes_stands _ _ _ _ _ _ _)
      have h3 : Stands s s3 t w := by
        simp only [s3]
        split
        · exact h2
        · exact h2.trans (killLanes_stands _ _ _ _ _ _ _)
      exact h3.trans (settle_stands _ _ _ _ (by rw [h3.life]; exact h))

theorem killOrigins_stands (s : State) (t w u v : Nat) (ls : List Nat) (c : Nat) (h : (s.warp t w).life ≠ .running) :
    Stands s (s.killOrigins u v ls c) t w := by
  unfold State.killOrigins
  dsimp only
  generalize (s.warp u v).origins = os
  have h0 : Stands s (s.modWarp u v fun W => { W with origins := W.origins.mapIdx fun i o => if ls.contains i then { o with settled := true } else o }) t w :=
    stands_modWarp _ _ _ _ _ _ fun W => ⟨rfl, rfl, rfl, rfl, rfl⟩
  have step : ∀ (l : List Nat) (s' : State), Stands s s' t w → Stands s (l.foldl (fun s l => match os[l]? with
    | none => s
    | some o =>
      if o.settled || !s.fragLive o.frag then s
      else
        let F := s.frag o.frag
        ((s.killLanes F.team F.warp (maskOf [o.lane]) c).resolveFrag o.frag).settle F.team) s') t w := by
    intro l
    induction l with
    | nil => exact fun _ h => h
    | cons x r ih =>
      intro s' hs
      refine ih _ ?_
      show Stands s (match os[x]? with
        | none => s'
        | some o =>
          if o.settled || !s'.fragLive o.frag then s'
          else
            let F := s'.frag o.frag
            ((s'.killLanes F.team F.warp (maskOf [o.lane]) c).resolveFrag o.frag).settle F.team) t w
      cases os[x]? with
      | none => exact hs
      | some o =>
        dsimp only
        split
        · exact hs
        · have h1 := hs.trans (killLanes_stands s' t w (s'.frag o.frag).team (s'.frag o.frag).warp (maskOf [o.lane]) c)
          have h2 := h1.trans (resolveFrag_stands _ _ _ o.frag (by rw [h1.life]; exact h))
          exact h2.trans (settle_stands _ _ _ _ (by rw [h2.life]; exact h))
  exact step _ _ h0

/-- A running warp that takes a fault halts with its report (R410, R412). -/
theorem warpFault_halts (s : State) (t w : Nat) (r : Raise) (h : s.hasWarp t w = true) (hr : (s.warp t w).life = .running) :
    WarpHalted s (s.warpFault t w r) t w (s.mkReport t (some w) r) := by
  have hm := State.warp_modWarp_self s t w (fun W => { W with report := some (s.mkReport t (some w) r) }) h
  have hh : (s.modWarp t w fun W => { W with report := some (s.mkReport t (some w) r) }).hasWarp t w = true := by
    rw [State.hasWarp_modWarp]; exact h
  have e : s.warpFault t w r = State.haltWarp { (s.modWarp t w fun W => { W with report := some (s.mkReport t (some w) r) }) with
      faults := s.faults ++ [s.mkReport t (some w) r] } t w := by
    unfold State.warpFault; rw [if_neg (not_not.mpr hr)]; rfl
  rw [e]
  generalize hs1 : ({ (s.modWarp t w fun W => { W with report := some (s.mkReport t (some w) r) }) with
      faults := s.faults ++ [s.mkReport t (some w) r] } : State) = s1
  have w1 : s1.warp t w = { s.warp t w with report := some (s.mkReport t (some w) r) } := by rw [← hs1]; exact hm
  have f1 : s1.faults = s.faults ++ [s.mkReport t (some w) r] := by rw [← hs1]
  have k1 : s1.hasWarp t w = true := by rw [← hs1]; exact hh
  have m2 := State.warp_modWarp_self s1 t w (fun W => { W with life := .halted, wait := .none, asks := [] }) k1
  have k2 : (s1.modWarp t w fun W => { W with life := .halted, wait := .none, asks := [] }).hasWarp t w = true := by
    rw [State.hasWarp_modWarp]; exact k1
  have e2 : s1.haltWarp t w = ((if ((s1.modWarp t w fun W => { W with life := .halted, wait := .none, asks := [] }).team t).handler then
      (s1.modWarp t w fun W => { W with life := .halted, wait := .none, asks := [] }).killOrigins t w lanes 4
      else (s1.modWarp t w fun W => { W with life := .halted, wait := .none, asks := [] })).modTeam t fun T => { T with faulted := true }).settle t := rfl
  rw [e2]
  have f2 : (s1.modWarp t w fun W => { W with life := .halted, wait := .none, asks := [] }).faults = s1.faults := rfl
  generalize (s1.modWarp t w fun W => { W with life := .halted, wait := .none, asks := [] }) = s2 at m2 k2 f2 ⊢
  have n2 : (s2.warp t w).life ≠ .running := by rw [m2]; simp
  have h3 : Stands s2 (if (s2.team t).handler then s2.killOrigins t w lanes 4 else s2) t w := by
    split
    · exact killOrigins_stands _ _ _ _ _ _ _ n2
    · exact .refl _ _ _
  have k3 : ((if (s2.team t).handler then s2.killOrigins t w lanes 4 else s2).teams.find t).isSome := by
    rw [h3.has]
    simp only [State.hasWarp, Bool.and_eq_true] at k2
    exact k2.1
  generalize (if (s2.team t).handler then s2.killOrigins t w lanes 4 else s2) = s3 at h3 k3 ⊢
  have h4 : Stands (s3.modTeam t fun T => { T with faulted := true }) ((s3.modTeam t fun T => { T with faulted := true }).settle t) t w := by
    refine settle_stands _ _ _ _ ?_
    unfold State.warp
    rw [State.team_modTeam _ _ _ _ k3, if_pos rfl]
    show (s3.warp t w).life ≠ .running
    rw [h3.life]; exact n2
  have w3 : (s3.modTeam t fun T => { T with faulted := true }).warp t w = s3.warp t w := by
    unfold State.warp
    rw [State.team_modTeam _ _ _ _ k3, if_pos rfl]; rfl
  refine ⟨?_, ?_, ?_, ?_, ?_, ?_⟩
  · rw [h4.life, w3, h3.life, m2]
  · rw [h4.report, w3, h3.report, m2, w1]
  · rw [h4.faults]; show s3.faults = _; rw [h3.faults, f2, f1]
  · rw [h4.spc, w3, h3.spc, m2, w1]
  · intro x; rw [h4.regs, w3, h3.regs, m2, w1]
  · rw [h4.faulted, State.team_modTeam _ _ _ _ k3, if_pos rfl]

end Sys2Proof.Machine
end

