-- ==== Sys2Proof/Laws/Lane.lean ====
section
/-! SUPPORT. What the frames of lane instructions do. -/

namespace Sys2Proof.Machine

/-- A path of a running warp may issue. -/
theorem pathLive_of_live {s : State} {t w : Nat} {b : Bool} (h : s.warpLive t w = true) (hp : ((s.warp t w).path b).isSome) :
    s.pathLive t w b = true := by
  unfold State.warpLive at h
  unfold State.pathLive
  unfold State.warp State.team Team.warp Map.get at hp
  cases hT : s.teams.find t with
  | none => simp [hT] at h
  | some T =>
    cases hW : T.warps.find w with
    | none => simp [hT, hW] at h
    | some W =>
      simp only [hT, hW, Option.getD_some] at h hp
      obtain ⟨p, hp⟩ := Option.isSome_iff_exists.1 hp
      simp [hW, hp, h]

/-- The frame lets a lane instruction run on its path (R48). -/
theorem lane_onPath {s : State} {t w : Nat} {b : Bool} (k : Nat → Nat → Bool → Out) (h : s.onPath t w b) : lane s k = k t w b := by
  obtain ⟨hc, hl, hp, -⟩ := h
  simp [lane, hc, pathLive_of_live hl hp]

/-- The lanes of a mask in ascending order. -/
theorem mem_lanesOf (m : Half) (l : Nat) : l ∈ lanesOf m ↔ l < 32 ∧ m.getLsbD l = true := by simp [lanesOf, lanes]

theorem nodup_lanesOf (m : Half) : (lanesOf m).Nodup := (List.nodup_range).filter _

/-- The effective lanes (R61), bit by bit. -/
theorem eff_acts (s : State) (t w : Nat) (b : Bool) (f : LaneWord) (l : Nat) (hl : l < 32) :
    (s.eff t w b f).getLsbD l = s.acts t w b f l := by
  unfold State.eff Warp.laneEff State.acts
  change ((s.path t w b).m0 &&& (if f.pm = 0 then ~~~0 else if f.pn then ~~~((s.warp t w).m.get f.pm.toNat 0) else (s.warp t w).m.get f.pm.toNat 0) &&&
    ~~~(s.warp t w).dead).getLsbD l = _
  have h1 : (~~~(0 : Half)).getLsbD l = true := by rw [BitVec.getLsbD_not]; simp [hl]
  simp only [BitVec.getLsbD_and, BitVec.getLsbD_not, hl, decide_true, Bool.true_and]
  by_cases h0 : f.pm = 0
  · rw [if_pos h0, h1]; simp [h0]
  · have hb : (f.pm == 0) = false := by simpa using h0
    rw [if_neg h0, hb, Bool.false_or]
    by_cases hn : f.pn = true
    · rw [if_pos hn, hn, BitVec.getLsbD_not]
      simp only [hl, decide_true, Bool.true_and]
      cases ((s.warp t w).m.get f.pm.toNat 0).getLsbD l <;> cases (s.warp t w).dead.getLsbD l <;> cases (s.path t w b).m0.getLsbD l <;> rfl
    · rw [if_neg hn]
      rw [Bool.not_eq_true] at hn
      rw [hn]
      cases ((s.warp t w).m.get f.pm.toNat 0).getLsbD l <;> cases (s.warp t w).dead.getLsbD l <;> cases (s.path t w b).m0.getLsbD l <;> rfl

theorem lanesOf_eff (s : State) (t w : Nat) (b : Bool) (f : LaneWord) : lanesOf (s.eff t w b f) = s.acting t w b f := by
  unfold lanesOf State.acting lanes
  exact List.filter_congr fun l hl => eff_acts s t w b f l (List.mem_range.1 hl)

/-- Without uncorrectable words no lane dies of one (R108). -/
@[simp] theorem Warp.badLanes_nil (W : Warp) (e : Half) (rs : List Nat) (h : W.badV = []) : W.badLanes e rs = 0 := by
  simp [Warp.badLanes, h]

@[simp] theorem Warp.path_setPath (W : Warp) (b : Bool) (p : Option Path) : (W.setPath b p).path b = p := by cases b <;> rfl

@[simp] theorem Warp.setPath_setPath (W : Warp) (b : Bool) (p q : Option Path) : (W.setPath b p).setPath b q = W.setPath b q := by cases b <;> rfl

/-- The path of a warp that has one. -/
theorem State.path_eq {s : State} {t w : Nat} {b : Bool} (h : ((s.warp t w).path b).isSome) : (s.warp t w).path b = some (s.path t w b) := by
  unfold State.path
  obtain ⟨p, hp⟩ := Option.isSome_iff_exists.1 h
  simp [hp]

theorem State.path_of {s : State} {t w : Nat} {b : Bool} {p : Path} (h : (s.warp t w).path b = some p) : s.path t w b = p := by
  unfold State.path; rw [h]; rfl

/-- The next index lies in the lane code (R40): the path goes there. -/
theorem nextIdx_goes {s : State} {t w : Nat} {b : Bool} (hp : ((s.warp t w).path b).isSome) (h : s.goesOn t w b) :
    s.nextIdx t w b = s.modWarp t w fun W => W.setPath b (some ((s.path t w b).stepped s.now)) := by
  unfold State.goesOn at h
  unfold State.nextIdx State.goto
  rw [if_pos (by omega)]
  unfold State.modPath
  refine State.modWarp_congr _ _ _ _ _ ?_
  rw [State.path_eq hp]; rfl

theorem nextIdx_steps {s : State} {t w : Nat} {b : Bool} (h : s.onPath t w b) (hg : s.goesOn t w b) : PathSteps s (s.nextIdx t w b) t w b :=
  nextIdx_goes h.2.2.1 hg

/-- A change of the warp that leaves a path in the slot, and the next index. -/
theorem modWarp_nextIdx' {s : State} {t w : Nat} {b : Bool} (hw : s.hasWarp t w = true) (g : Warp → Warp) (p : Path)
    (hb : (g (s.warp t w)).path b = some p) (hp : p.pc < 65535) :
    (s.modWarp t w g).nextIdx t w b = s.modWarp t w fun W => (g W).setPath b (some (p.stepped s.now)) := by
  have he := State.warp_modWarp_self s t w g hw
  have hq : (s.modWarp t w g).path t w b = p := by unfold State.path; rw [he, hb]; rfl
  rw [nextIdx_goes (by rw [he, hb]; rfl) (by unfold State.goesOn; rw [hq]; exact hp), State.modWarp_modWarp, hq]
  rfl

/-- A change of the warp that keeps its path, and the next index. -/
theorem modWarp_nextIdx {s : State} {t w : Nat} {b : Bool} (h : s.onPath t w b) (hg : s.goesOn t w b) (g : Warp → Warp)
    (hb : (g (s.warp t w)).path b = (s.warp t w).path b) :
    (s.modWarp t w g).nextIdx t w b = s.modWarp t w fun W => (g W).setPath b (some ((s.path t w b).stepped s.now)) :=
  modWarp_nextIdx' (State.hasWarp_of_live h.2.1) g _ (by rw [hb, State.path_eq h.2.2.1]) hg

/-- Writes of one lane: other lanes stand; of the words written to a register the last one stays. -/
theorem Warp.setVs_fields (W : Warp) (l : Nat) (ws : List (Nat × Half)) :
    W.setVs l ws = { W with v := (W.setVs l ws).v, badV := (W.setVs l ws).badV } := by
  unfold Warp.setVs
  induction ws generalizing W with
  | nil => rfl
  | cons x r ih => rw [List.foldl_cons, ih]; rfl

theorem Warp.foldl_setVs_fields (ls : List Nat) (W : Warp) (g : Nat → List (Nat × Half)) :
    ls.foldl (fun V l => V.setVs l (g l)) W =
      { W with v := (ls.foldl (fun V l => V.setVs l (g l)) W).v, badV := (ls.foldl (fun V l => V.setVs l (g l)) W).badV } := by
  induction ls generalizing W with
  | nil => rfl
  | cons x r ih => rw [List.foldl_cons, ih, Warp.setVs_fields]

/-- The word that a list of writes puts into a register: the last one for it. -/
def lastWrite (ws : List (Nat × Half)) (r : Nat) : Option Half := (ws.reverse.find? fun x => x.1 == r).map (·.2)

theorem Warp.vw_setVs (W : Warp) (l k r : Nat) (ws : List (Nat × Half)) (hl : l < 32) (hk : k < 32) :
    (W.setVs l ws).vw r k = if k = l then (lastWrite ws r).getD (W.vw r k) else W.vw r k := by
  unfold Warp.setVs
  induction ws generalizing W with
  | nil => simp [lastWrite]
  | cons x ws ih =>
    rw [List.foldl_cons, ih, Warp.vw_setV _ _ _ _ _ _ hl hk]
    by_cases hkl : k = l
    · subst hkl
      simp only [if_true, and_true, lastWrite, List.reverse_cons, List.find?_append]
      cases hf : (ws.reverse.find? fun y => y.1 == r) with
      | some y => simp
      | none =>
        by_cases hx : x.1 = r
        · rw [if_pos hx.symm]; simp [hx]
        · have : (x.1 == r) = false := by simpa using hx
          rw [if_neg fun h => hx h.symm]; simp [List.find?, this]
    · simp [hkl]

theorem Warp.vw_foldl_setVs (ls : List Nat) (W : Warp) (g : Nat → List (Nat × Half)) (hn : ls.Nodup) (hl : ∀ l ∈ ls, l < 32) (k r : Nat)
    (hk : k < 32) :
    (ls.foldl (fun V l => V.setVs l (g l)) W).vw r k = if k ∈ ls then (lastWrite (g k) r).getD (W.vw r k) else W.vw r k := by
  induction ls generalizing W with
  | nil => simp
  | cons x ls ih =>
    rw [List.foldl_cons, ih _ (List.nodup_cons.1 hn).2 fun l h => hl l (List.mem_cons_of_mem _ h),
      Warp.vw_setVs _ _ _ _ _ (hl x (List.mem_cons_self ..)) hk]
    by_cases hx : k = x
    · subst hx
      simp [(List.nodup_cons.1 hn).1]
    · simp [hx]

theorem and_not_zero (m : Half) : (m &&& ~~~(0 : Half)) = m := by
  rw [show ~~~(0 : Half) = BitVec.allOnes 32 by decide, BitVec.and_allOnes]

/-- What `laneWrites` does on a path that goes on and reads no uncorrectable word: each lane with effect makes its writes, the path advances,
nothing else changes. -/
theorem laneWrites_spec {s : State} {t w : Nat} {b : Bool} (h : s.onPath t w b) (hg : s.goesOn t w b) (f : LaneWord) (reads : List Nat)
    (g : Warp → Nat → List (Nat × Half)) :
    ∃ s', laneWrites f reads g s = .next s' ∧
      LaneWrote s s' t w b fun l r => if s.acts t w b f l then lastWrite (g (s.warp t w) l) r else none := by
  have hw := State.hasWarp_of_live h.2.1
  have hz := and_not_zero (s.eff t w b f)
  refine ⟨s.modWarp t w fun V => ((s.acting t w b f).foldl (fun V l => V.setVs l (g (s.warp t w) l)) V).setPath b (some ((s.path t w b).stepped s.now)),
    ?_, ?_, ?_⟩
  rotate_left
  · rw [State.warp_modWarp_self _ _ _ _ hw]
    refine State.modWarp_congr _ _ _ _ _ ?_
    conv_lhs => rw [Warp.foldl_setVs_fields]
    cases b <;> rfl
  · intro l hl r
    rw [State.warp_modWarp_self _ _ _ _ hw]
    have : ∀ V : Warp, (V.setPath b (some ((s.path t w b).stepped s.now))).vw r l = V.vw r l := by intro V; cases b <;> rfl
    rw [this, Warp.vw_foldl_setVs _ _ _ (by rw [← lanesOf_eff]; exact nodup_lanesOf _) (by rw [← lanesOf_eff]; intro l h; exact ((mem_lanesOf _ _).1 h).1) _ _ hl]
    have : (l ∈ s.acting t w b f) ↔ s.acts t w b f l = true := by simp [State.acting, hl]
    by_cases ha : s.acts t w b f l = true
    · simp [this, ha]
    · simp [this, ha]
  · unfold laneWrites
    rw [lane_onPath _ h]
    simp only [Warp.badLanes_nil _ _ _ h.2.2.2, hz, lanesOf_eff, State.laneEnd, if_true]
    rw [modWarp_nextIdx h hg _ (by rw [Warp.foldl_setVs_fields]; cases b <;> rfl)]

/-- A register result, one word or a pair (R57, R66). -/
theorem laneWrites_result {s : State} {t w : Nat} {b : Bool} (h : s.onPath t w b) (hg : s.goesOn t w b) (f : LaneWord) (reads : List Nat)
    (wide : Bool) (v : Warp → Nat → Nat) :
    ∃ s', laneWrites f reads (fun W l => out1 wide f.vd (v W l)) s = .next s' ∧ LaneResult s s' t w b f wide (v (s.warp t w)) := by
  obtain ⟨s', h1, h2⟩ := laneWrites_spec h hg f reads fun W l => out1 wide f.vd (v W l)
  refine ⟨s', h1, ?_⟩
  unfold LaneResult
  convert h2 using 3 with l r
  cases wide
  · simp only [lastWrite, out1, Bool.false_eq_true, false_and, if_false]
    by_cases hr : r = f.vd.toNat
    · simp [hr]
    · have : ¬ f.vd.toNat = r := fun h => hr h.symm
      simp [List.find?, hr, this]
  · simp only [lastWrite, out1, if_true, true_and]
    by_cases hr : r = f.vd.toNat
    · subst hr; simp [List.find?]
    · have h1 : ¬ f.vd.toNat = r := fun h => hr h.symm
      by_cases hr1 : r = f.vd.toNat + 1
      · subst hr1; simp
      · have h2 : ¬ f.vd.toNat + 1 = r := fun h => hr1 h.symm
        have b1 : (f.vd.toNat == r) = false := by simpa using h1
        have b2 : (f.vd.toNat + 1 == r) = false := by simpa using h2
        simp [List.find?, hr, hr1, b1, b2]

/-- The mask of a list of lanes, bit by bit. -/
theorem getLsbD_maskOf (ls : List Nat) (l : Nat) (hl : l < 32) (h : ∀ k ∈ ls, k < 32) : (maskOf ls).getLsbD l = decide (l ∈ ls) := by
  unfold maskOf
  have key : ∀ (ls : List Nat) (m : Half), (∀ k ∈ ls, k < 32) →
      (ls.foldl (fun m l => m ||| BitVec.ofNat 32 (2 ^ l)) m).getLsbD l = (m.getLsbD l || decide (l ∈ ls)) := by
    intro ls
    induction ls with
    | nil => simp
    | cons x ls ih =>
      intro m hx
      rw [List.foldl_cons, ih _ fun k hk => hx k (List.mem_cons_of_mem _ hk)]
      have hx2 : x < 32 := hx x (List.mem_cons_self ..)
      have : (BitVec.ofNat 32 (2 ^ x)).getLsbD l = decide (l = x) := by
        simp only [BitVec.getLsbD_ofNat, hl, decide_true, Bool.true_and, Nat.testBit_two_pow, eq_comm]
      rw [BitVec.getLsbD_or, this]
      by_cases hlx : l = x <;> simp [hlx]
  rw [key ls 0 h]; simp

/-- What `laneMask` does: each lane with effect takes its bit; m0 is only cleared. -/
theorem laneMask_wrote {s : State} {t w : Nat} {b : Bool} (h : s.onPath t w b) (hg : s.goesOn t w b) (f : LaneWord) (reads : List Nat)
    (k : Nat) (g : Warp → Bool → Nat → Bool) :
    ∃ s', laneMask f reads k g s = .next s' ∧ MaskWrote s s' t w b f k (g (s.warp t w) b) := by
  have hw := State.hasWarp_of_live h.2.1
  have hp := State.path_eq h.2.2.1
  have hv : ∀ l < 32, (maskOf ((lanesOf (s.eff t w b f)).filter (g (s.warp t w) b))).getLsbD l = (s.acts t w b f l && g (s.warp t w) b l) := by
    intro l hl
    rw [getLsbD_maskOf _ _ hl fun j hj => ((mem_lanesOf _ _).1 (List.mem_filter.1 hj).1).1]
    have := eff_acts s t w b f l hl
    rw [← this]
    by_cases h1 : (s.eff t w b f).getLsbD l = true <;> by_cases h2 : g (s.warp t w) b l = true <;> simp only [List.mem_filter, mem_lanesOf, hl, h1, h2] <;> simp_all
  have hrun : laneMask f reads k g s = .next ((s.modWarp t w fun V =>
      V.writeMask b k (s.eff t w b f) (maskOf ((lanesOf (s.eff t w b f)).filter (g (s.warp t w) b)))).nextIdx t w b) := by
    unfold laneMask
    rw [lane_onPath _ h]
    simp only [Warp.badLanes_nil _ _ _ h.2.2.2, and_not_zero, State.laneEnd, if_true]
  refine ⟨_, hrun, ?_⟩
  have ha := fun l hl => eff_acts s t w b f l hl
  revert hv ha
  generalize maskOf ((lanesOf (s.eff t w b f)).filter (g (s.warp t w) b)) = val
  generalize s.eff t w b f = e
  intro hv ha
  by_cases hk : k = 0
  · subst hk
    rw [modWarp_nextIdx' hw _ { s.path t w b with m0 := (s.path t w b).m0 &&& (~~~e ||| val) } (by simp [Warp.writeMask, hp]) hg]
    have he := State.warp_modWarp_self s t w (fun W => (W.writeMask b 0 e val).setPath b
      (some (Path.stepped { s.path t w b with m0 := (s.path t w b).m0 &&& (~~~e ||| val) } s.now))) hw
    have hpath : (s.modWarp t w fun W => (W.writeMask b 0 e val).setPath b
      (some (Path.stepped { s.path t w b with m0 := (s.path t w b).m0 &&& (~~~e ||| val) } s.now))).path t w b =
        Path.stepped { s.path t w b with m0 := (s.path t w b).m0 &&& (~~~e ||| val) } s.now := State.path_of (by rw [he]; simp)
    refine ⟨?_, ?_, ?_⟩
    · rw [hpath, he]
      refine State.modWarp_congr _ _ _ _ _ ?_
      cases b <;> simp [Warp.writeMask, Warp.setPath, Path.stepped]
    · intro j hj hj8 l hl
      rw [he]
      have : j ≠ 0 := by omega
      simp only [this, false_and, if_false]
      cases b <;> rfl
    · intro l hl
      rw [hpath]
      simp only [Path.stepped, BitVec.getLsbD_and, BitVec.getLsbD_or, BitVec.getLsbD_not, hl, hv l hl, ha l hl]
      cases s.acts t w b f l <;> simp
  · have hm : ∀ V : Warp, (V.writeMask b k e val).path b = V.path b := by
      intro V; simp only [Warp.writeMask, hk, if_false, Warp.setMask]; cases b <;> rfl
    rw [modWarp_nextIdx h hg _ (hm _)]
    have he := State.warp_modWarp_self s t w (fun V => (V.writeMask b k e val).setPath b (some ((s.path t w b).stepped s.now))) hw
    have hpath : (s.modWarp t w fun V => (V.writeMask b k e val).setPath b (some ((s.path t w b).stepped s.now))).path t w b =
        (s.path t w b).stepped s.now := State.path_of (by rw [he]; simp)
    refine ⟨?_, ?_, ?_⟩
    · rw [hpath, he]
      refine State.modWarp_congr _ _ _ _ _ ?_
      simp only [Warp.writeMask, hk, if_false, Warp.setMask, Path.stepped]
      cases b <;> rfl
    · intro j hj hj8 l hl
      rw [he]
      have : ∀ V : Warp, ∀ q, (V.setPath b q).m = V.m := by intro V q; cases b <;> rfl
      rw [this]
      simp only [Warp.writeMask, hk, if_false, Warp.setMask, Map.get_put]
      by_cases hjk : j = k
      · subst hjk
        simp only [if_true, BitVec.getLsbD_or, BitVec.getLsbD_and, BitVec.getLsbD_not, hl, hv l hl, ha l hl, true_and, decide_true, Bool.true_and]
        cases s.acts t w b f l <;> simp
      · simp [hjk]
    · intro l hl
      rw [hpath]
      simp [hk, Path.stepped]

/-- What `laneShared` does: one shared register takes the value, or nothing is written. -/
theorem laneShared_wrote {s : State} {t w : Nat} {b : Bool} (h : s.onPath t w b) (hg : s.goesOn t w b) (f : LaneWord) (reads : List Nat)
    (r : Nat) (g : Warp → Bool → List Nat → Option Word) :
    (∀ x, g (s.warp t w) b (s.acting t w b f) = some x → ∃ s', laneShared f reads r g s = .next s' ∧ SharedWrote s s' t w b r x) ∧
    (g (s.warp t w) b (s.acting t w b f) = none → ∃ s', laneShared f reads r g s = .next s' ∧ PathSteps s s' t w b) := by
  have hz := and_not_zero (s.eff t w b f)
  constructor
  · intro x hx
    refine ⟨_, by
      unfold laneShared
      rw [lane_onPath _ h]
      simp only [Warp.badLanes_nil _ _ _ h.2.2.2, hz, lanesOf_eff, hx, State.laneEnd, if_true]
      rfl, ?_⟩
    exact modWarp_nextIdx h hg _ (by unfold Warp.setSnap; cases b <;> rfl)
  · intro hx
    refine ⟨_, by
      unfold laneShared
      rw [lane_onPath _ h]
      simp only [Warp.badLanes_nil _ _ _ h.2.2.2, hz, lanesOf_eff, hx, State.laneEnd, if_true]
      rfl, ?_⟩
    exact nextIdx_steps h hg

end Sys2Proof.Machine
end

