-- ==== Sys2Proof/Laws/Memory.lean ====
section
/-! SUPPORT. Every operation on memory keeps its canonical form: writes of bytes, of a die, of a scratchpad, the formatting of a frame, and the
changes of the package that leave memory alone. -/

namespace Sys2Proof.Machine

/-- State.reset's memories are in canonical form. -/
theorem canonical_reset : State.reset.canonical := by constructor <;> decide

theorem mem_mod {α : Type} {m : Map α} {k : Nat} {f : α → α} {x : Nat × α} (h : x ∈ m.mod k f) : x ∈ m ∨ ∃ v, (k, v) ∈ m ∧ x = (k, f v) := by
  induction m with
  | nil => simp [Map.mod] at h
  | cons y m ih =>
    obtain ⟨j, u⟩ := y
    simp only [Map.mod] at h
    split at h
    · rename_i hj
      subst hj
      rcases List.mem_cons.mp h with h | h
      · exact .inr ⟨u, by simp, h⟩
      · exact .inl (List.mem_cons_of_mem _ h)
    · rcases List.mem_cons.mp h with h | h
      · exact .inl (h ▸ List.mem_cons_self)
      · rcases ih h with h | ⟨v, hv, h⟩
        · exact .inl (List.mem_cons_of_mem _ h)
        · exact .inr ⟨v, List.mem_cons_of_mem _ hv, h⟩

theorem mem_each {α : Type} {m : Map α} {f : Nat → α → α} {x : Nat × α} (h : x ∈ m.each f) : ∃ v, (x.1, v) ∈ m ∧ x.2 = f x.1 v := by
  simp only [Map.each, List.mem_map] at h
  obtain ⟨⟨j, u⟩, hm, rfl⟩ := h
  exact ⟨u, hm, rfl⟩

/-- A change of one die keeps the form when it keeps that of the die's memory. -/
theorem canonical_modDie {s : State} (d : Nat) (f : Die → Die) (h : s.canonical)
    (hf : ∀ D : Die, Memory.wf D.mem = true → Memory.wf (f D).mem = true) : (s.modDie d f).canonical := by
  refine ⟨fun x hx => ?_, h.2⟩
  rcases mem_mod (m := s.dies) hx with hx | ⟨v, hv, rfl⟩
  · exact h.1 x hx
  · exact hf v (h.1 _ hv)

/-- A change of one team keeps the form when it keeps that of the team's scratchpad. -/
theorem canonical_modTeam {s : State} (t : Nat) (f : Team → Team) (h : s.canonical)
    (hf : ∀ T : Team, Memory.wf T.sp = true → Memory.wf (f T).sp = true) : (s.modTeam t f).canonical := by
  refine ⟨h.1, fun x hx => ?_⟩
  rcases mem_mod (m := s.teams) hx with hx | ⟨v, hv, rfl⟩
  · exact h.2 x hx
  · exact hf v (h.2 _ hv)

/-- A change of a warp leaves memory alone. -/
theorem canonical_modWarp {s : State} (t w : Nat) (f : Warp → Warp) (h : s.canonical) : (s.modWarp t w f).canonical :=
  canonical_modTeam t _ h fun _ h => h

/-- A change of a sequencer leaves memory alone. -/
theorem canonical_modSeq {s : State} (t : Nat) (f : Seq → Seq) (h : s.canonical) : (s.modSeq t f).canonical :=
  canonical_modTeam t _ h fun _ h => h

/-- A change of every die keeps the form when it keeps that of each. -/
theorem canonical_eachDie {s : State} (f : Nat → Die → Die) (h : s.canonical)
    (hf : ∀ d (D : Die), Memory.wf D.mem = true → Memory.wf (f d D).mem = true) : State.canonical { s with dies := s.dies.each f } := by
  refine ⟨fun x hx => ?_, h.2⟩
  obtain ⟨v, hv, hx⟩ := mem_each (m := s.dies) hx
  rw [hx]
  exact hf _ v (h.1 _ hv)

/-- A change of every team keeps the form when it keeps that of each. -/
theorem canonical_eachTeam {s : State} (f : Nat → Team → Team) (h : s.canonical)
    (hf : ∀ t (T : Team), Memory.wf T.sp = true → Memory.wf (f t T).sp = true) : State.canonical { s with teams := s.teams.each f } := by
  refine ⟨h.1, fun x hx => ?_⟩
  obtain ⟨v, hv, hx⟩ := mem_each (m := s.teams) hx
  rw [hx]
  exact hf _ v (h.2 _ hv)

/-- A write within a line keeps the form. -/
theorem wf_wrLine (D : Die) (pa : Nat) (bs : List Byte) (h : Memory.wf D.mem = true) : Memory.wf (D.wrLine pa bs).mem = true := by
  unfold Die.wrLine
  split
  · exact h
  · exact wf_wrBytes _ _ _ h

/-- Writes of several lines keep the form. -/
theorem wf_wrLines (l : List (Nat × List Byte)) (D : Die) (h : Memory.wf D.mem = true) :
    Memory.wf (l.foldl (fun D x => D.wrLine x.1 x.2) D).mem = true := by
  induction l generalizing D with
  | nil => exact h
  | cons x l ih => exact ih _ (wf_wrLine D x.1 x.2 h)

/-- A write at a base die keeps the form. -/
theorem wf_wr (D : Die) (pa : Nat) (bs : List Byte) (h : Memory.wf D.mem = true) : Memory.wf (D.wr pa bs).mem = true := wf_wrLines _ D h

/-- A write to device memory keeps the form. -/
theorem canonical_wrRaw {s : State} (d pa : Nat) (bs : List Byte) (h : s.canonical) : (s.wrRaw d pa bs).canonical := by
  unfold State.wrRaw
  exact canonical_eachTeam _ (canonical_modDie d _ h fun D hD => wf_wr D pa bs hD) fun t T hT => by
    split
    · exact hT
    · exact hT

/-- A write to a scratchpad keeps the form. -/
theorem canonical_spPut {s : State} (t off : Nat) (bs : List Byte) (h : s.canonical) : (s.spPut t off bs).canonical :=
  canonical_modTeam t _ h fun _ hT => wf_wrBytes _ _ _ hT

/-- The passing of time leaves memory alone. -/
theorem canonical_pass {s : State} (n : Nat) (h : s.canonical) : (s.pass n).canonical :=
  canonical_eachDie (s := { s with now := s.now + n }) _ h fun d D hD => by
    split
    · exact hD
    · exact hD

end Sys2Proof.Machine
end

