-- ==== Sys2Proof/Tests/Slice0.lean ====
section
/-! SUPPORT. Tests: ill-formed terms that are refused, words of the spec's encodings that decode, states that meet the statements' hypotheses,
and results worked out by hand from the spec. -/

open Sys2Proof Sys2Proof.Machine

namespace Sys2Proof.Tests

-- One theorem after another: the kernel evaluates these one by one, and tests that wait for it would each hold a thread.
set_option Elab.async false

/-! ### Small states -/

/-- Warp 0 of team 1 issues, with these contents of the warp; path A of its warp; the sequencer of a team. -/
def warpAt (W : Warp) : State := { cur := .warp 1 0, teams := [(1, { placedTeam with warps := [(0, W)] })] }
def warpIn (T : Team) (W : Warp) : State := { cur := .warp 1 0, teams := [(1, { T with warps := [(0, W)] })] }
def pathOf (P : Path) (W : Warp) : Warp := { W with queue := [{}], started := true, a := some P }
def pathAt (P : Path) (W : Warp) : State := { cur := .path 1 0 false, teams := [(1, { placedTeam with warps := [(0, pathOf P W)] })] }
def pathIn (T : Team) (P : Path) (W : Warp) : State := { cur := .path 1 0 false, teams := [(1, { T with warps := [(0, pathOf P W)] })] }
def seqAt (T : Team) : State := { cur := .seq 1, teams := [(1, T)] }

/-- Die 0 holds page tables that map the first GiB (of class S, not coherent beyond the die), and the stream has an answer for a page. -/
def tables (s : State) : State := { s with dies := s.dies.mod 0 (·.placed []) }
def answer (page : Nat) (store : Bool) : Ask := { space := 0, page := page, store := store, answer := some 0 }

/-- All lanes at one index; a lane word with everything zero. -/
def full : Path := { m0 := ~~~0, mem := ~~~0 }
def w0 : LaneWord := default

/-- A register list: scalar register `r` holds `x`; lane `l`'s word of register `r`. -/
def lane (r l x : Nat) : Nat × Half := (32 * r + l, BitVec.ofNat 32 x)

theorem onWarp_of {T : Team} {W : Warp} (h1 : (warpIn T W).warpLive 1 0 = true) (h2 : W.badS = []) : (warpIn T W).onWarp 1 0 :=
  ⟨rfl, h1, h2⟩

/-! ### Ill-formed terms: one for each named flaw, in the shape of WellFormed -/

/-- pm = 0 with pn = 1 (R61). -/
theorem test_flaw_predicate : (Instr.vadd { w0 with pn := true }).flaw = some .predicate := by decide
/-- VADD lists no floating type (R117). -/
theorem test_flaw_type : (Instr.vadd { w0 with ty := 4 }).flaw = some .type := by decide
/-- An odd pair under I64 (R58). -/
theorem test_flaw_pair : (Instr.vadd { w0 with ty := 2, vd := 3 }).flaw = some .pair := by decide
/-- A shared selector above 31 (R58). -/
theorem test_flaw_shared : (Instr.vadd { w0 with bu := true, vb := 0x20 }).flaw = some .shared := by decide
/-- VADD uses no vc (R59). -/
theorem test_flaw_unused : (Instr.vadd { w0 with vc := 1 }).flaw = some .unused := by decide
/-- VICMP has six conditions (R121). -/
theorem test_flaw_reserved : (Instr.vicmp { w0 with md := 6 }).flaw = some .reserved := by decide
/-- Scope code 5 (R53). -/
theorem test_flaw_scope : (Instr.vfence { w0 with md := 10 }).flaw = some .scope := by decide
/-- VLD takes no release order (R200). -/
theorem test_flaw_order : (Instr.vld { w0 with nb := true }).flaw = some .order := by decide
/-- Index 0x0C names no control register (R81, R82). -/
theorem test_flaw_index : (Instr.sget 1 0x0C).flaw = some .index := by decide
/-- A descriptor base of 5 (R52). -/
theorem test_flaw_base : (Instr.cpy 1 5 0 false false).flaw = some .base := by decide
/-- A matrix field with bit 5 set (R260). -/
theorem test_flaw_reg32 : (Instr.mfix 32 0).flaw = some .reg32 := by decide
/-- K of 97 for one-byte significands (R260). -/
theorem test_flaw_range : (Instr.mma 2 4 5 1 false 1 97 96 3).flaw = some .range := by decide
/-- A Twill read of 257 bytes (R337). -/
theorem test_flaw_packet : (Instr.twillRead { len := 257 }).flaw = some .packet := by decide
/-- The neighbours of those terms that break no rule. -/
theorem test_well_formed : (Instr.vadd { w0 with ty := 2, vd := 2 }).wf ∧ (Instr.vicmp { w0 with md := 5 }).wf ∧ (Instr.vfence { w0 with md := 8 }).wf ∧
    (Instr.sget 1 0x0B).wf ∧ (Instr.mma 2 4 5 1 false 1 96 96 3).wf ∧ (Instr.twillRead { len := 256 }).wf := by decide

/-! ### The spec's own encoding examples (words lowest first) -/

theorem test_examples_scalar :
    decodeWords [0x00824A1E] = .ok (.bfx 8 9 10) ∧ decodeWords [0x1441000C] = .ok (.shli 4 4 12) ∧ decodeWords [0x4C000010] = .ok (.jal 16) ∧
    decodeWords [0x5007C000] = .ok (.jr 0 31 0) ∧ decodeWords [0x64500000] = .ok (.sget 5 0) ∧ decodeWords [0x68018010] = .ok (.sput 6 0x10) ∧
    decodeWords [0x5C00002F] = .ok (.fence .sc .p true false) ∧ decodeWords [0x5C000009] = .ok (.fence .rel .d false false) ∧
    decodeWords [0x5C000044] = .ok (.fence .acq .t false true) ∧ decodeWords [0x2E807000] = .ok (.sld 40 1 3 0) ∧
    decodeWords [0x34512040] = .ok (.sst 5 4 2 0x40) ∧ decodeWords [0x40510604] = .ok (.satomAdd 5 4 6 .d false) ∧
    decodeWords [0x40810999] = .ok (.satomCas 8 4 9 .s true) := by
  refine ⟨?_, ?_, ?_, ?_, ?_, ?_, ?_, ?_, ?_, ?_, ?_, ?_, ?_⟩ <;> rfl

theorem test_examples_system :
    decodeWords [0x74A50011] = .ok (.cpy2 10 20 0 false true) ∧ decodeWords [0x6C500003] = .ok (.awwait 5 0 0) ∧
    decodeWords [0x6C518702] = .ok (.awarrive 5 6 7) ∧ decodeWords [0x70A01500] = .ok (.phnew 10 0 21) ∧
    decodeWords [0x70528B05] = .ok (.phsigb 5 10 11) ∧ decodeWords [0x7C518700] = .ok (.enq 5 6 7) ∧ decodeWords [0x7C518001] = .ok (.enqst 5 6) ∧
    decodeWords [0x7C520902] = .ok (.qwait 5 8 9) ∧ decodeWords [0x7C028003] = .ok (.mighint 0 10) ∧ decodeWords [0x80000000] = .ok .tret ∧
    decodeWords [0x80518701] = .ok (.fragrd 5 6 7) ∧ decodeWords [0x80020902] = .ok (.pinv 8 9) ∧ decodeWords [0x80A30D05] = .ok (.dirtyget 10 12 13) ∧
    decodeWords [0x80518006] = .ok (.teamhalt 5 6) ∧ decodeWords [0xA0000002] = .ok (.mzero 2) := by
  refine ⟨?_, ?_, ?_, ?_, ?_, ?_, ?_, ?_, ?_, ?_, ?_, ?_, ?_, ?_, ?_⟩ <;> rfl

theorem test_examples_matrix :
    decodeWords [0xF0210541, 0x00306060] = .ok (.mma 2 4 5 1 false 1 96 96 3) ∧ decodeWords [0xA4010502] = .ok (.macc false 4 5 false 2) ∧
    decodeWords [0xA9018762] = .ok (.mdrain false false 0 1 6 7 3 2) := by
  refine ⟨?_, ?_, ?_⟩ <;> rfl

theorem test_examples_lane :
    decodeWords [0, 0x2002, 0x14000405] = .ok (.vicmp { w0 with va := 4, vb := 5, md := 2, sub := 2 }) ∧
    decodeWords [0, 8, 0x1B000700] = .ok (.vsreg { w0 with va := 7, sub := 8 }) ∧
    decodeWords [0, 0x1004, 0x38020300] = .ok (.vcvt { w0 with vd := 2, va := 3, md := 1, sub := 4 }) ∧
    decodeWords [0, 0x00040000, 0x390A0400] = .ok (.vqnt { w0 with vd := 10, va := 4, ty := 4 }) ∧
    decodeWords [0x48, 4, 0x64100200] = .ok (.vldf { w0 with vd := 16, va := 2, sub := 4, imm := 0x48 }) ∧
    decodeWords [16, 0x4105, 0x60080200] = .ok (.vld { w0 with vd := 8, va := 2, md := 4, abs := true, sub := 5, imm := 16 }) ∧
    decodeWords [0, 0x6003, 0x6C000000] = .ok (.vfence { w0 with md := 6, sub := 3 }) ∧
    decodeWords [0, 0x00014300, 0x65050207] = .ok (.vatom { w0 with vd := 5, va := 2, vb := 7, ty := 1, md := 4, nb := true, abs := true }) ∧
    decodeWords [8, 0x06028100, 0x670A0204] = .ok (.vcas { w0 with vd := 10, va := 2, vb := 4, vc := 6, ty := 2, md := 8, abs := true, imm := 8 }) ∧
    decodeWords [0x10, 0x8204, 0x6A080609] = .ok (.vstr { w0 with vd := 8, va := 6, vb := 9, md := 8, nb := true, sub := 4, imm := 16 }) ∧
    decodeWords [0x2A, 0x00200000, 0x70000000] = .ok (.ltrap { w0 with pm := 1, imm := 0x2A }) ∧
    decodeWords [0, 1, 0x72000000] = .ok (.lresume { w0 with sub := 1 }) := by
  refine ⟨?_, ?_, ?_, ?_, ?_, ?_, ?_, ?_, ?_, ?_, ?_, ?_⟩ <;> rfl

/-- Reserved encodings are refused by name: fn 0x20 of ALU, imm14[13:6] of SHLI, fn 0x04 of LAUNCH, a reserved OP6 (R46, R63). -/
theorem test_reserved_words :
    (decodeWords [0x00952320]).toOption = none ∧ (decodeWords [0x1495007D]).toOption = none ∧ (decodeWords [0x7C518704]).toOption = none ∧
    (decodeWords [0x54000000]).toOption.isSome ∧ (decodeWords [0x58000004]).toOption = none := by decide

theorem test_decode_add_to_min :
    decodeWords [0x00952300] = .ok (.add 9 20 35) ∧
    decodeWords [0x00952301] = .ok (.sub 9 20 35) ∧
    decodeWords [0x00952302] = .ok (.and 9 20 35) ∧
    decodeWords [0x00952303] = .ok (.or 9 20 35) ∧
    decodeWords [0x00952304] = .ok (.xor 9 20 35) ∧
    decodeWords [0x00952305] = .ok (.andn 9 20 35) ∧
    decodeWords [0x00952306] = .ok (.shl 9 20 35) ∧
    decodeWords [0x00952307] = .ok (.shr 9 20 35) ∧
    decodeWords [0x00952308] = .ok (.sar 9 20 35) ∧
    decodeWords [0x00952309] = .ok (.mul 9 20 35) ∧
    decodeWords [0x0095230A] = .ok (.mulhu 9 20 35) ∧
    decodeWords [0x0095230B] = .ok (.mulhs 9 20 35) ∧
    decodeWords [0x0095230C] = .ok (.divu 9 20 35) ∧
    decodeWords [0x0095230D] = .ok (.remu 9 20 35) ∧
    decodeWords [0x0095230E] = .ok (.divs 9 20 35) ∧
    decodeWords [0x0095230F] = .ok (.rems 9 20 35) ∧
    decodeWords [0x00952310] = .ok (.min 9 20 35) := by
  refine ⟨?_, ?_, ?_, ?_, ?_, ?_, ?_, ?_, ?_, ?_, ?_, ?_, ?_, ?_, ?_, ?_, ?_⟩ <;> rfl

theorem test_decode_max_to_andi :
    decodeWords [0x00952311] = .ok (.max 9 20 35) ∧
    decodeWords [0x00952312] = .ok (.minu 9 20 35) ∧
    decodeWords [0x00952313] = .ok (.maxu 9 20 35) ∧
    decodeWords [0x00950014] = .ok (.clz 9 20) ∧
    decodeWords [0x00950015] = .ok (.ctz 9 20) ∧
    decodeWords [0x00950016] = .ok (.popc 9 20) ∧
    decodeWords [0x00952317] = .ok (.seq 9 20 35) ∧
    decodeWords [0x00952318] = .ok (.sne 9 20 35) ∧
    decodeWords [0x00952319] = .ok (.slt 9 20 35) ∧
    decodeWords [0x0095231A] = .ok (.sltu 9 20 35) ∧
    decodeWords [0x0095231B] = .ok (.sle 9 20 35) ∧
    decodeWords [0x0095231C] = .ok (.sleu 9 20 35) ∧
    decodeWords [0x0095231D] = .ok (.cmov 9 20 35) ∧
    decodeWords [0x0095231E] = .ok (.bfx 9 20 35) ∧
    decodeWords [0x0095231F] = .ok (.bfi 9 20 35) ∧
    decodeWords [0x04952A5B] = .ok (.addi 9 20 0x2a5b) ∧
    decodeWords [0x08952A5B] = .ok (.andi 9 20 0x2a5b) := by
  refine ⟨?_, ?_, ?_, ?_, ?_, ?_, ?_, ?_, ?_, ?_, ?_, ?_, ?_, ?_, ?_, ?_, ?_⟩ <;> rfl

theorem test_decode_ori_to_satomxor :
    decodeWords [0x0C952A5B] = .ok (.ori 9 20 0x2a5b) ∧
    decodeWords [0x10952A5B] = .ok (.xori 9 20 0x2a5b) ∧
    decodeWords [0x1495003D] = .ok (.shli 9 20 61) ∧
    decodeWords [0x1895003D] = .ok (.shri 9 20 61) ∧
    decodeWords [0x1C95003D] = .ok (.sari 9 20 61) ∧
    decodeWords [0x20952A5B] = .ok (.slti 9 20 0x2a5b) ∧
    decodeWords [0x24952A5B] = .ok (.sltui 9 20 0x2a5b) ∧
    decodeWords [0x28952A5B] = .ok (.seqi 9 20 0x2a5b) ∧
    decodeWords [0x2C953A5B] = .ok (.sld 9 20 3 0xa5b) ∧
    decodeWords [0x30953A5B] = .ok (.sldz 9 20 3 0xa5b) ∧
    decodeWords [0x34953A5B] = .ok (.sst 9 20 3 0xa5b) ∧
    decodeWords [0x38953A5B] = .ok (.sldp 9 20 3 0xa5b) ∧
    decodeWords [0x3C953A5B] = .ok (.sstp 9 20 3 0xa5b) ∧
    decodeWords [0x40952309] = .ok (.satomAdd 9 20 35 .s true) ∧
    decodeWords [0x40952319] = .ok (.satomAnd 9 20 35 .s true) ∧
    decodeWords [0x40952329] = .ok (.satomOr 9 20 35 .s true) ∧
    decodeWords [0x40952339] = .ok (.satomXor 9 20 35 .s true) := by
  refine ⟨?_, ?_, ?_, ?_, ?_, ?_, ?_, ?_, ?_, ?_, ?_, ?_, ?_, ?_, ?_, ?_, ?_⟩ <;> rfl

theorem test_decode_satommin_to_syssleep :
    decodeWords [0x40952349] = .ok (.satomMin 9 20 35 .s true) ∧
    decodeWords [0x40952359] = .ok (.satomMax 9 20 35 .s true) ∧
    decodeWords [0x40952369] = .ok (.satomMinu 9 20 35 .s true) ∧
    decodeWords [0x40952379] = .ok (.satomMaxu 9 20 35 .s true) ∧
    decodeWords [0x40952389] = .ok (.satomXchg 9 20 35 .s true) ∧
    decodeWords [0x40952399] = .ok (.satomCas 9 20 35 .s true) ∧
    decodeWords [0x45A91DA5] = .ok (.br .ge 20 35 0x5a5) ∧
    decodeWords [0x4A345678] = .ok (.j 0x2345678) ∧
    decodeWords [0x4E345678] = .ok (.jal 0x2345678) ∧
    decodeWords [0x50952A5B] = .ok (.jr 9 20 0x2a5b) ∧
    decodeWords [0x54052A5B] = .ok (.lgo 20 0x2a5b) ∧
    decodeWords [0x58000002] = .ok (.lwait 2) ∧
    decodeWords [0x5C00006E] = .ok (.fence .ar .p true true) ∧
    decodeWords [0x60000000] = .ok (.sysNop) ∧
    decodeWords [0x60000001] = .ok (.sysExit) ∧
    decodeWords [0x60000002] = .ok (.sysYield) ∧
    decodeWords [0x60050003] = .ok (.sysSleep 20) := by
  refine ⟨?_, ?_, ?_, ?_, ?_, ?_, ?_, ?_, ?_, ?_, ?_, ?_, ?_, ?_, ?_, ?_, ?_⟩ <;> rfl

theorem test_decode_systrap_to_phsigb :
    decodeWords [0x60050004] = .ok (.sysTrap 20) ∧
    decodeWords [0x60000005] = .ok (.sysBrk) ∧
    decodeWords [0x60900006] = .ok (.sysClock 9) ∧
    decodeWords [0x60950007] = .ok (.sysPtpread 9 20) ∧
    decodeWords [0x64900020] = .ok (.sget 9 32) ∧
    decodeWords [0x68050020] = .ok (.sput 20 32) ∧
    decodeWords [0x6C052300] = .ok (.awinit 20 35) ∧
    decodeWords [0x6C952301] = .ok (.awexpect 9 20 35) ∧
    decodeWords [0x6C952302] = .ok (.awarrive 9 20 35) ∧
    decodeWords [0x6C952303] = .ok (.awwait 9 20 35) ∧
    decodeWords [0x6C952304] = .ok (.awtest 9 20 35) ∧
    decodeWords [0x70952300] = .ok (.phnew 9 20 35) ∧
    decodeWords [0x70950001] = .ok (.phfree 9 20) ∧
    decodeWords [0x70952302] = .ok (.phjoin 9 20 35) ∧
    decodeWords [0x70950003] = .ok (.phleave 9 20) ∧
    decodeWords [0x70952304] = .ok (.phsig 9 20 35) ∧
    decodeWords [0x70952305] = .ok (.phsigb 9 20 35) := by
  refine ⟨?_, ?_, ?_, ?_, ?_, ?_, ?_, ?_, ?_, ?_, ?_, ?_, ?_, ?_, ?_, ?_, ?_⟩ <;> rfl

theorem test_decode_phwait_to_nsend :
    decodeWords [0x70952306] = .ok (.phwait 9 20 35) ∧
    decodeWords [0x70952307] = .ok (.phtest 9 20 35) ∧
    decodeWords [0x70952308] = .ok (.phany 9 20 35) ∧
    decodeWords [0x70952309] = .ok (.phval 9 20 35) ∧
    decodeWords [0x7095000A] = .ok (.phread 9 20) ∧
    decodeWords [0x74942350] = .ok (.cpy 9 16 35 true true) ∧
    decodeWords [0x74942351] = .ok (.cpy2 9 16 35 true true) ∧
    decodeWords [0x74942352] = .ok (.cpyw 9 16 35 true true) ∧
    decodeWords [0x74942353] = .ok (.cpyx 9 16 35 true true) ∧
    decodeWords [0x74942354] = .ok (.cpyfill 9 16 35 true true) ∧
    decodeWords [0x74942375] = .ok (.cpyr 9 16 35 true true true) ∧
    decodeWords [0x74902306] = .ok (.cpyst 9 35) ∧
    decodeWords [0x74902307] = .ok (.cpycan 9 35) ∧
    decodeWords [0x78942300] = .ok (.nput 9 16 35) ∧
    decodeWords [0x78942301] = .ok (.nget 9 16 35) ∧
    decodeWords [0x78942302] = .ok (.natom 9 16 35) ∧
    decodeWords [0x78942303] = .ok (.nsend 9 16 35) := by
  refine ⟨?_, ?_, ?_, ?_, ?_, ?_, ?_, ?_, ?_, ?_, ?_, ?_, ?_, ?_, ?_, ?_, ?_⟩ <;> rfl

theorem test_decode_nkey_to_macc :
    decodeWords [0x78940004] = .ok (.nkey 9 16) ∧
    decodeWords [0x78952305] = .ok (.nchain 9 20 35) ∧
    decodeWords [0x78950006] = .ok (.npoll 9 20) ∧
    decodeWords [0x78952307] = .ok (.nrxpop 9 20 35) ∧
    decodeWords [0x7C952300] = .ok (.enq 9 20 35) ∧
    decodeWords [0x7C950001] = .ok (.enqst 9 20) ∧
    decodeWords [0x7C952302] = .ok (.qwait 9 20 35) ∧
    decodeWords [0x7C950003] = .ok (.mighint 9 20) ∧
    decodeWords [0x80000000] = .ok (.tret) ∧
    decodeWords [0x80952301] = .ok (.fragrd 9 20 35) ∧
    decodeWords [0x80052302] = .ok (.pinv 20 35) ∧
    decodeWords [0x80052303] = .ok (.cwb 20 35) ∧
    decodeWords [0x80052304] = .ok (.cinv 20 35) ∧
    decodeWords [0x80952305] = .ok (.dirtyget 9 20 35) ∧
    decodeWords [0x80950006] = .ok (.teamhalt 9 20) ∧
    decodeWords [0xA0000005] = .ok (.mzero 5) ∧
    decodeWords [0xA4150306] = .ok (.macc true 20 3 false 6) := by
  refine ⟨?_, ?_, ?_, ?_, ?_, ?_, ?_, ?_, ?_, ?_, ?_, ?_, ?_, ?_, ?_, ?_, ?_⟩ <;> rfl

theorem test_decode_mchk_to_vaddc :
    decodeWords [0xAC900006] = .ok (.mchk 9 6) ∧
    decodeWords [0xB0900006] = .ok (.mloc 9 6) ∧
    decodeWords [0xB4050006] = .ok (.mfix 20 6) ∧
    decodeWords [0xB8000000] = .ok (.mwait) ∧
    decodeWords [0xE0900000, 0xDEADBEEF] = .ok (.li 9 0xDEADBEEF) ∧
    decodeWords [0xE4900000, 0x89ABCDEF] = .ok (.lih 9 0x89ABCDEF) ∧
    decodeWords [0xE8950000, 0x89ABCDEF] = .ok (.addx 9 20 0x89ABCDEF) ∧
    decodeWords [0xA8750326] = .ok (.mdrain true true 1 0 20 3 1 6) ∧
    decodeWords [0xAA054B87] = .ok (.mdrain false false 0 2 21 11 4 7) ∧
    decodeWords [0xF0650BA3, 0x09A34560] = .ok (.mma 6 20 11 3 true 2 0x60 0x345 0x9A) ∧
    decodeWords [0xF4650BA3, 0x09A34560] = .ok (.mmas 6 20 11 3 true 2 0x60 0x345 0x9A) ∧
    decodeWords [0x00000000, 0x00B30880, 0x0108041F] = .ok (.vadd { (default : LaneWord) with vd := 8, va := 4, vb := 31, pm := 5, pn := true, ty := 3, sat := true, bu := true }) ∧
    decodeWords [0x00000000, 0x00B30880, 0x0208041F] = .ok (.vsub { (default : LaneWord) with vd := 8, va := 4, vb := 31, pm := 5, pn := true, ty := 3, sat := true, bu := true }) ∧
    decodeWords [0x00000000, 0x00B30880, 0x0308041F] = .ok (.vmul { (default : LaneWord) with vd := 8, va := 4, vb := 31, pm := 5, pn := true, ty := 3, sat := true, bu := true }) ∧
    decodeWords [0x00000000, 0x00B20000, 0x04080406] = .ok (.vmulh { (default : LaneWord) with vd := 8, va := 4, vb := 6, pm := 5, pn := true, ty := 2 }) ∧
    decodeWords [0x00000000, 0x0AB20800, 0x05080406] = .ok (.vmad { (default : LaneWord) with vd := 8, va := 4, vb := 6, vc := 10, pm := 5, pn := true, ty := 2, sat := true }) ∧
    decodeWords [0x00000000, 0x0061001A, 0x06090507] = .ok (.vaddc { (default : LaneWord) with vd := 9, va := 5, vb := 7, pm := 3, ty := 1, sub := 26 }) := by
  refine ⟨?_, ?_, ?_, ?_, ?_, ?_, ?_, ?_, ?_, ?_, ?_, ?_, ?_, ?_, ?_, ?_, ?_⟩ <;> rfl

theorem test_decode_vand_to_vdiv :
    decodeWords [0x00000000, 0x00B20000, 0x07080406] = .ok (.vand { (default : LaneWord) with vd := 8, va := 4, vb := 6, pm := 5, pn := true, ty := 2 }) ∧
    decodeWords [0x00000000, 0x00B20000, 0x08080406] = .ok (.vor { (default : LaneWord) with vd := 8, va := 4, vb := 6, pm := 5, pn := true, ty := 2 }) ∧
    decodeWords [0x00000000, 0x00B20000, 0x09080406] = .ok (.vxor { (default : LaneWord) with vd := 8, va := 4, vb := 6, pm := 5, pn := true, ty := 2 }) ∧
    decodeWords [0x00000000, 0x00B30880, 0x0A08041F] = .ok (.vshl { (default : LaneWord) with vd := 8, va := 4, vb := 31, pm := 5, pn := true, ty := 3, sat := true, bu := true }) ∧
    decodeWords [0x00000000, 0x00B20000, 0x0B080406] = .ok (.vshr { (default : LaneWord) with vd := 8, va := 4, vb := 6, pm := 5, pn := true, ty := 2 }) ∧
    decodeWords [0x00000000, 0x00B20000, 0x0C080406] = .ok (.vsar { (default : LaneWord) with vd := 8, va := 4, vb := 6, pm := 5, pn := true, ty := 2 }) ∧
    decodeWords [0x00000000, 0x00B20000, 0x0D080406] = .ok (.vmin { (default : LaneWord) with vd := 8, va := 4, vb := 6, pm := 5, pn := true, ty := 2 }) ∧
    decodeWords [0x00000000, 0x00B20000, 0x0E080406] = .ok (.vmax { (default : LaneWord) with vd := 8, va := 4, vb := 6, pm := 5, pn := true, ty := 2 }) ∧
    decodeWords [0x00000000, 0x00280800, 0x0F090500] = .ok (.vabs { (default : LaneWord) with vd := 9, va := 5, pm := 1, ty := 8, sat := true }) ∧
    decodeWords [0x00000000, 0x00B30000, 0x10080400] = .ok (.vclz { (default : LaneWord) with vd := 8, va := 4, pm := 5, pn := true, ty := 3 }) ∧
    decodeWords [0x00000000, 0x00B30000, 0x11080400] = .ok (.vpopc { (default : LaneWord) with vd := 8, va := 4, pm := 5, pn := true, ty := 3 }) ∧
    decodeWords [0x00000000, 0x00B20000, 0x12080406] = .ok (.vbfx { (default : LaneWord) with vd := 8, va := 4, vb := 6, pm := 5, pn := true, ty := 2 }) ∧
    decodeWords [0x00000000, 0x1FB30040, 0x13080406] = .ok (.vbfi { (default : LaneWord) with vd := 8, va := 4, vb := 6, vc := 31, pm := 5, pn := true, ty := 3, cu := true }) ∧
    decodeWords [0x00000000, 0x00405006, 0x14000507] = .ok (.vicmp { (default : LaneWord) with va := 5, vb := 7, pm := 2, md := 5, sub := 6 }) ∧
    decodeWords [0x00000000, 0x00B70003, 0x15090507] = .ok (.vsel { (default : LaneWord) with vd := 9, va := 5, vb := 7, pm := 5, pn := true, ty := 7, sub := 3 }) ∧
    decodeWords [0x3F800000, 0x00240001, 0x16090000] = .ok (.vmov { (default : LaneWord) with vd := 9, pm := 1, ty := 4, sub := 1, imm := 0x3f800000 }) ∧
    decodeWords [0x00000000, 0x00B20000, 0x17080406] = .ok (.vdiv { (default : LaneWord) with vd := 8, va := 4, vb := 6, pm := 5, pn := true, ty := 2 }) := by
  refine ⟨?_, ?_, ?_, ?_, ?_, ?_, ?_, ?_, ?_, ?_, ?_, ?_, ?_, ?_, ?_, ?_, ?_⟩ <;> rfl

theorem test_decode_vrem_to_vfexp2 :
    decodeWords [0x00000000, 0x00B20000, 0x18080406] = .ok (.vrem { (default : LaneWord) with vd := 8, va := 4, vb := 6, pm := 5, pn := true, ty := 2 }) ∧
    decodeWords [0x00000000, 0x0BB10800, 0x19090507] = .ok (.vsad { (default : LaneWord) with vd := 9, va := 5, vb := 7, vc := 11, pm := 5, pn := true, ty := 1, sat := true }) ∧
    decodeWords [0x00000000, 0x0BB00800, 0x1A090507] = .ok (.vdot4 { (default : LaneWord) with vd := 9, va := 5, vb := 7, vc := 11, pm := 5, pn := true, sat := true }) ∧
    decodeWords [0x00000000, 0x0024001D, 0x1B000500] = .ok (.vsreg { (default : LaneWord) with va := 5, pm := 1, ty := 4, sub := 29 }) ∧
    decodeWords [0x00000000, 0x00B53F00, 0x20080406] = .ok (.vfadd { (default : LaneWord) with vd := 8, va := 4, vb := 6, pm := 5, pn := true, ty := 5, md := 3, sat := true, na := true, nb := true, abs := true }) ∧
    decodeWords [0x00000000, 0x00B53F00, 0x21080406] = .ok (.vfsub { (default : LaneWord) with vd := 8, va := 4, vb := 6, pm := 5, pn := true, ty := 5, md := 3, sat := true, na := true, nb := true, abs := true }) ∧
    decodeWords [0x00000000, 0x00B53F00, 0x22080406] = .ok (.vfmul { (default : LaneWord) with vd := 8, va := 4, vb := 6, pm := 5, pn := true, ty := 5, md := 3, sat := true, na := true, nb := true, abs := true }) ∧
    decodeWords [0x00000000, 0x1E262440, 0x23090507] = .ok (.vfma { (default : LaneWord) with vd := 9, va := 5, vb := 7, vc := 30, pm := 1, ty := 6, md := 2, na := true, cu := true }) ∧
    decodeWords [0x00000000, 0x00270300, 0x24090507] = .ok (.vfmin { (default : LaneWord) with vd := 9, va := 5, vb := 7, pm := 1, ty := 7, nb := true, abs := true }) ∧
    decodeWords [0x00000000, 0x00270300, 0x25090507] = .ok (.vfmax { (default : LaneWord) with vd := 9, va := 5, vb := 7, pm := 1, ty := 7, nb := true, abs := true }) ∧
    decodeWords [0x00000000, 0x00457405, 0x26000406] = .ok (.vfcmp { (default : LaneWord) with va := 4, vb := 6, pm := 2, ty := 5, md := 7, na := true, sub := 5 }) ∧
    decodeWords [0x00000000, 0x00240400, 0x27090500] = .ok (.vfclass { (default : LaneWord) with vd := 9, va := 5, pm := 1, ty := 4, na := true }) ∧
    decodeWords [0x00000000, 0x00240100, 0x28090500] = .ok (.vfrcp { (default : LaneWord) with vd := 9, va := 5, pm := 1, ty := 4, abs := true }) ∧
    decodeWords [0x00000000, 0x00240100, 0x29090500] = .ok (.vfrsq { (default : LaneWord) with vd := 9, va := 5, pm := 1, ty := 4, abs := true }) ∧
    decodeWords [0x00000000, 0x00241400, 0x2A090500] = .ok (.vfsqrt { (default : LaneWord) with vd := 9, va := 5, pm := 1, ty := 4, md := 1, na := true }) ∧
    decodeWords [0x00000000, 0x00B53F00, 0x2B080406] = .ok (.vfdiv { (default : LaneWord) with vd := 8, va := 4, vb := 6, pm := 5, pn := true, ty := 5, md := 3, sat := true, na := true, nb := true, abs := true }) ∧
    decodeWords [0x00000000, 0x00240100, 0x2C090500] = .ok (.vfexp2 { (default : LaneWord) with vd := 9, va := 5, pm := 1, ty := 4, abs := true }) := by
  refine ⟨?_, ?_, ?_, ?_, ?_, ?_, ?_, ?_, ?_, ?_, ?_, ?_, ?_, ?_, ?_, ?_, ?_⟩ <;> rfl

theorem test_decode_vflog2_to_mpopc :
    decodeWords [0x00000000, 0x00240100, 0x2D090500] = .ok (.vflog2 { (default : LaneWord) with vd := 9, va := 5, pm := 1, ty := 4, abs := true }) ∧
    decodeWords [0x00000000, 0x00240100, 0x2E090500] = .ok (.vfsin { (default : LaneWord) with vd := 9, va := 5, pm := 1, ty := 4, abs := true }) ∧
    decodeWords [0x00000000, 0x00240100, 0x2F090500] = .ok (.vfcos { (default : LaneWord) with vd := 9, va := 5, pm := 1, ty := 4, abs := true }) ∧
    decodeWords [0x00000000, 0x00241400, 0x30090500] = .ok (.vfrnd { (default : LaneWord) with vd := 9, va := 5, pm := 1, ty := 4, md := 1, na := true }) ∧
    decodeWords [0x00000000, 0x00243000, 0x31090507] = .ok (.vfldexp { (default : LaneWord) with vd := 9, va := 5, vb := 7, pm := 1, ty := 4, md := 3 }) ∧
    decodeWords [0x00000000, 0x00250100, 0x32080400] = .ok (.vfgetexp { (default : LaneWord) with vd := 8, va := 4, pm := 1, ty := 5, abs := true }) ∧
    decodeWords [0x00000000, 0x00001004, 0x38020300] = .ok (.vcvt { (default : LaneWord) with vd := 2, va := 3, md := 1, sub := 4 }) ∧
    decodeWords [0x00000000, 0x00044001, 0x390A0400] = .ok (.vqnt { (default : LaneWord) with vd := 10, va := 4, ty := 4, md := 4, sub := 1 }) ∧
    decodeWords [0x00000000, 0x00040000, 0x3A140A0B] = .ok (.vdqnt { (default : LaneWord) with vd := 20, va := 10, vb := 11, ty := 4 }) ∧
    decodeWords [0x00000000, 0x0C220003, 0x40080407] = .ok (.vshfl { (default : LaneWord) with vd := 8, va := 4, vb := 7, vc := 12, pm := 1, ty := 2, sub := 3 }) ∧
    decodeWords [0x0000001D, 0x07240000, 0x41090500] = .ok (.vbcast { (default : LaneWord) with vd := 9, va := 5, vc := 7, pm := 1, ty := 4, imm := 29 }) ∧
    decodeWords [0x00000003, 0x0022001F, 0x42000400] = .ok (.vvote { (default : LaneWord) with va := 4, pm := 1, ty := 2, sub := 31, imm := 3 }) ∧
    decodeWords [0x00000005, 0x0023001E, 0x43000400] = .ok (.vreduce { (default : LaneWord) with va := 4, pm := 1, ty := 3, sub := 30, imm := 5 }) ∧
    decodeWords [0x00000002, 0x00250001, 0x44080400] = .ok (.vscan { (default : LaneWord) with vd := 8, va := 4, pm := 1, ty := 5, sub := 1, imm := 2 }) ∧
    decodeWords [0x00000000, 0x00250000, 0x45090400] = .ok (.vmatch { (default : LaneWord) with vd := 9, va := 4, pm := 1, ty := 5 }) ∧
    decodeWords [0x00000003, 0x00200007, 0x48000506] = .ok (.mlog { (default : LaneWord) with va := 5, vb := 6, pm := 1, sub := 7, imm := 3 }) ∧
    decodeWords [0x00000000, 0x00200011, 0x49000500] = .ok (.mpopc { (default : LaneWord) with va := 5, pm := 1, sub := 17 }) := by
  refine ⟨?_, ?_, ?_, ?_, ?_, ?_, ?_, ?_, ?_, ?_, ?_, ?_, ?_, ?_, ?_, ?_, ?_⟩ <;> rfl

theorem test_decode_mfirst_to_lnop :
    decodeWords [0x00000000, 0x00200011, 0x4A000500] = .ok (.mfirst { (default : LaneWord) with va := 5, pm := 1, sub := 17 }) ∧
    decodeWords [0x89ABCDEF, 0x00200006, 0x4B000000] = .ok (.mset { (default : LaneWord) with pm := 1, sub := 6, imm := 0x89abcdef }) ∧
    decodeWords [0x00000000, 0x00200011, 0x4C000500] = .ok (.mget { (default : LaneWord) with va := 5, pm := 1, sub := 17 }) ∧
    decodeWords [0x00000000, 0x00200084, 0x4D00001F] = .ok (.mput { (default : LaneWord) with vb := 31, pm := 1, bu := true, sub := 4 }) ∧
    decodeWords [0x12345678, 0x00B0000D, 0x50000000] = .ok (.lbr { (default : LaneWord) with pm := 5, pn := true, sub := 13, imm := 0x12345678 }) ∧
    decodeWords [0x0000ABCD, 0x00000000, 0x51000000] = .ok (.ljmp { (default : LaneWord) with imm := 0xabcd }) ∧
    decodeWords [0x12345678, 0x00B00000, 0x5200C800] = .ok (.ljmpi { (default : LaneWord) with va := 0xc8, pm := 5, pn := true, imm := 0x12345678 }) ∧
    decodeWords [0x0000ABCD, 0x00000000, 0x53000000] = .ok (.lpad { (default : LaneWord) with imm := 0xabcd }) ∧
    decodeWords [0x0000ABCD, 0x00000000, 0x54000000] = .ok (.lcall { (default : LaneWord) with imm := 0xabcd }) ∧
    decodeWords [0x12345678, 0x00B00000, 0x5500C800] = .ok (.lcalli { (default : LaneWord) with va := 0xc8, pm := 5, pn := true, imm := 0x12345678 }) ∧
    decodeWords [0x00000000, 0x00000000, 0x56000000] = .ok (.lret default) ∧
    decodeWords [0x00010000, 0x00000005, 0x57000000] = .ok (.ljoin { (default : LaneWord) with sub := 5, imm := 0x10000 }) ∧
    decodeWords [0x00000000, 0x00000000, 0x58000000] = .ok (.lend default) ∧
    decodeWords [0x00000000, 0x00F00000, 0x59000000] = .ok (.lexit { (default : LaneWord) with pm := 7, pn := true }) ∧
    decodeWords [0x0000000D, 0x00000001, 0x5A000000] = .ok (.lbar { (default : LaneWord) with sub := 1, imm := 13 }) ∧
    decodeWords [0x00000000, 0x00B00003, 0x5B090000] = .ok (.lfrag { (default : LaneWord) with vd := 9, pm := 5, pn := true, sub := 3 }) ∧
    decodeWords [0x00000000, 0x00F00000, 0x5C000000] = .ok (.lnop { (default : LaneWord) with pm := 7, pn := true }) := by
  refine ⟨?_, ?_, ?_, ?_, ?_, ?_, ?_, ?_, ?_, ?_, ?_, ?_, ?_, ?_, ?_, ?_, ?_⟩ <;> rfl

theorem test_decode_vld_to_lorigin :
    decodeWords [0xFFFFFFF0, 0x00B0810E, 0x60080400] = .ok (.vld { (default : LaneWord) with vd := 8, va := 4, pm := 5, pn := true, md := 8, abs := true, sub := 14, imm := 0xfffffff0 }) ∧
    decodeWords [0x7FFFFFF0, 0x00B06205, 0x61080400] = .ok (.vst { (default : LaneWord) with vd := 8, va := 4, pm := 5, pn := true, md := 6, nb := true, sub := 5, imm := 0x7ffffff0 }) ∧
    decodeWords [0x00000010, 0x00202104, 0x62090500] = .ok (.vldp { (default : LaneWord) with vd := 9, va := 5, pm := 1, md := 2, abs := true, sub := 4, imm := 16 }) ∧
    decodeWords [0x00000010, 0x00200201, 0x63090500] = .ok (.vstp { (default : LaneWord) with vd := 9, va := 5, pm := 1, nb := true, sub := 1, imm := 16 }) ∧
    decodeWords [0x00000040, 0x00204004, 0x64080400] = .ok (.vldf { (default : LaneWord) with vd := 8, va := 4, pm := 1, md := 4, sub := 4, imm := 64 }) ∧
    decodeWords [0x00000040, 0x00242328, 0x65090507] = .ok (.vatom { (default : LaneWord) with vd := 9, va := 5, vb := 7, pm := 1, ty := 4, md := 2, nb := true, abs := true, sub := 40, imm := 64 }) ∧
    decodeWords [0x00000040, 0x00238206, 0x66000408] = .ok (.vred { (default : LaneWord) with va := 4, vb := 8, pm := 1, ty := 3, md := 8, nb := true, sub := 6, imm := 64 }) ∧
    decodeWords [0x00000040, 0x0A226100, 0x67080406] = .ok (.vcas { (default : LaneWord) with vd := 8, va := 4, vb := 6, vc := 10, pm := 1, ty := 2, md := 6, abs := true, imm := 64 }) ∧
    decodeWords [0x00000040, 0x00200001, 0x68000400] = .ok (.vpref { (default : LaneWord) with va := 4, pm := 1, sub := 1, imm := 64 }) ∧
    decodeWords [0x00000040, 0x00208186, 0x69080503] = .ok (.vldr { (default : LaneWord) with vd := 8, va := 5, vb := 3, pm := 1, md := 8, abs := true, bu := true, sub := 6, imm := 64 }) ∧
    decodeWords [0x00000040, 0x00206285, 0x6A080503] = .ok (.vstr { (default : LaneWord) with vd := 8, va := 5, vb := 3, pm := 1, md := 6, nb := true, bu := true, sub := 5, imm := 64 }) ∧
    decodeWords [0x00000040, 0x0C23830B, 0x6B080507] = .ok (.vatomr { (default : LaneWord) with vd := 8, va := 5, vb := 7, vc := 12, pm := 1, ty := 3, md := 8, nb := true, abs := true, sub := 11, imm := 64 }) ∧
    decodeWords [0x00000000, 0x00208007, 0x6C000000] = .ok (.vfence { (default : LaneWord) with pm := 1, md := 8, sub := 7 }) ∧
    decodeWords [0x0000BEEF, 0x00B00000, 0x70000000] = .ok (.ltrap { (default : LaneWord) with pm := 5, pn := true, imm := 0xbeef }) ∧
    decodeWords [0x00000000, 0x00F00000, 0x71000000] = .ok (.lkill { (default : LaneWord) with pm := 7, pn := true }) ∧
    decodeWords [0x00000000, 0x00200002, 0x72004D00] = .ok (.lresume { (default : LaneWord) with va := 77, pm := 1, sub := 2 }) ∧
    decodeWords [0x00000000, 0x00200004, 0x73090000] = .ok (.lorigin { (default : LaneWord) with vd := 9, pm := 1, sub := 4 }) := by
  refine ⟨?_, ?_, ?_, ?_, ?_, ?_, ?_, ?_, ?_, ?_, ?_, ?_, ?_, ?_, ?_, ?_, ?_⟩ <;> rfl

theorem test_decode_voget_to_voput :
    decodeWords [0x00000000, 0x00220000, 0x7408C800] = .ok (.voget { (default : LaneWord) with vd := 8, va := 0xc8, pm := 1, ty := 2 }) ∧
    decodeWords [0x00000000, 0x00200080, 0x75C8001F] = .ok (.voput { (default : LaneWord) with vd := 0xc8, vb := 31, pm := 1, bu := true }) := by
  refine ⟨?_, ?_⟩ <;> rfl

/-! ### States that meet the hypotheses of the statements -/

theorem test_meets_ScalarRegisterResults :
    (warpAt {}).ready [63, 0, 1] ∧ (seqAt placedTeam).ready [31, 0, 1] :=
  ⟨⟨by decide, by decide⟩, by decide, by decide, by decide⟩

theorem test_meets_ScalarImmediateResults : (warpAt {}).ready [0, 63] ∧ (seqAt placedTeam).ready [31, 31] :=
  ⟨⟨by decide, by decide⟩, by decide, by decide, by decide⟩

theorem test_meets_TransfersGo :
    (warpAt { spc := 0x20000 }).ready [1, 2] ∧ (warpAt { spc := 0x20000 }).pc.toNat % 4 = 0 ∧
    (warpAt { s := [(2, 0xFFFFFFFFFFFFFFFC)] }).ready [31, 2] ∧
    (BitVec.ofInt 64 (((warpAt { s := [(2, 0xFFFFFFFFFFFFFFFC)] }).reg 2).toNat + (8 : BitVec 14).toInt)).toNat % 4 = 0 ∧
    (seqAt placedTeam).ready [] ∧ ((seqAt placedTeam).team 1).awaits [31] = false ∧
    (seqAt { placedTeam with mq := [{ op := .mchk 31 0 }] }).ready [] ∧
    ((seqAt { placedTeam with mq := [{ op := .mchk 31 0 }] }).team 1).awaits [31] = true :=
  ⟨⟨by decide, by decide⟩, by decide, ⟨by decide, by decide⟩, by decide, ⟨by decide, by decide, by decide⟩, by decide, ⟨by decide, by decide, by decide⟩, by decide⟩

/-- The start indices 0 and 65,535 with room, 65,535 without, −1 and 65,536. -/
theorem test_meets_LgoQueuesBlock :
    (warpAt { s := [(2, 65535)] }).onWarp 1 0 ∧ ((warpAt { s := [(2, 65535)] }).reg 2).toNat + (0 : BitVec 14).toInt = 65535 ∧
    ((warpAt {}).reg 2).toNat + (0 : BitVec 14).toInt = 0 ∧ ((warpAt {}).reg 2).toNat + (-1 : BitVec 14).toInt = -1 ∧
    ((warpAt { s := [(2, 65535)] }).reg 2).toNat + (1 : BitVec 14).toInt = 65536 ∧
    (warpAt { s := [(2, 65535)], queue := [{}, {}, {}, {}] }).onWarp 1 0 ∧ 4 ≤ ((warpAt { queue := [{}, {}, {}, {}] }).warp 1 0).queue.length ∧
    ((warpAt { queue := [{}, {}, {}] }).warp 1 0).queue.length < 4 :=
  ⟨⟨rfl, rfl, rfl⟩, by decide, by decide, by decide, by decide, ⟨rfl, rfl, rfl⟩, by decide, by decide⟩

theorem test_meets_YieldLeaves :
    (warpAt {}).onWarp 1 0 ∧ ((warpAt {}).team 1).phase = .resident ∧ ((warpAt {}).team 1).leaving = false ∧
    (((warpAt {}).advance 4).startLeave 1).maySave 1 = true ∧
    (let s : State := { warpAt {} with copies := [(7, { (default : Copy) with team := some 1, kind := 2, state := .active })] }
     s.onWarp 1 0 ∧ ((s.advance 4).startLeave 1).maySave 1 = false) :=
  ⟨⟨rfl, rfl, rfl⟩, rfl, rfl, by decide +kernel, ⟨rfl, rfl, rfl⟩, by decide +kernel⟩

theorem test_meets_SgetReads :
    (warpAt {}).ready [63] ∧ (warpAt {}).cur.ids = some (1, 0) ∧ ((0x5E : BitVec 14).toNat, 0) ∈ controlRegisters (warpAt {}) 1 0 ∧
    (seqAt placedTeam).ready [31] ∧ ((0x03 : BitVec 14).toNat, 32) ∈ controlRegisters (seqAt placedTeam) 1 32 ∧
    (warpAt {}).onWarp 1 0 ∧ ((0x0C : BitVec 14).toNat ∉ (controlRegisters (warpAt {}) 1 0).map (·.1)) ∧
    ((0x60 : BitVec 14).toNat ∉ (controlRegisters (warpAt {}) 1 0).map (·.1)) :=
  ⟨⟨by decide, by decide⟩, rfl, by decide +kernel, ⟨by decide, by decide, by decide⟩, by decide +kernel, ⟨rfl, rfl, rfl⟩, by decide +kernel, by decide +kernel⟩

/-- A warp that may execute PRIV and one that may not, and the boundaries of the index ranges. -/
theorem test_meets_SputWrites :
    (warpAt {}).onWarp 1 0 ∧ ((warpAt {}).team 1).mOps = [] ∧ (((warpAt {}).team 1).pmgr || ((warpAt {}).team 1).handler) = true ∧
    ((0x5E : BitVec 14).toNat = 0x40 + 4 * 7 + 2) ∧ ((0x40 : BitVec 14).toNat = 0x40 + 4 * 0 + 0) ∧
    (warpIn { placedTeam with pmgr := false } {}).onWarp 1 0 ∧
    (((warpIn { placedTeam with pmgr := false } {}).team 1).pmgr || ((warpIn { placedTeam with pmgr := false } {}).team 1).handler) = false ∧
    (0x40, 0) ∈ controlRegisters (warpIn { placedTeam with pmgr := false } {}) 1 0 ∧ (0x0B : BitVec 14).toNat ≤ 0xB ∧
    ((0x43 : BitVec 14).toNat ∉ (controlRegisters (warpAt {}) 1 0).map (·.1)) :=
  ⟨⟨rfl, rfl, rfl⟩, rfl, rfl, by decide, by decide, ⟨rfl, rfl, rfl⟩, rfl, by decide +kernel, by decide, by decide +kernel⟩

theorem test_meets_TransfersStop :
    (warpAt { s := [(2, 3)] }).onWarp 1 0 ∧ (((warpAt { s := [(2, 3)] }).reg 2).toNat + (-1 : BitVec 14).toInt) % 2 ^ 64 % 4 = 2 ∧
    (seqAt placedTeam).onSeq 1 ∧ (seqAt placedTeam).ilen = 4 ∧ (seqAt placedTeam).trapvec 1 = 0 ∧
    (((seqAt placedTeam).reg 31).toNat + (8191 : BitVec 14).toInt) % 2 ^ 64 % 4 = 3 :=
  ⟨⟨rfl, rfl, rfl⟩, by decide, ⟨rfl, rfl, rfl, rfl⟩, rfl, rfl, by decide⟩

theorem test_meets_TrapsAndFetchFaults : (warpAt {}).onWarp 1 0 := ⟨rfl, rfl, rfl⟩

/-- A queue of the awaited length and one longer; no sleep, a sleep that has ended; an empty and a full queue at EXIT. -/
theorem test_meets_WaitsEndsAndClock :
    (warpAt { queue := [{}, {}, {}] }).onWarp 1 0 ∧ ((warpAt { queue := [{}, {}, {}] }).warp 1 0).queue.length = (3 : BitVec 2).toNat ∧
    (2 : BitVec 2).toNat < ((warpAt { queue := [{}, {}, {}] }).warp 1 0).queue.length ∧ (∀ till, ((warpAt {}).warp 1 0).wait ≠ .sleep till) ∧
    ((warpAt { s := [(2, 0x100000000)] }).reg 2).toNat % 2 ^ 32 = 0 ∧ ((warpAt { s := [(2, 1)] }).reg 2).toNat % 2 ^ 32 ≠ 0 ∧
    (warpAt { wait := .sleep 0 }).onWarp 1 0 ∧ ((warpAt { wait := .sleep 0 }).warp 1 0).wait = .sleep 0 ∧ 0 ≤ (warpAt { wait := .sleep 0 }).now ∧
    ((warpAt {}).warp 1 0).queue = [] ∧ ((warpAt {}).team 1).handler = false :=
  ⟨⟨rfl, rfl, rfl⟩, rfl, by decide, fun _ h => (nomatch h), by decide, by decide, ⟨rfl, rfl, rfl⟩, rfl, by decide, rfl, rfl⟩

/-- A warp with an answer for the page of its access, over die 0's tables: s2 holds an address of the code's page, s3 an operand. -/
def loader (a : Word) (asks : List Ask) : State := tables (warpAt { s := [(2, a), (3, 0x8000000000000001)], asks := asks })

/-- Where the check and the cache lead: bytes of the first GiB stand at their own addresses. -/
def reachesAt (s : State) (x n : Nat) (k : Acc) : Bool :=
  match s.check s.view x n k with
  | (.local page pa, s0) =>
    let (p, s1) := s0.place (s.team s.me).space x page pa (decide (k ≠ .read))
    p == x && (!(s1.die (s.team s.me).origin).aliased (s.team s.me).space x page p && (s1.recordAt (s.team s.me).space x n).isNone) &&
      !s1.releasedSlot (s.team s.me).space x && !(s1.die (s.team s.me).origin).poisoned p && decide ((s1.die 0).func.base.get 0x11000 0 = 0) && decide ((s1.die 0).queues = [])
  | _ => false

theorem reaches_of {s : State} {x n : Nat} {k : Acc} (hq : s.teams.all (fun y => y.2.mOps.isEmpty) = true) (h : reachesAt s x n k = true) :
    ∃ s1, Reaches s x n k x s1 ∧ s1.offQueues 0 x n := by
  unfold reachesAt at h
  split at h
  · next page pa s0 hc =>
    rcases hp : s0.place (s.team s.me).space x page pa (decide (k ≠ .read)) with ⟨p, s1⟩
    rw [hp] at h
    simp only [Bool.and_eq_true, beq_iff_eq, Bool.not_eq_true', decide_eq_true_eq] at h
    obtain ⟨⟨⟨⟨⟨rfl, h2, h5⟩, h6⟩, h3⟩, h7⟩, h4⟩ := h
    refine ⟨s1, ⟨fun y hy => by simpa using (List.all_eq_true.mp hq) y hy, ⟨page, pa, s0, hc, hp, h2, by simpa using h5⟩, h6, h3⟩, fun q hq' => ?_, .inl h7⟩
    rw [h4] at hq'
    exact absurd hq' (by simp)
  · exact absurd h (by simp)

/-- Accesses of each size, at the end of a page of the last frame that is mapped; the last 8 bytes of a scratchpad of 65,536. -/
theorem test_meets_ScalarLoads :
    (loader 0x3FE00FF8 [answer 0x3FE00 false]).onWarp 1 0 ∧ ((loader 0x3FE00FF8 [answer 0x3FE00 false]).warp 1 0).got = [] ∧
    (∀ r, ((loader 0x3FE00FF8 [answer 0x3FE00 false]).warp 1 0).wait ≠ .remote r) ∧
    (∃ s1, Reaches (loader 0x3FE00FF8 [answer 0x3FE00 false]) 0x3FE00FF8 8 .read 0x3FE00FF8 s1 ∧ s1.offQueues 0 0x3FE00FF8 8) ∧
    (∃ s1, Reaches (loader 0x3FE00FFF [answer 0x3FE00 false]) 0x3FE00FFF 1 .read 0x3FE00FFF s1 ∧ s1.offQueues 0 0x3FE00FFF 1) ∧
    ((warpAt {}).team 1).spad - 8 + 8 ≤ ((warpAt {}).team 1).spad ∧ (((warpAt {}).team 1).spad - 8) % 8 = 0 ∧ ((warpAt {}).team 1).spBad = [] ∧
    ((warpAt {}).team 1).mOps = [] :=
  ⟨⟨rfl, by decide +kernel, rfl⟩, rfl, fun _ h => (nomatch h), reaches_of (by decide +kernel) (by decide +kernel),
    reaches_of (by decide +kernel) (by decide +kernel), by decide +kernel, by decide +kernel, rfl, rfl⟩

/-- A store whose check finds local memory, and one at a peer window. -/
theorem test_meets_ScalarStores_complete :
    (loader 0x20FF8 [answer 0x20 true]).onWarp 1 0 ∧
    (match (loader 0x20FF8 [answer 0x20 true]).check (loader 0x20FF8 [answer 0x20 true]).view 0x20FF8 8 .write with | (.local _ pa, _) => pa == 0x20FF8 | _ => false) = true ∧
    0x20FF8 % 8 = 0 ∧ ((warpAt {}).team 1).spad - 8 + 8 ≤ ((warpAt {}).team 1).spad :=
  ⟨⟨rfl, by decide +kernel, rfl⟩, by decide +kernel, by decide, by decide +kernel⟩

theorem test_meets_ScalarStores :
    (loader 0x20FF8 [answer 0x20 true]).onWarp 1 0 ∧ ((loader 0x20FF8 [answer 0x20 true]).dies.find 0).isSome = true ∧
    (∃ s1, Reaches (loader 0x20FF8 [answer 0x20 true]) 0x20FF8 8 .write 0x20FF8 s1 ∧ s1.offQueues 0 0x20FF8 8) ∧
    (∃ s1, Reaches (loader 0x20FFF [answer 0x20 true]) 0x20FFF 1 .write 0x20FFF s1 ∧ s1.offQueues 0 0x20FFF 1) :=
  ⟨⟨rfl, by decide +kernel, rfl⟩, by decide +kernel, reaches_of (by decide +kernel) (by decide +kernel), reaches_of (by decide +kernel) (by decide +kernel)⟩

/-- A misaligned address, one at 2^52 and one at the scratchpad's end; a page not asked yet, an absent one, and one without the permission. -/
theorem test_meets_ScalarAccessFaults :
    (loader 0x20001 []).onWarp 1 0 ∧ 0x20001 % 8 ≠ 0 ∧ (BitVec.ofInt 64 (((loader (BitVec.ofNat 64 (2 ^ 52)) []).reg 2).toNat + (0 : BitVec 12).toInt)).toNat = 2 ^ 52 ∧
    ((warpAt {}).team 1).spad < ((warpAt {}).team 1).spad + 8 ∧
    ((loader 0x20000 []).check (loader 0x20000 []).view 0x20000 8 .read).1 = .ask { space := 0, page := 0x20, store := false } ∧
    ((loader 0x20000 []).warp 1 0).asks = [] ∧
    ((loader 0x40000000 [answer 0x40000 false]).check (loader 0x40000000 [answer 0x40000 false]).view 0x40000000 8 .read).1 = .fail 0x101 0x40000000 ∧
    ((loader 0x20000 [{ answer 0x20 false with answer := some 0x202 }]).check
      (loader 0x20000 [{ answer 0x20 false with answer := some 0x202 }]).view 0x20000 8 .read).1 = .fail 0x202 0x20000 :=
  ⟨⟨rfl, by decide +kernel, rfl⟩, by decide, by decide +kernel, by decide +kernel, by decide +kernel, rfl, by decide +kernel, by decide +kernel⟩

/-- The atomic access of `s` at `x` acts there. -/
def atomAt (s : State) (x n : Nat) (sys : Bool) : Bool :=
  match s.check s.view x n .atomic with
  | (.local page pa, s0) =>
    let sp := (s.team s.me).space
    let (p, s1) := (if sys && !page.a then s0.dropLine sp x else s0).place sp x page pa false sys
    p == x && (!(s1.die (s.team s.me).origin).aliased sp x page p && !s1.releasedSlot sp x && (s1.recordAt sp x n).isNone) && !(s1.die (s.team s.me).origin).poisoned p &&
      decide ((s1.die 0).func.base.get 0x11000 0 = 0) && decide ((s1.die 0).queues = [])
  | _ => false

theorem atomReaches_of {s : State} {x n : Nat} {sys : Bool} (hq : s.teams.all (fun y => y.2.mOps.isEmpty) = true) (h : atomAt s x n sys = true) :
    ∃ s1, AtomReaches s x n sys x s1 ∧ s1.offQueues 0 x n := by
  unfold atomAt at h
  split at h
  · next page pa s0 hc =>
    rcases hp : (if sys && !page.a then s0.dropLine (s.team s.me).space x else s0).place (s.team s.me).space x page pa false sys with ⟨p, s1⟩
    simp only [hp] at h
    simp only [Bool.and_eq_true, beq_iff_eq, Bool.not_eq_true', decide_eq_true_eq] at h
    obtain ⟨⟨⟨⟨rfl, ⟨h2, h6⟩, h5⟩, h3⟩, h7⟩, h4⟩ := h
    refine ⟨s1, ⟨fun y hy => by simpa using (List.all_eq_true.mp hq) y hy, ⟨page, pa, s0, hc, ⟨hp, h2, h6, by simpa using h5⟩, h3⟩⟩, fun q hq' => ?_, .inl h7⟩
    rw [h4] at hq'
    exact absurd hq' (by simp)
  · exact absurd h (by simp)

theorem test_meets_ScalarAtomics :
    (loader 0x20FF8 [answer 0x20 true]).onWarp 1 0 ∧ ((loader 0x20FF8 [answer 0x20 true]).dies.find 0).isSome = true ∧
    (∃ s1, AtomReaches (loader 0x20FF8 [answer 0x20 true]) 0x20FF8 8 true 0x20FF8 s1 ∧ s1.offQueues 0 0x20FF8 8) ∧
    ∃ s1, AtomReaches (loader 0x20FFC [answer 0x20 true]) 0x20FFC 4 false 0x20FFC s1 ∧ s1.offQueues 0 0x20FFC 4 :=
  ⟨⟨rfl, by decide +kernel, rfl⟩, by decide +kernel, atomReaches_of (by decide +kernel) (by decide +kernel), atomReaches_of (by decide +kernel) (by decide +kernel)⟩

theorem test_meets_FenceWaits : (warpAt {}).onWarp 1 0 ∧ (warpAt {}).ackDone = true ∧ (warpAt { writes := [5] }).onWarp 1 0 ∧ (warpAt { writes := [5] }).ackDone = false :=
  ⟨⟨rfl, rfl, rfl⟩, by decide, ⟨rfl, rfl, rfl⟩, by decide⟩

/-- The scratchpad's last word, generations that are equal and not. -/
theorem test_meets_ArrivalWords :
    let s := warpAt { s := [(2, BitVec.ofNat 64 (((warpAt {}).team 1).spad - 8)), (3, 1)] }
    s.onWarp 1 0 ∧ (s.reg 2).toNat % 2 ^ 32 % 8 = 0 ∧ (s.reg 2).toNat % 2 ^ 32 + 8 ≤ (s.team 1).spad ∧ (s.team 1).spBad = [] ∧ (s.team 1).mOps = [] ∧
    s.spValue 1 ((s.reg 2).toNat % 2 ^ 32) 8 % 2 ^ 16 = (s.reg 0).toNat % 2 ^ 16 ∧ s.spValue 1 ((s.reg 2).toNat % 2 ^ 32) 8 % 2 ^ 16 ≠ (s.reg 3).toNat % 2 ^ 16 :=
  ⟨⟨rfl, rfl, rfl⟩, by decide +kernel, by decide +kernel, rfl, rfl, by decide +kernel, by decide +kernel⟩

/-- A phaser of die 0 in the node, its handle in s2, and a warp with a record of it. -/
def phaserAt (P : Phaser) (W : Warp) : State :=
  { warpAt { W with s := [(2, P.handle), (3, 0x10001), (4, 1)] } with nodes := [(0, { entries := [(5, P)] }), (4, {})] }
def handle0 (kind : Nat) : Word := mkHandle 0 1 kind 5 0
def phaser0 (kind : Nat) : Phaser := { handle := handle0 kind, root := true, home := true, team := 1, span := 1 }
def record0 (kind : Nat) : Member := { handle := handle0 kind, sig := 1, wait := true, lp := 0, doneph := 0xFFFFFFFF }

theorem test_meets_PhaserRoundTrips :
    (warpAt {}).onWarp 1 0 ∧ noTrip (warpAt {}) 1 0 ∧ ((warpAt { wait := .reply 7 }).warp 1 0).wait = .reply 7 ∧ ((warpAt { wait := .tree }).warp 1 0).wait = .tree ∧
    paramOk ((warpAt {}).reg 0).toNat = false ∧ paramOk (2 : Nat) = true ∧ paramOk (1 : Nat) = true ∧ (2 : Nat) % 8 ≤ 2 ∧ ((warpAt {}).node 0).up = true ∧
    ((warpAt {}).seeFor 1 0 (handle0 0)).1 = .stale ∧
    (phaserAt (phaser0 0) {}).onWarp 1 0 ∧ noTrip (phaserAt (phaser0 0) {}) 1 0 ∧ (phaserAt (phaser0 0) {}).seeFor 1 0 ((phaserAt (phaser0 0) {}).reg 2) = (.here (phaser0 0), phaserAt (phaser0 0) {}) ∧
    hScope (handle0 0) ≤ 2 ∧ 1 ≤ ((phaserAt (phaser0 0) {}).reg 3).toNat ∧ ((phaserAt (phaser0 0) {}).reg 3).toNat < 2 ^ 17 ∧
    ((phaserAt (phaser0 0) {}).warp 1 0).member (handle0 0) = none ∧ ((phaserAt (phaser0 0) {}).warp 1 0).members.length < 8 ∧
    ((phaserAt (phaser0 0) { members := [record0 0] }).warp 1 0).member (handle0 0) = some (record0 0) :=
  ⟨⟨rfl, rfl, rfl⟩, ⟨by decide, fun _ h => (nomatch h)⟩, rfl, rfl, by decide, by decide, by decide, by decide, rfl, by decide +kernel, ⟨rfl, rfl, rfl⟩,
    ⟨by decide, fun _ h => (nomatch h)⟩, by decide +kernel, by decide, by decide, by decide, by decide, by decide, by decide⟩

/-- One phase behind and two phases behind; remote writes acknowledged and not. -/
theorem test_meets_PhaserSignals :
    let s := phaserAt (phaser0 0) { members := [record0 0] }
    let u := phaserAt (phaser0 0) { members := [{ record0 0 with lp := 1 }], writes := [9] }
    s.onWarp 1 0 ∧ noTrip s 1 0 ∧ s.seeFor 1 0 (s.reg 2) = (.here (phaser0 0), s) ∧ (s.warp 1 0).member (s.reg 2) = some (record0 0) ∧ (record0 0).sig ≠ 0 ∧
    ((record0 0).lp - (record0 0).doneph).toNat = 1 ∧ s.unacked 1 0 = [] ∧ u.onWarp 1 0 ∧
    (u.warp 1 0).member (u.reg 2) = some { record0 0 with lp := 1 } ∧ ((1 : Half) - (record0 0).doneph).toNat = 2 ∧ u.unacked 1 0 ≠ [] :=
  ⟨⟨rfl, rfl, rfl⟩, ⟨by decide, fun _ h => (nomatch h)⟩, by decide +kernel, by decide, by decide, by decide, by decide, ⟨rfl, rfl, rfl⟩, by decide, by decide, by decide⟩

/-- Records of a kind with a result: phase 2^31 − 1 ahead of an asked one (completed), and 2^31 ahead (not). -/
theorem test_meets_PhaserReads :
    let r (kind : Nat) (p : Half) : Member := { record0 kind with doneph := p, result := some (5, 6, 0, false, false) }
    let s (kind : Nat) (p : Half) : State := phaserAt (phaser0 kind) { members := [r kind p] }
    (s 1 1).onWarp 1 0 ∧ noTrip (s 1 1) 1 0 ∧ (s 1 1).seeFor 1 0 ((s 1 1).reg 2) = (.here (phaser0 1), s 1 1) ∧ ((s 1 1).warp 1 0).member ((s 1 1).reg 2) = some (r 1 1) ∧
    (r 1 1).wait = true ∧ hKind ((s 1 1).reg 2) = 1 ∧ (r 1 1).doneph.toNat = ((s 1 1).reg 4).toNat % 2 ^ 32 ∧
    (s 2 1).seeFor 1 0 ((s 2 1).reg 2) = (.here (phaser0 2), s 2 1) ∧ hKind ((s 2 1).reg 2) = 2 ∧ ((s 2 1).warp 1 0).member ((s 2 1).reg 2) = some (r 2 1) ∧
    ((0x80000000 : Half).toNat + 2 ^ 32 - 1) % 2 ^ 32 < 2 ^ 31 ∧ ¬ ((0x80000001 : Half).toNat + 2 ^ 32 - 1) % 2 ^ 32 < 2 ^ 31 ∧
    ((s 0 0x80000001).warp 1 0).member ((s 0 0x80000001).reg 2) = some (r 0 0x80000001) ∧ (s 0 0x80000001).seeFor 1 0 ((s 0 0x80000001).reg 2) = (.here (phaser0 0), s 0 0x80000001) :=
  ⟨⟨rfl, rfl, rfl⟩, ⟨by decide, fun _ h => (nomatch h)⟩, by decide +kernel, by decide, rfl, by decide, by decide, by decide +kernel, by decide, by decide, by decide,
    by decide, by decide, by decide +kernel⟩

/-- Die 0's memory and table bases hold these words besides. -/
def withWords (bases ws : List (Nat × Nat)) (s : State) : State :=
  { s with
      dies := s.dies.mod 0 fun D =>
        { D with
            mem := ws.foldl (fun m (a, e) => wrBytes m a (bytesLE 8 e)) D.mem
            func := { D.func with base := bases.foldl (fun b (k, a) => b.ins k a) D.func.base } } }

/-- Queue 5 of kind 1 and queue 6, a receive ring of four slots, in the tables of address space 0; 256 operations in queue 5. -/
def netState (W : Warp) : State :=
  withWords [(0x13000, 0x14000), (0x13008, 4096)] [(0x14008, 2 ^ 63 + 7 * 2 ^ 40 + 0x15000), (0x14020, 2 ^ 63 + 3 * 2 ^ 32 + 4), (0x150A8, 2 ^ 36), (0x150C8, 2 * 2 ^ 36),
    (0x150D0, 3 * 2 ^ 20 + 0x30 * 2 ^ 36)] (warpAt W)

/-- Keys 4 to 7 are the address space's: 3, 4, 7 and 8; a ring with a record and one without. -/
theorem test_meets_KeysAndRings :
    let s := netState { s := [(2, 6)] }
    s.onWarp 1 0 ∧ ((s.die 0).asidWord 0 0x20).testBit 63 = true ∧ (s.die 0).asidWord 0 0x20 % 2 ^ 16 = 4 ∧ (s.die 0).asidWord 0 0x20 / 2 ^ 32 % 2 ^ 16 = 3 ∧
    (s.dies.find 0).isSome = true ∧ ((s.die 0).netqValid 0 ((s.reg 2).toNat % 1024)).map qKind = some 2 ∧ (s.netq 0 0 6).delivered ≤ (s.netq 0 0 6).popped ∧
    (let u : State := s.modNetq 0 0 6 fun _ => { delivered := 1 }
     (u.netq 0 0 6).popped < (u.netq 0 0 6).delivered) ∧ ((warpAt {}).die 0).asidWord 0 0x20 = 0 :=
  ⟨⟨rfl, by decide +kernel, rfl⟩, by decide +kernel, by decide +kernel, by decide +kernel, by decide +kernel, by decide +kernel, by decide, by decide +kernel, by decide +kernel⟩

/-- The die cache of die 0 and the L1 of its core 0 hold the first lines of some pages of address space 0, at their own addresses. -/
def cached (pages : List (Nat × Nat)) (s : State) : State :=
  let ls : List CLine := pages.flatMap fun (p, n) => (List.range n).map fun i => { asid := 0, va := 32 * p + i, pa := 32 * p + i }
  { s with dies := s.dies.mod 0 fun D => { D with lines := ls, l1 := [(0, ls)] } }

/-- A queue state block at 0x30000, registered; a ring of two slots at 0x32000; a record at 0x31000 with one sub-launch; the pages answered. -/
def qsbWord0 (held : Nat) : Nat := held
def enqState (held bits : Nat) : State :=
  cached [(0x30, 1), (0x31, 4), (0x32, 8)] <| withWords [(0x11000, 0x18000), (0x11008, 4)] [(0x18000, 0x30001), (0x30000, held), (0x30008, 0x32000), (0x30010, 1 + bits * 2 ^ 48),
    (0x31000, 1), (0x31040, 2 ^ 32 + 2 ^ 24 + 2 ^ 16 + 2 ^ 8), (0x31048, 0x20000), (0x31068, 1 + 2 ^ 16 + 2 ^ 32)]
    (tables (warpAt { s := [(2, 0x30000), (3, 0x31000), (4, 0x30001)], asks := [answer 0x30 false, answer 0x31 false, answer 0x32 true] }))

/-- The block is good and full, good with room, and not enabled; a misaligned operand. -/
def enqReady (s : State) : Bool :=
  match s.check s.view 0x30000 8 .read with
  | (.local _ pa, s1) =>
    let k := (s1.die 0).qsb pa
    ((s1.die 0).registration pa).isSome && qChild k && qEnable k && qAsid k == 0 && pa == 0x30000 && qHeld k != qSlots k &&
      (match s1.readPieces 8 (recordVas 0x31000) with
       | (some v, s2) => recordOk v (qPmgr k) &&
          (match s2.readPieces 8 (dlistsVas v) with
           | (some ls, s3) => ((subsOf v ls).all fun u => u.dl.all entryOk) && s3.writesDone && (s3.putSlot (v.flatMap (bytesLE 8)) (qSlotVa k (qTail k)) (cutLines (qSlotVa k (qTail k)) 512)).1.isSome
           | _ => false)
       | _ => false)
  | _ => false

def enqFull (s : State) : Bool :=
  match s.check s.view 0x30000 8 .read with
  | (.local _ pa, s1) =>
    let k := (s1.die 0).qsb pa
    ((s1.die 0).registration pa).isSome && qChild k && qEnable k && qAsid k == 0 && qHeld k == qSlots k
  | _ => false

/-- A counter at its target, one below it, and 2^63 beyond it; a wait of 4 us; the sockets 3, 4 and 255. -/
theorem test_meets_WaitAndMigrate :
    let s := loader 0x20000 [answer 0x20 false]
    let u := warpAt { qwait := some (0, 1, 2) }
    s.onWarp 1 0 ∧ (s.warp 1 0).got = [] ∧ (∀ r, (s.warp 1 0).wait ≠ .remote r) ∧ (∃ s1, Reaches s 0x20000 8 .read 0x20000 s1 ∧ s1.offQueues 0 0x20000 8) ∧
    s.value 0 0x20000 8 = 0 ∧ (0 + 2 ^ 64 - (s.reg 0).toNat) % 2 ^ 64 < 2 ^ 63 ∧ 2 ^ 63 ≤ (0 + 2 ^ 64 - (1 : Word).toNat) % 2 ^ 64 ∧
    (0 + 2 ^ 64 - (s.reg 3).toNat) % 2 ^ 64 < 2 ^ 63 ∧ (s.warp 1 0).qwait = none ∧ (u.warp 1 0).qwait = some (0, 1, 2) ∧ (u.team 1).phase = .resident ∧
    (u.team 1).leaving = false ∧ inside (u.warp 1 0).wait (u.warp 1 0).asks false = false ∧ 0 + 7000 ≤ ({ u with now := 7000 } : State).now ∧
    (u.team 1).migrate = false ∧ u.holdsPhaser 1 = false ∧ (phaserAt (phaser0 0) {}).holdsPhaser 1 = true :=
  ⟨⟨rfl, by decide +kernel, rfl⟩, rfl, fun _ h => (nomatch h), reaches_of (by decide +kernel) (by decide +kernel), by decide +kernel, by decide +kernel, by decide,
    by decide +kernel, rfl, rfl, rfl, rfl, rfl, by decide, rfl, by decide, by decide⟩

/-- A program manager's warp and another one; a fragment that is there and one that is not; an address space of no partition; the last region;
a reference that is no team's and one that is. -/
theorem test_meets_PrivilegedInstructions :
    let s := warpAt {}
    let n := warpIn { placedTeam with pmgr := false } {}
    let v : State := { s with teams := s.teams ++ [(2, { placedTeam with ref := some 5 })] }
    s.onWarp 1 0 ∧ (s.team 1).pmgr = true ∧ n.onWarp 1 0 ∧ (n.team 1).pmgr = false ∧ (n.team 1).handler = false ∧
    (0 : Nat) / 2 ^ 26 % 64 / 8 = (s.team 1).core / 8 ∧ (s.partitionOf 0 0).isNone = true ∧ 192 * 2 ^ 30 - 1 < 192 * 2 ^ 30 ∧ (s.dies.find 0).isSome = true ∧
    (∀ u ∈ s.teams, u.2.origin ≠ (s.team 1).die ∨ u.2.ref ≠ some (5 % 2 ^ 32) ∨ u.2.halt = true) ∧
    (v.teams.find? (fun (_, U) => U.origin == 0 && U.ref == some (5 % 2 ^ 32) && !U.halt)).map (·.1) = some 2 ∧ (v.team 2).partition = (v.team 1).partition ∧
    v.teams.find 2 = some { placedTeam with ref := some 5 } :=
  ⟨⟨rfl, rfl, rfl⟩, rfl, ⟨rfl, rfl, rfl⟩, rfl, rfl, by decide, by decide, by decide, by decide, by decide, by decide, rfl, rfl⟩

/-- Operations of each kind at the head of the queue, before their start, in the engine and at their completion. -/
theorem test_meets_MatrixEngine :
    let mm : Instr := .mma 0 1 2 0 false 0 1 0 0
    let T (o : MOp) : Team := { placedTeam with mq := [o], slots := [(0, { (default : WSlot) with state := .valid, k := 1 })] }
    let s (o : MOp) : State := seqAt (T o)
    ((s {}).teams.find 1).isSome = true ∧ ((s {}).team 1).phase = .resident ∧ ((s {}).team 1).frozen = false ∧
    ((s { op := .mzero 0 }).team 1).mFlaw { op := .mzero 0 } = none ∧ ((s { op := mm }).team 1).mFlaw { op := mm } = none ∧
    ((s { op := .mchk 1 0 }).team 1).mFlaw { op := .mchk 1 0 } = none ∧
    ({ op := mm, started := true } : MOp).product.isSome = true ∧ ({ op := mm } : MOp).inj = none ∧ ({ op := .mfix 1 0 } : MOp).product = none ∧
    ({ op := .mloc 1 0 } : MOp).product = none ∧ ({ op := mm, finished := true } : MOp).raced = [] ∧
    ((s { op := mm }).team 1).mFlaw { op := .mma 0 1 2 0 false 0 2 0 0 } = some 4 ∧ (s {}).trapvec 1 = 0 :=
  ⟨rfl, rfl, rfl, by decide +kernel, by decide +kernel, by decide +kernel, rfl, rfl, rfl, rfl, rfl, by decide +kernel, rfl⟩

/-- An engine that chooses the team, one that chooses another of higher priority, and one with a product of another team. -/
theorem test_meets_MatrixEngine_choice :
    let mm : Instr := .mma 0 1 2 0 false 0 1 0 0
    let T (o : MOp) (p : Nat) : Team := { placedTeam with mq := [o], prio := p }
    let s (o : MOp) (p : Nat) : State := { teams := [(1, T { op := mm } 3), (2, T o p)] }
    (s {} 2).canStart ((s {} 2).team 1) = true ∧ (s {} 2).startNext 0 0 = some 1 ∧ (s {} 4).startNext 0 0 ≠ some 1 ∧
    (s { op := mm, started := true } 2).canStart ((s { op := mm, started := true } 2).team 1) = false := by
  decide +kernel

theorem test_meets_MatrixFaults :
    let o : MOp := { op := .mma 0 1 2 3 false 0 96 0 0 }
    let s := seqAt { placedTeam with mq := [o] }
    (s.teams.find 1).isSome = true ∧ (s.team 1).mq = [o] ∧ (s.team 1).phase = .resident ∧ o.started = false ∧ (s.team 1).frozen = false ∧ s.trapvec 1 = 0 ∧
    (s.team 1).mFlaw o = some 3 :=
  ⟨rfl, rfl, rfl, rfl, rfl, rfl, by decide +kernel⟩

/-- Warp 0 with path A at the last index that has a successor; all lanes take part. -/
def lanes : State := pathAt { full with pc := 65534 } {}

theorem goes {s : State} {t w : Nat} {b : Bool} (h : decide ((s.path t w b).pc < 65535) = true) : s.goesOn t w b := by simpa [State.goesOn] using h

theorem onPath_lanes : lanes.onPath 1 0 false ∧ lanes.goesOn 1 0 false := ⟨⟨rfl, by decide, by decide, rfl⟩, goes (by decide)⟩

theorem test_meets_LaneIntegerResults :
    lanes.onPath 1 0 false ∧ lanes.goesOn 1 0 false ∧ (∀ k ∈ ([0, 1, 2, 3, 8] : List (BitVec 4)), ({ w0 with ty := k } : LaneWord).ty ∈ ([0, 1, 2, 3, 8] : List (BitVec 4))) :=
  ⟨onPath_lanes.1, onPath_lanes.2, by decide⟩

theorem test_meets_LaneMovesAndCompares :
    lanes.onPath 1 0 false ∧ lanes.goesOn 1 0 false ∧ ({ w0 with ty := 8 } : LaneWord).ty.toNat < 9 ∧ ({ w0 with sub := 7 } : LaneWord).sub.toNat % 8 = 7 ∧
    ({ w0 with sub := 1 } : LaneWord).sub.toNat % 2 = 1 ∧ ({ w0 with ty := 3, md := 5 } : LaneWord).md.toNat < 6 ∧ ({ w0 with ty := 5, md := 7 } : LaneWord).md.toNat < 8 ∧
    lanes.acting 1 0 false w0 = List.range 32 ∧ (pathAt { mem := ~~~0 } {}).acting 1 0 false w0 = [] :=
  ⟨onPath_lanes.1, onPath_lanes.2, by decide, by decide, by decide, by decide, by decide, by decide, by decide⟩

theorem test_meets_LaneFloatResults :
    lanes.onPath 1 0 false ∧ lanes.goesOn 1 0 false ∧ (∀ k ∈ ([4, 5, 6, 7] : List (BitVec 4)), ({ w0 with ty := k } : LaneWord).ty ∈ ([4, 5, 6, 7] : List (BitVec 4))) :=
  ⟨onPath_lanes.1, onPath_lanes.2, by decide⟩

theorem test_meets_LaneConversions :
    lanes.onPath 1 0 false ∧ lanes.goesOn 1 0 false ∧ (∀ k < 9, ({ w0 with ty := BitVec.ofNat 4 k, sub := BitVec.ofNat 6 k } : LaneWord).ty.toNat < 9 ∧
      ({ w0 with sub := BitVec.ofNat 6 (16 + k) } : LaneWord).sub.toNat % 16 = (BitVec.ofNat 4 k).toNat) :=
  ⟨onPath_lanes.1, onPath_lanes.2, by decide⟩

theorem test_meets_LaneQuantisation : lanes.onPath 1 0 false ∧ lanes.goesOn 1 0 false ∧ ({ w0 with vd := 254 } : LaneWord).vd.toNat % 2 = 0 :=
  ⟨onPath_lanes.1, onPath_lanes.2, by decide⟩

/-- A source that is valid and two that are not: beyond lane 31, and dead. -/
theorem test_meets_CrossLaneResults :
    lanes.onPath 1 0 false ∧ lanes.goesOn 1 0 false ∧ ((lanes.path 1 0 false).m0.getLsbD 31 = true ∧ (lanes.warp 1 0).dead.getLsbD 31 = false) ∧ ¬ (32 : Int) < 32 ∧
    (let s := pathAt full { dead := 1 }
     s.onPath 1 0 false ∧ s.goesOn 1 0 false ∧ (s.warp 1 0).dead.getLsbD 0 = true) ∧ ({ w0 with imm := 5 } : LaneWord).imm.toNat % 8 < 6 :=
  ⟨onPath_lanes.1, onPath_lanes.2, by decide, by decide, ⟨⟨rfl, by decide, by decide, rfl⟩, goes (by decide), by decide⟩, by decide⟩

/-- A branch taken by no lane, by all, by half of them; a stack with 64, 63 and 62 entries; slot B empty and not. -/
theorem test_meets_LaneTransfers :
    let st (n : Nat) : List Entry := List.replicate n (.ret 0 0)
    let P : Path := { full with pc := 7 }
    let f : LaneWord := { w0 with sub := 1, imm := 9 }
    let s (n : Nat) (m : Half) (q : Option Path) : State := pathAt P { m := [(1, m)], stack := st n, b := q }
    (s 63 0xFFFF none).onPath 1 0 false ∧ (s 63 0xFFFF none).goesOn 1 0 false ∧ ((s 63 0xFFFF none).path 1 0 false).m0 ≠ 0 ∧
    64 - ((s 63 0 none).warp 1 0).stack.length = 1 ∧ 64 - ((s 64 0 none).warp 1 0).stack.length = 0 ∧ 64 - ((s 62 0 (some {})).warp 1 0).stack.length = 2 ∧
    ((s 0 0 none).eff 1 0 false f &&& (((s 0 0 none).warp 1 0).m.get 1 0)) = 0 ∧
    ((s 0 0xFFFF none).eff 1 0 false f &&& (((s 0 0xFFFF none).warp 1 0).m.get 1 0)) = 0xFFFF ∧ P.mem &&& ~~~(0xFFFF : Half) ≠ 0 ∧
    ((s 0 0xFFFFFFFF none).eff 1 0 false f &&& (((s 0 0xFFFFFFFF none).warp 1 0).m.get 1 0)) = 0xFFFFFFFF ∧ P.mem &&& ~~~(0xFFFFFFFF : Half) = 0 ∧
    ((s 0 0 none).warp 1 0).path true = none ∧ ((s 0 0 (some {})).warp 1 0).path true ≠ none ∧
    takeRet P.mem [.ret 65535 (~~~0)] = some (65535, []) ∧ ((pathAt { mem := ~~~0 } {}).path 1 0 false).m0 = 0 :=
  ⟨⟨rfl, by decide, by decide, rfl⟩, goes (by decide), by decide, by decide, by decide, by decide, by decide, by decide, by decide, by decide, by decide, rfl,
    (nomatch ·), by decide, rfl⟩

/-- All lanes hold the same target, index 1 of a lane program whose word there is LPAD with tag 5. -/
theorem test_meets_LaneIndirect :
    let s := withWords [] [(0x20008, 0x00000005 * 2 ^ 32), (0x20010, 0x53000000 * 2 ^ 32)]
      (tables (pathAt full { v := (List.range 32).map fun l => lane 9 l 1 }))
    s.onPath 1 0 false ∧ s.goesOn 1 0 false ∧ (s.path 1 0 false).mem ≠ 0 ∧ s.eff 1 0 false w0 = (s.path 1 0 false).mem ∧
    (∀ l < 32, ((s.warp 1 0).vw 9 l).toNat = 1) ∧ (s.padCheck 1 1 5).1 = .good ∧ (s.padCheck 1 1 5).2.warp 1 0 = s.warp 1 0 ∧ (s.padCheck 1 1 5).2.now = s.now ∧
    (s.warp 1 0).stack.length < 64 ∧ (pathAt { mem := ~~~0 } {}).eff 1 0 false w0 = 0 :=
  ⟨⟨rfl, by decide +kernel, by decide +kernel, rfl⟩, goes (by decide +kernel), by decide, by decide +kernel, by decide +kernel, by decide +kernel, by decide +kernel, by decide +kernel,
    by decide, by decide +kernel⟩

/-- A path at the join index of its entry, and one elsewhere; loads outstanding; a barrier passed and arrived at. -/
theorem test_meets_LaneJoinsAndBarriers :
    let e : Entry := .join 3 7 (~~~0) 0 none none 0
    let s := pathAt { full with pc := 7, join := some 3 } { stack := [e] }
    let n := pathAt { full with pc := 8, join := some 3 } { stack := [e] }
    s.onPath 1 0 false ∧ s.goesOn 1 0 false ∧ (s.path 1 0 false).board = [] ∧ (s.path 1 0 false).join = some 3 ∧ (s.warp 1 0).joinAt 3 = some (s.path 1 0 false).pc ∧
    (n.path 1 0 false).join.bind (n.warp 1 0).joinAt ≠ some (n.path 1 0 false).pc ∧ (pathAt { full with board := [{ lane := 0 }] } {}).onPath 1 0 false ∧
    ((pathAt { full with board := [{ lane := 0 }] } {}).path 1 0 false).board ≠ [] ∧ (s.path 1 0 false).bar = none ∧
    ((pathAt { full with bar := some 15 } {}).path 1 0 false).bar.isSome = true ∧ s.eff 1 0 false w0 = (s.path 1 0 false).mem ∧
    (pathAt { mem := ~~~0 } {}).eff 1 0 false w0 = 0 ∧ (s.path 1 0 false).mem ≠ 0 :=
  ⟨⟨rfl, by decide, by decide, rfl⟩, goes (by decide), rfl, rfl, by decide, by decide, ⟨rfl, by decide, by decide, rfl⟩, (nomatch ·), rfl, rfl, by decide, by decide, by decide⟩

/-- Every lane at the last 16 bytes of a scratchpad, every lane one byte beyond alignment. -/
theorem test_meets_LaneScratchpad :
    let s (x : Nat) : State := pathAt full { v := (List.range 32).map fun l => lane 5 l x }
    let f (k : BitVec 6) : LaneWord := { w0 with va := 5, sub := k }
    let good (x : Nat) (k : BitVec 6) (l : Nat) : Bool := (((s x).warp 1 0).vw 5 l + (f k).imm).toNat % sizeBytes k.toNat == 0 &&
      decide ((((s x).warp 1 0).vw 5 l + (f k).imm).toNat + sizeBytes k.toNat ≤ ((s x).team 1).spad)
    (s 16368).onPath 1 0 false ∧ (s 16368).goesOn 1 0 false ∧ ((s 16368).team 1).spBad = [] ∧ ((s 16368).team 1).mq = [] ∧ ((s 16368).team 1).spad = 16384 ∧
    (f 6).sub.toNat % 8 < 7 ∧ (∀ l ∈ (s 16368).acting 1 0 false (f 6), good 16368 6 l = true) ∧ (∀ l ∈ (s 16384).acting 1 0 false (f 0), good 16384 0 l = false) ∧
    (∀ l ∈ (s 1).acting 1 0 false (f 2), good 1 2 l = false) :=
  ⟨⟨rfl, by decide +kernel, by decide, rfl⟩, goes (by decide), rfl, rfl, by decide, by decide, by decide +kernel, by decide +kernel, by decide +kernel⟩

/-- Lane 31 alone, at an address in v4:v5, with a page asked and answered. -/
def lone (x : Nat) (asks : List Ask) : State :=
  tables (pathAt { m0 := 0x80000000, mem := ~~~0, asks := asks } { v := [lane 4 31 (x % 2 ^ 32), lane 5 31 (x / 2 ^ 32), lane 8 31 7] })

theorem test_meets_LaneGlobal :
    let f : LaneWord := { w0 with va := 4, sub := 6 }
    (lone 0x20FF0 [answer 0x20 false]).onPath 1 0 false ∧ (lone 0x20FF0 [answer 0x20 false]).goesOn 1 0 false ∧ f.sub.toNat % 8 < 7 ∧
    (lone 0x20FF0 []).acting 1 0 false f = [31] ∧ asksOf ((lone 0x20FF0 []).checkLanes 16 .read [(31, 0x20FF0)]).1 ≠ [] ∧
    asksOf ((lone 0x20FF0 [answer 0x20 false]).checkLanes 16 .read [(31, 0x20FF0)]).1 = [] ∧
    asksOf ((lone 0x20FF0 []).checkLanes 16 .write [(31, 0x20FF0)]).1 ≠ [] ∧
    (∃ s1, Reaches (lone 0x20FF0 [answer 0x20 false]) 0x20FF0 16 .read 0x20FF0 s1 ∧ s1.offQueues 0 0x20FF0 16) ∧
    (∃ s1, Reaches (lone 0x20FF0 [answer 0x20 true]) 0x20FF0 16 .write 0x20FF0 s1 ∧ s1.offQueues 0 0x20FF0 16) ∧
    ((lone 0x20FF0 [answer 0x20 true]).dies.find 0).isSome = true :=
  ⟨⟨rfl, by decide +kernel, by decide +kernel, rfl⟩, goes (by decide +kernel), by decide, by decide +kernel, by decide +kernel, by decide +kernel, by decide +kernel,
    reaches_of (by decide +kernel) (by decide +kernel), reaches_of (by decide +kernel) (by decide +kernel), by decide +kernel⟩

/-- Pages of the formats 1 to 4: the leaf entry of the placed tables with A and FMT, the scale byte in the same page. -/
def formatted (fmt : Nat) : State :=
  let s := lone 0x20000 [answer 0x20 false]
  { s with dies := s.dies.mod 0 fun D => { D with mem := wrBytes D.mem placeLow (bytesLE 8 (2 ^ 48 + 2 ^ 12 + 2 ^ 11 + 2 ^ 8 + 2 ^ 7 + 3 + fmt * 2 ^ 14)), space := [(1, 0x20000), (2, 0x20880)] } }

/-- Its checks lead to the formatted page, and the scale byte is read. -/
def formatOk (fmt n : Nat) : Bool :=
  let s := formatted fmt
  match s.check s.view 0x20000 n .read with
  | (.local page pa, s1) =>
    page.fmt == fmt && (s1.load page.space 0x20000 n page pa).1.isSome &&
      (fmt ≥ 3 || match s1.scaleAddr 0 page.swi (page.fmt = 2) 0x20000 with
        | some sa => (match s1.check s1.view sa 1 .read with
          | (.local pg2 pa2, s2) => (match s2.load 0 sa 1 pg2 pa2 with
            | (some e8, s3) => e8 != 254 && (s3.load page.space 0x20000 n page pa).1.isSome
            | _ => false)
          | _ => false)
        | none => false)
  | _ => false

theorem test_meets_LaneFormatLoads :
    let f : LaneWord := { w0 with va := 4, sub := 4 }
    (formatted 1).onPath 1 0 false ∧ (formatted 1).goesOn 1 0 false ∧ (formatted 1).quiet ∧ f.sub.toNat % 8 < 7 ∧ (formatted 1).acting 1 0 false f = [31] ∧
    ((formatted 1).warp 1 0).gaddr f 31 = 0x20000 ∧ formatOk 1 4 = true ∧ formatOk 2 4 = true ∧ formatOk 3 4 = true ∧ formatOk 4 2 = true ∧
    ((lone 0x20000 []).check (lone 0x20000 []).view 0x20000 4 .read).1 = .ask { space := 0, page := 0x20, store := false } :=
  ⟨⟨rfl, by decide +kernel, by decide +kernel, rfl⟩, goes (by decide +kernel), fun x h => by simp [formatted, lone, tables, pathAt, placedTeam] at h; subst h; rfl,
    by decide, by decide +kernel, by decide +kernel, by decide +kernel, by decide +kernel, by decide +kernel, by decide +kernel, by decide +kernel⟩

/-- A formatted page whose scale byte lies in a peer window: entry 0 of the import table, an export of die 1. -/
theorem test_meets_LaneFormatLoads_away :
    let s : State := withWords [(0x13000, 0x14000), (0x13008, 4096)] [(0x14000, 2 ^ 63 + 0x16000), (0x16000, 15 + 2 ^ 50), (0x16008, 0xFFFFFFFF)] (formatted 1)
    let u : State := { s with dies := s.dies.mod 0 fun D => { D with space := [(1, 0x20000), (2, BitVec.ofNat 64 (15 * 2 ^ 48))] } }
    (u.path 1 0 false).scales = [] ∧
    (match u.check u.view 0x20000 4 .read with
     | (.local page _, s1) => page.fmt == 1 && (match s1.scaleAddr 0 page.swi false 0x20000 with
       | some sa => sa == 15 * 2 ^ 48 && (match s1.check s1.view sa 1 .read with | (.remote _, _) => true | _ => false)
       | none => false)
     | _ => false) = true := by
  decide +kernel

theorem test_meets_LaneAtomics :
    let sp : LaneWord := { w0 with va := 8, sub := 0x20 }
    let f : LaneWord := { w0 with va := 4, ty := 4, sub := 8 }
    (lone 0x20FF8 [answer 0x20 true]).onPath 1 0 false ∧ (lone 0x20FF8 [answer 0x20 true]).goesOn 1 0 false ∧ f.ty.toNat < 5 ∧
    (lone 0x20FF8 []).acting 1 0 false f = [31] ∧ ((lone 0x20FF8 []).warp 1 0).gaddr f 31 = 0x20FF8 ∧ f.sub.toNat / 32 = 0 ∧ sp.sub.toNat / 32 = 1 ∧
    ((lone 0x20FF8 []).team 1).spBad = [] ∧ ((lone 0x20FF8 []).team 1).mq = [] ∧ (((lone 0x20FF8 []).warp 1 0).vw 9 31 + sp.imm).toNat % 4 = 0 ∧
    (∃ s1, AtomReaches (lone 0x20FF8 [answer 0x20 true]) 0x20FF8 4 false 0x20FF8 s1 ∧ s1.offQueues 0 0x20FF8 4) ∧
    ∃ s1, AtomReaches (lone 0x20FF8 [answer 0x20 true]) 0x20FF8 8 true 0x20FF8 s1 ∧ s1.offQueues 0 0x20FF8 8 :=
  ⟨⟨rfl, by decide +kernel, by decide +kernel, rfl⟩, goes (by decide +kernel), by decide, by decide +kernel, by decide +kernel, by decide, by decide, rfl, rfl, by decide +kernel,
    atomReaches_of (by decide +kernel) (by decide +kernel), atomReaches_of (by decide +kernel) (by decide +kernel)⟩

/-- A path of three lanes whose handle register names entry 0 of an import table: page 0x16 of die 0, an export of die 1. -/
def remote7 (tag : Nat) : State :=
  withWords [(0x13000, 0x14000), (0x13008, 4096)] [(0x14000, 2 ^ 63 + 0x16000), (0x16000, 15 + 2 ^ 50), (0x16008, 0xFFFFFFFF)]
    { cur := .path 1 0 false
      teams := [(1, { placedTeam with warps := [(0, { pathOf { m0 := 7, mem := 7 } {} with queue := [{ (default : Block) with stream := tag }] })] })] }

/-- The checks of three lanes at registers v4 and handles in v6. -/
def lanes3 (s : State) : List (Nat × Nat × Chk) :=
  (s.handleChecks 4 .read (fun l => ((s.warp 1 0).opb { w0 with va := 4, vb := 6, sub := 2 } false l, ((s.warp 1 0).vw 4 l).toNat)) [0, 1, 2]).1

/-- Three lanes with handles to entry 0 of die 0's import table, an export of die 1; without a table the check fails. -/
theorem test_meets_LaneRemote :
    (pathAt { m0 := 7, mem := 7 } {}).onPath 1 0 false ∧ (pathAt { m0 := 7, mem := 7 } {}).goesOn 1 0 false ∧
    (pathAt { m0 := 7, mem := 7 } {}).acting 1 0 false { w0 with va := 4, vb := 6, sub := 2 } = [0, 1, 2] :=
  ⟨⟨rfl, by decide, by decide, rfl⟩, goes (by decide), by decide +kernel⟩

theorem test_meets_LaneRemote_checks :
    ((lanes3 (pathAt { m0 := 7, mem := 7 } {})).all fun c => match c.2.2 with | .fail _ _ => true | _ => false) = true ∧
    ((lanes3 (remote7 0)).all fun c => match c.2.2 with | .remote _ => true | _ => false) = true ∧ (lanes3 (remote7 0)).length = 3 := by
  decide +kernel

theorem test_meets_LaneRemote_slots : (remote7 0).tag = 0 ∧ (remote7 5).tag = 5 := by decide +kernel

theorem test_meets_LaneRemote_slot : ((remote7 5).accept 0 0 5 1).1 = some [] := by decide +kernel

theorem test_meets_LaneRemote_noSlot : (State.accept { remote7 0 with dies := (remote7 0).dies.mod 0 fun D => { D with slotQ := [9] } } 0 0 5 1).1 = none := by
  decide +kernel

/-- A path of three lanes, the first of which has a remote write that is not acknowledged; an SC fence has noted it. -/
def posted7 : State :=
  { pathAt { m0 := 7, mem := 7 } {} with
      reqs := [(3, { (default : Req) with owner := .lane 1 0 0, packet := { (default : TwillPacket) with type := .write } })], scWrites := [3] }

/-- Remote writes acknowledged and not, noted by a fence and not; a release of the lane that has one. -/
theorem test_meets_LaneAtomics_waits :
    posted7.onPath 1 0 false ∧ releaseWaits posted7 1 0 false { w0 with nb := true } ∧ posted7.laneAcked 1 0 0 = false ∧ posted7.scOpen = true ∧
    (pathAt { m0 := 7, mem := 7 } {}).laneAcked 1 0 0 = true ∧ (pathAt { m0 := 7, mem := 7 } {}).scOpen = false :=
  ⟨⟨rfl, by decide, by decide, rfl⟩, ⟨rfl, 0, by decide +kernel, by decide +kernel⟩, by decide +kernel, by decide +kernel, by decide +kernel, by decide +kernel⟩

/-- A handler warp whose lane 0 stands for lane 31 of a fragment of team 2's warp 0. -/
def handling (mask : Half) : State :=
  { pathIn { placedTeam with handler := true } { m0 := 1, mem := ~~~0 } { origins := [{ frag := 9, lane := 31 }] } with
      teams := [(1, { placedTeam with handler := true, warps := [(0, pathOf { m0 := 1, mem := ~~~0 } { origins := [{ frag := 9, lane := 31 }] })] }),
                (2, { placedTeam with warps := [(0, {})] })]
      frags := [(9, { (default : Frag) with team := 2, state := .handling, mask := mask })] }

theorem test_meets_HandlerInstructions :
    (handling 0x80000000).onPath 1 0 false ∧ (handling 0x80000000).goesOn 1 0 false ∧ ((handling 0x80000000).team 1).handler = true ∧
    (handling 0x80000000).acting 1 0 false w0 = [0] ∧ ((handling 0x80000000).warp 1 0).origins[0]? = some { frag := 9, lane := 31 } ∧
    (handling 0x80000000).frags.find 9 = some { (default : Frag) with team := 2, state := .handling, mask := 0x80000000 } ∧ (2 : Nat) ≠ 1 ∧
    ({ w0 with sub := 4 } : LaneWord).sub.toNat % 8 < 5 ∧ ((handling 0).warp 2 0).badV = [] ∧ (handling 0x80000000).warpLive 2 0 = true ∧
    (0x80000000 : Half) = BitVec.ofNat 32 (2 ^ 31) ∧ (0 : Nat) + 1 ≠ 65536 :=
  ⟨⟨rfl, by decide, by decide, rfl⟩, goes (by decide), rfl, by decide, rfl, rfl, by decide, by decide, rfl, by decide, by decide, by decide⟩

/-- Fragments whose warps hold no uncorrectable word; lanes with effect that have an origin. -/
theorem test_meets_HandlerInstructions_complete :
    (handling 0x80000000).onPath 1 0 false ∧ (handling 0x80000000).goesOn 1 0 false ∧ ((handling 0x80000000).team 1).handler = true ∧
    (∀ F ∈ (handling 0x80000000).frags, ((handling 0x80000000).warp F.2.team F.2.warp).badV = []) ∧
    (0 : Nat) ∈ (handling 0x80000000).acting 1 0 false w0 ∧ ((handling 0x80000000).warp 1 0).origins[0]? = some { frag := 9, lane := 31 } :=
  ⟨⟨rfl, by decide, by decide, rfl⟩, goes (by decide), rfl, by decide, by decide, rfl⟩

/-- An address space with a handler, and one without; the core's table with a free entry and without; lanes with effect and none. -/
theorem test_meets_LaneTrapsAndHandlerOnly :
    let s : State := { lanes with dies := lanes.dies.mod 0 fun D => { D with space := [(0, 0x1000)] } }
    let F (i : Nat) : Nat × Frag := (i, { (default : Frag) with team := 1, entry := some i })
    s.onPath 1 0 false ∧ s.goesOn 1 0 false ∧ s.eff 1 0 false w0 ≠ 0 ∧ (s.team 1).handler = false ∧ s.noHandler 1 = false ∧ s.freeFrags 0 0 ≠ [] ∧
    ({ s with frags := (List.range Config.fragEntries).map F } : State).freeFrags 0 0 = [] ∧ (pathAt { mem := ~~~0 } {}).eff 1 0 false w0 = 0 ∧
    (pathAt { mem := ~~~0 } {}).onPath 1 0 false ∧ ((pathAt { mem := ~~~0 } {}).path 1 0 false).m0 = 0 ∧ (s.path 1 0 false).m0 ≠ 0 :=
  ⟨⟨rfl, by decide, by decide, rfl⟩, goes (by decide), by decide, rfl, by decide +kernel, by decide +kernel, by decide +kernel, by decide, ⟨rfl, by decide, by decide, rfl⟩, rfl, by decide⟩

/-! ### States for the events -/

/-- Function 0 is busy with a command that has these arguments. -/
def busyWith (op : Nat) (args : List Word) : State :=
  { dies := [(0, { func := { busy := true, running := op, taken := args } }), (1, {}), (2, {}), (3, {})] }

theorem test_meets_HostAccesses :
    let s : State := {}
    (s.dies.find 3).isSome = true ∧ (s.die 3).retired = [] ∧ (Config.physBytes - 1) + [(7 : Byte)].length ≤ Config.physBytes ∧ (s.die 3).registered = [] ∧
    (s.die 3).poison = [] ∧ (s.die 3).func.pending = [] ∧ s.reqs = [] ∧
    (let u : State := { dies := [(0, { func := { busy := true, code := some 0, msix := [(0, 0)] } })] }
     (u.dies.find 0).isSome = true ∧ (u.die 0).func.busy = true ∧ (u.die 0).func.code = some 0 ∧ bitOf ((u.die 0).func.entry 0) 96 = false) ∧
    bitOf ((s.die 0).func.entry 0) 96 = true :=
  ⟨by decide, rfl, by decide, by decide, rfl, rfl, rfl, ⟨by decide, rfl, rfl, by decide⟩, by decide⟩

/-- Each command, with arguments that are good and bad at the ends of their ranges. -/
theorem test_meets_HostCommands :
    ((busyWith 1 [BitVec.ofNat 64 (Config.physBytes - 2 ^ 21), 2]).die 0).func.runs 1 = true ∧ (Config.physBytes - 2 ^ 21) % 2 ^ 21 = 0 ∧
    Config.physBytes - 2 ^ 21 < Config.physBytes ∧ (2 : Nat) % 4 ≠ 3 ∧ (2 ^ 21 - 1) % 2 ^ 21 ≠ 0 ∧
    ((busyWith 2 [1, 31, BitVec.ofNat 64 (4095 * 2 ^ 24)]).die 0).func.runs 2 = true ∧
    ¬(bits (4095 * 2 ^ 24) 47 36 ≠ 0 ∨ bits (4095 * 2 ^ 24) 23 12 ≠ 0 ∨ bits (4095 * 2 ^ 24) 11 0 + bits (4095 * 2 ^ 24) 35 24 > 4095) ∧
    (bits (4095 * 2 ^ 24 + 1) 11 0 + bits (4095 * 2 ^ 24 + 1) 35 24 > 4095) ∧ (busyWith 2 []).teams = [] ∧ (busyWith 2 []).partitions = [] ∧
    (busyWith 3 []).copies = [] ∧ (busyWith 3 []).netops = [] ∧ ((busyWith 3 [0, 31]).die 0).func.runs 3 = true ∧
    (let s : State := withWords [] [(0x1000, 2 + 2 ^ 32), (0x1008, 2 ^ 64 - 1 - (2 + 2 ^ 32)), (0x1040, 9)] { busyWith 4 [0x1000] with
       partitions := [(2, { stopped := true })], teams := [(1, { placedTeam with partition := 2, phase := .away })]
       copies := [(9, { team := some 1, exported := true })] }
     let word (i : Nat) : Nat := (s.die 0).tableWord ((s.die 0).func.argN 0 + 8 * i)
     (s.die 0).func.runs 4 = true ∧ s.cmd = none ∧ word 0 + word 1 = 2 ^ 64 - 1 ∧ s.bundles = [] ∧ word 0 % 32 = 2 ∧ bits (word 0) 63 32 = 1 ∧
     (let c := s.copy (word (2 + bits (word 0) 31 8 + 6))
      s.copies.find (word (2 + bits (word 0) 31 8 + 6)) = some c ∧ c.exported = true ∧ s.copyPart c = 2)) ∧
    (let s : State := busyWith 4 [0x1000]
     (s.die 0).tableWord ((s.die 0).func.argN 0) + (s.die 0).tableWord ((s.die 0).func.argN 0 + 8) ≠ 2 ^ 64 - 1) ∧
    (let s : State := { busyWith 3 [0x1000, 2] with cmd := some 0, partitions := [(2, { stopped := true })], teams := [(1, { placedTeam with partition := 2 })] }
     (s.partitions.get ((s.die 0).func.argN 1 % 32) {}).stopped = true ∧ s.drained (· == 2) = false ∧ (∀ e, s.cmd = some e → e = 0)) ∧
    ({ busyWith 6 [7] with cmd := some 1 } : State).cmd = some 1 ∧ (1 : Nat) ≠ 0 ∧
    ((busyWith 6 [7]).die 0).func.runs 6 = true ∧ ((busyWith 7 [1000]).die 0).func.argN 0 % 4096 = 1000 ∧ ((busyWith 7 [2600]).die 0).func.argN 0 % 4096 = 2600 ∧
    ((busyWith 7 [2601]).die 0).func.runs 7 = true ∧ ((busyWith 8 [0, 16]).die 0).func.runs 8 = true ∧
    (∀ k < 3, ((busyWith 8 []).banks.find k).isSome = true) ∧ ((busyWith 9 []).die 0).func.runs 9 = true ∧ ((busyWith 9 []).die 0).lines = [] := by
  decide +kernel

/-- PSTATE in each power state: into PS3 again, out of it to PS2, denied after a thermal shutdown, out of it, and waits for the drain. -/
theorem test_meets_HostCommands_power :
    let at_ (k : Nat) (s : State) : State := { s with dies := (busyWith 5 [BitVec.ofNat 64 k]).dies }
    (∀ k < 4, ((at_ k { pstate := 3 }).die 0).func.runs 5 = true ∧ ((at_ k { pstate := 3 }).die 0).func.argN 0 % 4 = k ∧ (at_ k { pstate := 3 }).cmd = none) ∧
    (at_ 1 { pstate := 3, thermal := true }).thermal = true ∧ (at_ 0 { pstate := 3, thermal := true, hot := [2] }).hot ≠ [] ∧
    ¬ ((at_ 0 { pstate := 3, thermal := true }).thermal = true ∧ ((0 : Nat) = 1 ∨ (at_ 0 { pstate := 3, thermal := true }).hot ≠ [])) ∧
    (at_ 2 {}).pstate ≠ 3 ∧ (at_ 2 {}).teams = [] ∧ (at_ 2 {}).copies = [] ∧ (at_ 2 {}).netops = [] ∧ (at_ 2 {}).goal = none ∧ (∀ x ∈ (at_ 2 {}).dies, x.2.lines = []) ∧
    (at_ 3 { goal := some 3, teams := [(1, placedTeam)] }).goal = some 3 ∧ (at_ 3 { goal := some 3, teams := [(1, placedTeam)] }).drained (fun _ => true) = false := by
  decide +kernel

/-- An image of the host's bytes on a die without poison; the banks of each kind, whichever kind the image has. -/
theorem test_meets_HostCommands_image :
    let s := busyWith 8 [0x1000, 16]
    (∀ img, (s.banks.find (Config.imageKind img % 3)).isSome = true) ∧ s.quiet ∧ (s.die 0).poison = [] ∧ (s.die 0).retired = [] ∧ (s.die 0).func.runs 8 = true :=
  ⟨fun img => (by decide : ∀ k < 3, ((busyWith 8 [0x1000, 16]).banks.find k).isSome = true) _ (Nat.mod_lt _ (by decide)), fun _ h => (nomatch h), rfl, rfl, rfl⟩

theorem test_meets_MonelEvents :
    let s : State := { below := some 0, now := 1750000, dies := [(0, { change := some 0 }), (1, {}), (2, {}), (3, { capStep := 1 })] }
    (s.banks.find 0).isSome = true ∧ s.cap < s.cap + 1 ∧ (∃ x ∈ s.dies, x.2.capStep < 7) ∧ 95 * 2600 ≤ 100 * 2470 ∧ 100 * 2469 < 95 * 2600 ∧ s.cap = 2600 ∧
    s.below = some 0 ∧ 0 + 1750000 ≤ s.now ∧ ({ s with now := 1749999 } : State).now < 0 + 1750000 ∧ (∃ x ∈ s.dies, 0 < x.2.capStep) ∧
    (s.dies.find 0).isSome = true ∧ (s.die 0).change = some 0 ∧ 0 + 35000 ≤ s.now ∧ (s.die 0).step < 8 ∧ (s.die 0).capStep < 8 ∧ (3 : Nat) < 4 ∧
    0 * 2048 + 5 ∉ (s.die 0).retired := by
  decide +kernel

/-- A group with an uncorrectable error, a group and a way with three corrected ones; a retired group and a disabled way. -/
theorem test_meets_MonelEvents_due :
    let m := memStruct 0
    let s : State := { recent := [(m, 5, 0, 0), (m, 5, 0, 0), (m, 5, 0, 0), (65536, 7, 1, 0), (65536, 7, 1, 0), (65536, 7, 1, 0)], ways := [(65536, 8, 1)],
                       dies := [(0, { detected := [9], retired := [4] })] }
    9 ∈ (s.die 0).detected ∧ s.worn m 5 0 = true ∧ s.worn m 6 0 = false ∧ 5 ∉ (s.die 0).retired ∧ 4 ∈ (s.die 0).retired ∧
    65536 / 65536 ≤ 2 ∧ s.worn 65536 7 1 = true ∧ (65536, 7, 1) ∉ s.ways ∧ (65536, 8, 1) ∈ s.ways := by
  decide +kernel

/-- A kick at 2 ms, at 10 ms and outside; a tick, a window and an advertisement that are due; a team that may move. -/
theorem test_meets_FirmwareEvents :
    let D : Die := { fw := [(0, { kick := 100 }), (2, { restarting := true })] }
    let s (n : Nat) : State := { now := n, dies := [(0, D), (1, {}), (2, {}), (3, {})] }
    ((s 0).dies.find 0).isSome = true ∧ (D.fw.get 0 {}).restarting = false ∧ (D.fw.get 2 {}).restarting = true ∧ 100 + 3500000 ≤ (s 3500100).now ∧
    (s 17500100).now ≤ 100 + 17500000 ∧ (s 17500101).now > 100 + 17500000 ∧ (s 3500099).now < 100 + 3500000 ∧ (D.fw.get 2 {}).inbox.length < 64 ∧
    (s 175000).tickDue 0 = true ∧ (s 174999).tickDue 0 = false ∧ D.queues = [] ∧ (D.registered).length ≤ 128 ∧ (0 + 1) * 17500 ≤ (s 17500).now ∧
    (s 17499).now < (0 + 1) * 17500 ∧ (0 + 1) * 175000 ≤ (s 175000).now ∧ ({ D with queues := [(0x30000, {})] } : Die).queues = [(0x30000, {})] ∧ D.retired = [] ∧
    (let u : State := { teams := [(1, { placedTeam with migrate := true, phase := .away, die := 1, ready := some 0 })] }
     u.maySend 1 0 = true ∧ (u.teams.find 1).isSome = true ∧ u.maySend 1 1 = false) ∧ (s 0).updating = [] := by
  decide +kernel

/-- A queue state block at 0x30000 with one record at 0x32000, mapped; a bad record (no sub-launch) and one of a 2 x 1 x 1 grid. -/
def launchState (sub : Bool) : State :=
  let s := withWords [] ([(0x30000, 1), (0x30008, 0x32000), (0x30010, 1 + 4 * 2 ^ 48)] ++
    if sub then [(0x32000, 1), (0x32040, 2 ^ 32 + 2 ^ 24 + 2 ^ 16 + 2 ^ 8), (0x32048, 0x20000), (0x32068, 2 + 2 ^ 16 + 2 ^ 32)] else []) (tables {})
  cached [(0x30, 1), (0x32, 4)] { s with dies := s.dies.mod 0 fun D => { D with queues := [(0x30000, { mapped := true })] } }

/-- Its record as the part reads it. -/
def launchRecord (sub : Bool) : List Nat :=
  match (launchState sub).partRead (.start 0 0x30000) 0 (recordVas 0x32000) with | (some (some w), _) => w | _ => []

/-- A team that waits for its first placement, one that waits for a restore, one that has waited 50 us behind a busy die; teams that have ended well
and badly; their bundle. -/
theorem test_meets_TeamLife_teams :
    let q (s : State) : State := { s with partitions := [(0, { clusters := 1 })], dies := s.dies.mod 0 fun D => { D with queues := [(0, { mapped := true })] } }
    let W : Team := { part := 2 ^ 16 + 2 ^ 8 + 1, prio := 5, ready := some 0 }
    let p : State := q { teams := [(1, W)], now := 87500 }
    let r : State := q { teams := [(1, { W with phase := .away, ref := some 1 })] }
    let busy : State := q { now := 87500, teams := (1, W) :: (List.range 8).map fun i => (i + 2, { placedTeam with core := i, part := 2 ^ 16 + 14 * 2 ^ 8 + 96 }) }
    let e (life : Life) : State := { teams := [(1, { placedTeam with bundle := 4, warps := [(0, { life := life })] })], bundles := [(4, { subs := [{}] })] }
    p.mayPlace 1 0 = true ∧ (p.team 1).phase = .waiting ∧ (p.team 1).handler = false ∧ p.mayPlace 1 8 = false ∧ r.mayPlace 1 7 = true ∧ (r.team 1).phase = .away ∧
    (r.team 1).slots = [] ∧ (r.team 1).log = [] ∧ (r.team 1).saved = [] ∧ p.starved 1 = false ∧ busy.starved 1 = true ∧
    ((busy.die 0).fw.get 0 {}).restarting = false ∧ (∃ x ∈ busy.teams, x.2.phase = .resident ∧ x.2.leaving = false ∧ x.2.die = 0 ∧ x.2.prio < (busy.team 1).prio) ∧
    (busy.teams.map (·.1)).Nodup ∧ (e .ended).teamDone 1 = true ∧ (e .halted).teamDone 1 = true ∧ (e .running).teamDone 1 = false ∧
    ((e .ended).bundles.find 4).isSome = true ∧
    (let b : State := { bundles := [(4, {})] }
     b.bundleDone 4 = true ∧ b.bundles.find 4 = some {} ∧ qHead ((b.die 0).qsb 0) = 0 ∧ (b.dies.find 0).isSome = true) ∧ (e .running).bundleDone 4 = false := by
  decide +kernel

/-- A block that starts; a slot that takes a part or a fragment; one load that returns; a join that is due. -/
theorem test_meets_LaneEvents :
    let s (W : Warp) : State := warpAt W
    let e : Entry := .join 3 7 (~~~0) 1 none (some 0) 1
    ((s { queue := [{}] }).warp 1 0).life = .running ∧ ((s { queue := [{}] }).warp 1 0).started = false ∧ ((s {}).team 1).phase = .resident ∧
    ((s { queue := [{}], dead := ~~~0 }).warp 1 0).dead = ~~~0 ∧ takePart [Entry.part full, e] = some (full, [e]) ∧ takePart [e] = none ∧
    ({ s { started := true } with frags := [(9, { (default : Frag) with team := 1, state := .ready, mask := 1 })] } : State).readyFrag 1 0 = some 9 ∧
    (s { started := true }).readyFrag 1 0 = none ∧
    ((s (pathOf { full with board := [{ lane := 31, regs := [(255, 7)] }] } {})).warp 1 0).path false = some { full with board := [{ lane := 31, regs := [(255, 7)] }] } ∧
    (s { stack := [e] }).warpLive 1 0 = true ∧ 0 ≤ ((s {}).die 0).cycles ∧ ~~~(0 : Half) &&& ~~~(1 : Half) ≠ 0 ∧
    (match walk ((tables {}).die 0) 0 0x40000000 0 with | .error c => c == cABSENT | _ => false) = true ∧
    (match walk ((tables {}).die 0) 0 0x20000 0 with | .error _ => false | _ => true) = true := by
  decide +kernel

/-- A lane that has waited 5 us at cluster 0, with a handler's descriptor in memory and without a handler. -/
def gathering (vec : Word) : State :=
  let s := withWords [] [(0x21000, 0x20000), (0x21008, 0x20000), (0x21010, 7)] (tables (pathAt { mem := 0xFFFFFFFE } {}))
  { s with
      now := 8750, frags := [(9, { (default : Frag) with team := 1, entry := some 0, mask := 1 })]
      dies := s.dies.mod 0 fun D => { D with space := [(0, vec)] } }

/-- A block that ends midway through the scalar stream's instruction; a cold register line and a warm one. -/
theorem test_meets_LaneEvents_lines :
    let s (W : Warp) : State := warpAt W
    ((s { queue := [{}], dead := ~~~0 }).warp 1 0).midway = false ∧ 7 ∈ ((s { cold := [7] }).warp 1 0).cold ∧ 8 ∉ ((s { cold := [7] }).warp 1 0).cold := by
  decide +kernel

theorem test_meets_LaneEvents_handler :
    let s := gathering 0x21000
    s.dueSpaces 0 0 = [0] ∧ ((s.die 0).fw.get 1 {}).restarting = false ∧ (s.partRead (.gather 0 0 0) 0 [0x21000, 0x21008, 0x21010]).1 = some (some [0x20000, 0x20000, 7]) ∧
    (s.partRead (.gather 0 0 0) 0 [0x40000000, 0x40000008, 0x40000010]).1 = none ∧
    ((gathering 0xFFFFFFFFFFFFF000).partRead (.gather 0 0 0) 0 [0xFFFFFFFFFFFFF000, 0xFFFFFFFFFFFFF008, 0xFFFFFFFFFFFFF010]).1 = some none ∧
    ((gathering 0).die 0).space.get 0 1 = 0 ∧ (gathering 0).dueSpaces 0 0 = [0] ∧ ({ s with now := 8749 } : State).dueSpaces 0 0 = [] ∧
    (∀ f ∈ s.waitingFrags 0 0 0, ((s.team (s.frag f).team).warps.find (s.frag f).warp).isSome = true) := by
  decide +kernel

/-- A fill and a copy within the scratchpad with one chunk left, one that is done, one that waits for a page; slots free and full. -/
theorem test_meets_EngineEvents :
    let f : Copy := { kind := 4, state := .active, d0 := 5, d1 := 0, d2 := 4, d3 := 4, team := some 1, left := [(0, 1)] }
    let c : Copy := { kind := 0, state := .active, d0 := 0x100, d1 := 0, d2 := 4, d3 := 6, team := some 1, left := [(0, 1)] }
    let s (c : Copy) : State := { warpAt {} with copies := [(9, c)] }
    (s f).copyAt 0 0 = some (9, f) ∧ (s f).copyReady 9 f = true ∧ f.dstSp = true ∧ f.awe = false ∧ (f.piece 0).len ≠ 0 ∧ (f.piece 0).dst + (f.piece 0).len ≤ ((s f).team 1).spad ∧
    c.srcSp = true ∧ c.dstSp = true ∧ (c.piece 0).src + (c.piece 0).len ≤ ((s c).team 1).spad ∧ (s c).overlaps c true (c.piece 0).dst (c.piece 0).len = [] ∧ ((s c).die 0).rxNamed = [] ∧ ((s c).team 1).mOps = [] ∧
    (s { f with left := [] }).copyAt 0 0 = some (9, { f with left := [] }) ∧ (s { f with absent := some 3 }).copyReady 9 { f with absent := some 3 } = false ∧
    (s f).copyAt 0 1 = none ∧ ((s f).dies.find 0).isSome = true ∧ ({ slotQ := [7] } : Die).slotQ = [7] ∧ 256 ≤ (List.range 256).length := by
  decide +kernel

/-- A phaser's root entry at die 0's node, an entry below it, a node without it, a trip under way. -/
theorem test_meets_GauzeEvents :
    let P : Phaser := { phaser0 0 with expected := 2, open_ := { count := 1 } }
    let N (P : Phaser) : State := { phaserAt P {} with nodes := [(0, { entries := [(5, P)], serials := [(5, 0)] }), (4, {})] }
    let m : GauzeMsg := { msgOf P.handle 0 with count := 1 }
    msgHandle m = P.handle ∧ (({} : State).node 0).look (msgHandle m) = none ∧ ((N P).node 0).look (msgHandle m) = some (5, P) ∧ ((N P).node 0).entries.find 5 = some P ∧
    ((N P).node 0).up = true ∧ P.root = true ∧ hKind P.handle = 0 ∧ m.phase = P.phase ∧ P.open_.count + m.count = P.expected ∧ P.next.count = 0 ∧ P.open_.nan = false ∧
    P.open_.count + 0 ≠ P.expected ∧ (2 : Half) ≠ P.phase + 1 ∧ ((P.expected : Int) + P.delta + 16777213 ≤ 16777215) ∧ ((P.expected : Int) + P.delta + 16777214 > 16777215) ∧
    finderPkg m.ident = (N P).pkg ∧ P.home = true ∧ ((N P).node 0).serials.find 5 = some 0 ∧ (N P).trips = [] ∧
    (let t : Trip := { team := 1, warp := 0, type := 5, param := 1 }
     let s : State := { warpAt { wait := .tree } with trips := [t] }
     s.warpLive 1 0 = true ∧ (s.warp 1 0).wait = .tree ∧ bits t.param.toNat 2 0 ≤ 2 ∧ t.pkgs = [] ∧ s.createFlaw [0] false = none ∧
     (({ s with nodes := [(0, { up := false })] } : State).createFlaw [0] false).isSome = true) ∧
    (let Q : Phaser := { phaser0 2 with timeout := 1, open_ := { count := 1 } }
     Q.expiry = some 1750 ∧ Q.next.count = 0) ∧ P.expiry = none ∧ (({} : State).nodes.find 4).isSome = true := by
  decide +kernel

/-- A message that a port has brought to the package's node, entries below a root there and at a die, and a port that is lost. -/
theorem test_meets_GauzeEvents_below :
    let P : Phaser := { phaser0 0 with root := false }
    let Q : Phaser := { phaser0 1 with root := false }
    let N (P : Phaser) : State := { phaserAt P {} with nodes := [(0, { entries := [(5, P)] }), (4, { entries := [(5, { P with pod := true })] })], gports := [3] }
    let m : GauzeMsg := { msgOf P.handle 0 with count := 1, port := 5 }
    4 ≤ m.port ∧ m.port < 8 ∧ m.sent = 0 ∧ (({} : State).node 4).look (msgHandle m) = none ∧ ((N P).node 0).look P.handle = some (5, P) ∧ P.root = false ∧
    hKind P.handle = 0 ∧ P.completed = none ∧ P.acc = [] ∧ hKind Q.handle = 1 ∧ ((N Q).node 0).look Q.handle = some (5, Q) ∧ Q.seen = none ∧
    ((N P).node 4).look P.handle = some (5, { P with pod := true }) ∧ ((N P).node 4).up = true ∧
    ((N { P with completed := some 0 }).node 0).look P.handle = some (5, { P with completed := some 0 }) ∧ m.phase = 0 ∧
    3 ∈ (N P).gports ∧ 0 ∉ (N P).gports ∧ (N P).trips = [] ∧
    (let t : Trip := { team := 1, warp := 0, type := 3, handle := P.handle }
     t.type = 3 ∧ t.handle = msgHandle m ∧ m.value = 0) := by
  decide +kernel

/-- Export 0 of die 1: the page at 0x20000 of address space 0, read, write and atomic; packets to it from die 0. -/
def exporter : State :=
  { dies := [(0, {}), (1, { (({} : Die).placed []) with
      mem := wrBytes (({} : Die).placed []).mem 0x16000 (bytesLE 16 (0x20000 + 15 + 255 * 2 ^ 64))
      func := { base := [(0x10000, placeAst), (0x10008, 4096), (0x12000, 0x16000), (0x12008, 1)] } }), (2, {}), (3, {})] }
def toDie1 (ty : TwillType) (off : Nat) (data : List Byte) : TwillPacket := { dsock := 1, type := ty, offset := off, len := 8, data := data }

theorem test_meets_TwillEvents :
    let s := exporter
    let p := toDie1 .write 248 (List.replicate 8 7)
    let e := (0x20000 + 15 + 255 * 2 ^ 64 : Nat)
    p.dpkg = s.pkg ∧ (s.die 1).up = true ∧ p.crypt ≠ 3 ∧ p.spkg = s.pkg ∧ (s.die 1).waiting = [] ∧ (s.hop 1 0).isSome = true ∧ s.netqs = [] ∧ p.authentic = true ∧ s.ordWaits p = false ∧
    s.ordWaits { p with ord := true, ordseq := 1 } = true ∧ (s.die 1).export_ 0 = some e ∧ (s.die 1).export_ 1 = none ∧ exportFlaw (some e) p 8 = none ∧
    exportFlaw (some e) { p with offset := 249 } 8 = some 5 ∧ bits e 63 52 = 0 ∧ bits e 51 12 = 0x20 ∧ (∀ x ∈ s.teams, x.2.mOps = []) ∧
    cutLines 0x200F8 8 = [(0x200F8, 8)] ∧ (s.dies.find 1).isSome = true ∧
    (match s.checkNow 4096 0x200F8 1 .write with
     | (.local _ pa, s1) => pa == 0x200F8 && (s1.die 1).uses.isEmpty && !(s1.die 1).poisoned pa && (s1.die 1).queues.isEmpty | _ => false) = true ∧
    p.data.length = 8 ∧ s.asked { p with type := .ack } = none ∧
    (let r : Req := { src := 0, owner := .scalar 1 0, sent := true, packet := toDie1 .read 0 [] }
     let u : State := { warpAt { wait := .remote 5 } with reqs := [(5, r)] }
     let a : TwillPacket := { dsock := 0, ssock := 1, type := .data, data := List.replicate 8 1 }
     u.asked a = some (5, r) ∧ u.warpLive 1 0 = true ∧ (u.warp 1 0).wait = .remote 5 ∧ (u.teams.find 1).isSome = true) ∧
    s.linkUp 0 1 = true ∧ (3 : Nat) ∉ s.ports ∧ s.routeLost 0 = false ∧
    (let r : Req := { src := 0, owner := .scalar 1 0, packet := toDie1 .read 0 [], noRoute := some 0 }
     let u : State := { warpAt { wait := .remote 5 } with reqs := [(5, r)], now := 17500000000 }
     u.routeLost 5 = true) := by
  decide +kernel

/-- Retries of a Twill port, a Gauze port and a link: the first, and the sixteenth in a row. -/
theorem test_meets_TwillEvents_retries :
    let s : State := { retries := [(0, 15), (32, 15), (65, 15)] }
    s.retries.get 1 0 < 15 ∧ 15 ≤ s.retries.get 0 0 ∧ 0 ∉ s.ports ∧ 15 ≤ s.retries.get 32 0 ∧ 32 - 32 ∉ s.gports ∧ 15 ≤ s.retries.get 65 0 ∧
    s.linkUp ((65 - 64) / 8) ((65 - 64) % 8) = true := by
  decide +kernel

/-- Key 4 of die 0 opens 4,096 bytes at 0x20000 of address space 0; packets of port group 0; an operation of two packets at its sender. -/
def keyed : State :=
  let s := tables {}
  { s with dies := s.dies.mod 0 fun D => { D with keys := [(4, { v := true, r := true, w := true, atom := true, base := 0x20000, len := 4096 })] } }

theorem test_meets_CalicoEvents :
    let p : CalicoPacket := { key := 4, opid := 9, mlen := 4096, poff := 4088, payload := List.replicate 8 1 }
    let o : NetOp := { kind := 0, started := true, opid := 9, d0 := 0x20000, d2 := 8192 }
    let u : State := { keyed with netops := [(7, { o with sent := [(0, 1)], due := [(0, 0)], pkts := [(0, p)] })] }
    (keyed.groups.find 0).isSome = true ∧ (keyed.groups.find 1).isSome = true ∧ p.sound = true ∧ (keyed.group 0).atoms = [] ∧
    keyFlaw (keyed.die 0) 1 p = none ∧ keyFlaw (keyed.die 0) 1 { p with poff := 4089 } = some 5 ∧ keyFlaw (keyed.die 0) 1 { p with key := 5 } = some 1 ∧
    keyFlaw (keyed.die 0) 2 p = none ∧ calicoLen 2 p = 8 ∧ keyFlaw (keyed.die 0) 4 p = none ∧ p.payload ≠ [] ∧
    cutLines (0x20000 + 4088) 8 = [(0x20000 + 4088, 8)] ∧ p.payload.length < p.mlen ∧ (keyed.group 0).msgs = [] ∧ (∀ x ∈ keyed.teams, x.2.mOps = []) ∧
    (match keyed.checkNow 0 (0x20000 + 4088) 1 .write with
     | (.local _ pa, s1) => pa == 0x20000 + 4088 && (s1.die 0).uses.isEmpty && (s1.recordAt 0 (0x20000 + 4088) 8).isNone && !(s1.die 0).poisoned pa && (s1.die 0).queues.isEmpty | _ => false) = true ∧
    keyed.opOf 0 9 = none ∧ (u.opOf 0 9).map (·.1) = some 7 ∧ o.packets = 2 ∧ p.poff / 4096 < o.packets ∧ p.poff / 4096 ∉ o.acked ∧
    (setIns (p.poff / 4096) o.acked).length < o.packets ∧ (setIns 1 [0]).length = o.packets ∧ (0 : Nat) < Map.get ([(0, 1)] : Map Nat) 0 0 ∧ 0 ≤ u.now ∧
    keyed.calicoFrame 0 (List.replicate 64 0) = none ∧ keyed.filterFor 0 (List.replicate 64 0) = none ∧ (keyed.group 0).frames = [] := by
  decide +kernel

/-! ### The machine as a whole -/

/-- Code at 0x20000: an 8-byte instruction of the scalar stream and a lane word, placed as a launch leaves them; an event and a passing of time. -/
theorem test_meets_StepRunsInstruction :
    let s := (State.reset).withFetchWord 64 (0xE0700000 + 0x80000001 * 2 ^ 32)
    let s0 : State := { State.served { s with inputs := [] } (.warp 1 0) with cur := .warp 1 0, ilen := 4 }
    let l := (State.reset).withFetchWord 96 (0x5C000000 * 2 ^ 64)
    let l0 : State := { State.served { l with inputs := [] } (.path 1 0 false) with cur := .path 1 0 false, ilen := 4 }
    s.inputs = [.stream (.warp 1 0)] ∧ (Stream.warp 1 0).ids.isSome = true ∧ s0.me = 1 ∧ isWindow 0x20000 = false ∧ (s0.team 1).old = [] ∧
    s0.heldFetch 1 0x20000 = none ∧ s0.leads (.warp 1 0) = none ∧
    (State.leads { s0 with teams := s0.teams.mod 1 fun T => { T with shadow := true } } (.warp 1 0)) = some (1, 0) ∧
    (match s0.translate 0 0x20000 with | (.ok x, s1) => x.page.x && tailOk x 0x20000 && !(s1.die 0).poisoned (x.pa 0x20000) | _ => false) = true ∧
    (match s0.fetchWord 1 s0.pc.toNat with
     | (.words [a], s1) => scalarWords a == 2 && (match s1.fetchWord 1 (s0.pc.toNat + 4) with
       | (.words [b], _) => (match decodeScalar a b with | .ok i => i == .li 7 0x80000001 | _ => false) | _ => false)
     | _ => false) = true ∧
    l.inputs = [.stream (.path 1 0 false)] ∧
    (match l0.fetchWord 1 0x20000 with
     | (.words [a], s1) => (match s1.fetchWord 1 0x20004 with
       | (.words [b], s2) => (match s2.fetchWord 1 0x20008 with
         | (.words [c], _) => (match decodeLane a b c with | .ok i => i == .lnop default | _ => false) | _ => false) | _ => false)
     | _ => false) = true := by
  decide +kernel

theorem test_meets_RoundTrip :
    (Instr.add 63 63 63).coded = true ∧ (Instr.add 63 63 63).wf = true ∧ decodeWords [0x03FFFF00] = .ok (.add 63 63 63) ∧
    (∀ a b : Half, [(0x03FFFF00 : Half)] ≠ [a, b]) ∧ scalarWords 0xE0700000 = 2 :=
  ⟨rfl, by decide, rfl, fun _ _ h => by simp at h, by decide⟩

theorem test_meets_NoTurnStops :
    (Turn.stream (.warp 1 0)).sound (warpAt {}) = true ∧ (Turn.event .coldReset).sound {} = true ∧ (Turn.elapse 5).sound {} = true ∧
    ({ inputs := [.elapse 5] } : State).inputs = .elapse 5 :: [] := by
  decide +kernel

theorem test_meets_CanonicalKept : State.reset.canonical ∧ ∃ t, step { State.reset with inputs := [.elapse 5] } = .next t :=
  ⟨canonical_reset, _, rfl⟩

/-! ### Results of single instructions, worked out in the spec's examples or by hand from its rules -/

/-- The register `r` of warp 0 after an instruction of its scalar stream; the word of register `r`, lane `l`, after one of its lane block. -/
def sOut (i : Instr) (regs : List (Nat × Word)) (r : Reg) : Option Word :=
  match exec i (warpAt { s := regs }) with
  | .next t => some (t.reg r)
  | _ => none
def vOut (i : Instr) (P : Path) (W : Warp) (g : Warp → Nat) : Option Nat :=
  match exec i (pathAt P W) with
  | .next t => some (g (t.warp 1 0))
  | _ => none
def vReg (r l : Nat) (W : Warp) : Nat := (W.vw r l).toNat

/-- R85's example: DIVS of −7 by 2 gives −3 and REMS −1; DIVU of 5 by 0 gives all ones. -/
theorem test_divide : sOut (.divs 3 1 2) [(1, -7), (2, 2)] 3 = some (-3) ∧ sOut (.rems 3 1 2) [(1, -7), (2, 2)] 3 = some (-1) ∧
    sOut (.divu 3 1 2) [(1, 5)] 3 = some (-1) ∧ sOut (.divs 3 1 2) [(1, 0x8000000000000000), (2, -1)] 3 = some 0x8000000000000000 := by decide +kernel
/-- R86's example. -/
theorem test_bfx : sOut (.bfx 8 9 10) [(9, 0xABCD00), (10, 0x0808)] 8 = some 0xCD := by decide +kernel
/-- R87's example: SLTUI with −1 is 1 for every value but all ones. -/
theorem test_sltui : sOut (.sltui 3 1 0x3FFF) [(1, 7)] 3 = some 1 ∧ sOut (.sltui 3 1 0x3FFF) [(1, -1)] 3 = some 0 := by decide +kernel
/-- R88's example: LI then LIH. -/
theorem test_li_lih : sOut (.li 9 0xDEADBEEF) [] 9 = some 0xFFFFFFFFDEADBEEF ∧
    sOut (.lih 9 0) [(9, 0xFFFFFFFFDEADBEEF)] 9 = some 0xDEADBEEF := by decide +kernel
/-- R89's example: JAL at 0x2_0100 links 0x2_0104 and goes to 0x2_0140; a write to s0 is discarded. -/
theorem test_jal : (match exec (.jal 16) (warpAt { spc := 0x20100 }) with
    | .next t => (t.reg 31, (t.warp 1 0).spc) == (0x20104, 0x20140) | _ => false) = true ∧ sOut (.addi 0 0 5) [] 0 = some 0 := by decide +kernel

/-- R117's example: packed saturating addition, and the same without saturation. -/
theorem test_vadd_packed :
    vOut (.vadd { w0 with vd := 1, va := 2, vb := 3, ty := 8, sat := true }) full ({ v := [lane 2 5 0x7FF00005, lane 3 5 0x0020FFFE] } : Warp) (vReg 1 5) = some 0x7FFF0003 ∧
    vOut (.vadd { w0 with vd := 1, va := 2, vb := 3, ty := 8 }) full ({ v := [lane 2 5 0x7FF00005, lane 3 5 0x0020FFFE] } : Warp) (vReg 1 5) = some 0x80100003 := by
  decide +kernel
/-- R121's example: VMOV.F64 of 0.75 writes the high half in v9. -/
theorem test_vmov_literal :
    vOut (.vmov { w0 with vd := 8, ty := 5, sub := 1, imm := 0x3F400000 }) full {} (vReg 9 3) = some 0x3FE80000 ∧
    vOut (.vmov { w0 with vd := 8, ty := 5, sub := 1, imm := 0x3F400000 }) full {} (vReg 8 3) = some 0 := by decide +kernel
/-- R124's example: 1 + 1.5·2^−24 under RTZ and under RNE. -/
theorem test_vfma_rounds :
    vOut (.vfma { w0 with vd := 10, va := 4, vb := 5, vc := 6, ty := 4, md := 1 }) full ({ v := [lane 4 0 0x3FC00000, lane 5 0 0x33800000, lane 6 0 0x3F800000] } : Warp) (vReg 10 0) = some 0x3F800000 ∧
    vOut (.vfma { w0 with vd := 10, va := 4, vb := 5, vc := 6, ty := 4 }) full ({ v := [lane 4 0 0x3FC00000, lane 5 0 0x33800000, lane 6 0 0x3F800000] } : Warp) (vReg 10 0) = some 0x3F800001 := by
  decide +kernel
/-- The estimate of R126's example: VFRCP of 3.0. -/
theorem test_vfrcp : vOut (.vfrcp { w0 with vd := 1, va := 2, ty := 4 }) full ({ v := [lane 2 0 0x40400000] } : Warp) (vReg 1 0) = some 0x3EAAB000 := by decide +kernel
/-- R128's example: −3.75 to −3, 3.0e9 to the greatest integer, NaN to 0. -/
theorem test_vcvt :
    vOut (.vcvt { w0 with vd := 2, va := 3, md := 1, sub := 4 }) full ({ v := [lane 3 0 0xC0700000, lane 3 1 0x4F32D05E, lane 3 2 0x7FC00000] } : Warp)
      (fun W => vReg 2 0 W + 2 ^ 32 * vReg 2 1 W + 2 ^ 64 * vReg 2 2 W) = some (0xFFFFFFFD + 2 ^ 32 * 0x7FFFFFFF) := by decide +kernel
/-- R130's example: lanes 0 and 1 of a block of four under BI8 with blocks of 16. -/
theorem test_vqnt :
    let W : Warp := { v := [lane 4 0 0x40400000, lane 4 1 0x3F800000, lane 5 0 0xBF000000, lane 5 1 0xBF800000, lane 6 0 0x3C800000, lane 6 1 0x3D000000,
      lane 7 0 0x3D400000, lane 7 1 0xBDA00000] }
    vOut (.vqnt { w0 with vd := 10, va := 4, ty := 4 }) full W (vReg 10 0) = some 0x0200F060 ∧
    vOut (.vqnt { w0 with vd := 10, va := 4, ty := 4 }) full W (fun W => vReg 10 1 W + 2 ^ 32 * vReg 11 3 W) = some (0xFE01E020 + 2 ^ 32 * 0x80) := by decide +kernel
/-- R131 on that block: lane 0 receives 3.0, −0.5, 0 and 0.0625. -/
theorem test_vdqnt :
    let W : Warp := { v := [lane 10 0 0x0200F060, lane 11 0 0x80] }
    vOut (.vdqnt { w0 with vd := 20, va := 10, vb := 11, ty := 4 }) full W (fun W => vReg 20 0 W + 2 ^ 32 * vReg 21 0 W) = some (0x40400000 + 2 ^ 32 * 0xBF000000) ∧
    vOut (.vdqnt { w0 with vd := 20, va := 10, vb := 11, ty := 4 }) full W (fun W => vReg 22 0 W + 2 ^ 32 * vReg 23 0 W) = some (2 ^ 32 * 0x3D800000) := by decide +kernel
/-- R169's example: the tree adds 1, 2^24, 1 and −2^24 to 1.0; the scan has 2^24 in lane 2 and 1.0 in lane 3. -/
theorem test_reduce_and_scan :
    let W : Warp := { v := [lane 2 0 0x3F800000, lane 2 1 0x4B800000, lane 2 2 0x3F800000, lane 2 3 0xCB800000] }
    vOut (.vreduce { w0 with va := 2, ty := 4, sub := 8 }) full W (fun W => ((W.queue.head?.map fun (b : Block) => b.snap.get 40 0).getD 0).toNat) = some 0x3F800000 ∧
    vOut (.vscan { w0 with vd := 3, va := 2, ty := 4 }) full W (fun W => vReg 3 2 W + 2 ^ 32 * vReg 3 3 W) = some (0x4B800000 + 2 ^ 32 * 0x3F800000) := by decide +kernel

/-- The example of FIPS 180-4 for SHA-384 (R459): the digest of "abc", read big-endian. -/
theorem test_sha384 : (sha384 [0x61, 0x62, 0x63]).foldl (fun x b => x * 256 + b.toNat) 0 =
    0xcb00753f45a35e8bb5a03d699ac65007272c32ab0eded1631a8b605a43ff5bed8086072ba1e7cc2358baeca134c825a7 := by
  decide +kernel

/-! ### Witnesses of the accesses that the part makes, of peer windows and of handlers -/

/-- Die `d` maps the first GiB of address space 0 as an alias page, each byte at its own address. -/
def aliasDie (d : Nat) (s : State) : State :=
  { s with dies := s.dies.mod d fun D => let D := D.placed []
    { D with mem := wrBytes D.mem placeLow (bytesLE 8 (2 ^ 48 + 2 ^ 12 + 2 ^ 11 + 2 ^ 8 + 2 ^ 7 + 3)) } }

/-- Where the part's access of an alias page acts. -/
def partAt (s : State) (sp va n : Nat) (k : Acc) : Bool :=
  match s.checkNow sp va 1 k with
  | (.local page pa, s1) =>
    (page.a && !(s1.die (sp / 4096)).aliased sp va page pa) && (!(s1.die (sp / 4096)).poisoned pa && !s1.releasedSlot sp va) && (s1.recordAt sp va n).isNone &&
      (decide ((s1.die (sp / 4096)).func.base.get 0x11000 0 = 0) && decide ((s1.die (sp / 4096)).queues = []))
  | _ => false

theorem partReaches_of {s : State} {sp va n : Nat} {k : Acc} (hq : s.teams.all (fun y => y.2.mOps.isEmpty) = true) (h : partAt s sp va n k = true) :
    ∃ page pa s1, PartReaches s sp va n k page pa s1 := by
  unfold partAt at h
  split at h
  · next page pa s1 hc =>
    simp only [Bool.and_eq_true, Bool.not_eq_true', decide_eq_true_eq] at h
    obtain ⟨⟨⟨⟨h1, h2⟩, h3, h4⟩, h5⟩, h6, h7⟩ := h
    refine ⟨page, pa, s1, fun y hy => by simpa using (List.all_eq_true.mp hq) y hy, hc, h1, h2, h3, h4, by simpa using h5, fun q hq' => ?_, .inl h6⟩
    rw [h7] at hq'
    exact absurd hq' (by simp)
  · exact absurd h (by simp)

/-- Import entry 0 of die 0 names export 0 of die 1, readable, writable and atomic; entry 1, one of package 5. -/
def importer (s : State) : State :=
  withWords [(0x13000, 0x14000), (0x13008, 4096)] [(0x14000, 2 ^ 63 + 2 ^ 40 + 0x16000), (0x16000, 15 + 2 ^ 50), (0x16008, 0xFFFFFFFF),
    (0x16010, 15 + 2 ^ 4 + 5 * 2 ^ 52), (0x16018, 0xFFFFFFFF)] s

/-- Addresses in the peer windows of those entries. -/
def window (i off : Nat) : Nat := 15 * 2 ^ 48 + i * 2 ^ 32 + off

theorem test_meets_ScalarStores_peer :
    let s := importer (warpAt { s := [(2, BitVec.ofNat 64 (window 0 0x40)), (3, 7)] })
    s.onWarp 1 0 ∧ s.quiet ∧ (match s.check s.view (window 0 0x40) 8 .write with | (.remote e, _) => e / 2 ^ 50 % 4 == 1 | _ => false) = true ∧
    (BitVec.ofInt 64 ((s.reg 2).toNat + (0 : BitVec 12).toInt)).toNat = window 0 0x40 :=
  ⟨⟨rfl, by decide +kernel, rfl⟩, fun x h => by simp [importer, withWords, warpAt, placedTeam] at h; subst h; rfl, by decide +kernel, by decide +kernel⟩

/-- A sequencer, and a path of an address space with and without a handler, with lanes in its mask and with none. -/
theorem test_meets_TrapsAndFetchFaults_streams :
    (seqAt placedTeam).onSeq 1 ∧ (seqAt placedTeam).trapvec 1 = 0 ∧ lanes.onPath 1 0 false ∧ (lanes.team 1).handler = false ∧ (lanes.warp 1 0).stack = [] ∧
    lanes.freeFrags (lanes.team 1).die (lanes.team 1).core ≠ [] ∧ (lanes.path 1 0 false).mem ≠ 0 ∧ (lanes.path 1 0 false).m0 ≠ 0 ∧ lanes.trapvec 1 = 0 ∧
    (State.trapvec { lanes with dies := lanes.dies.mod 0 fun D => { D with space := [(0, 0x1000)] } } 1) ≠ 0 ∧
    (pathAt { mem := ~~~0 } {}).onPath 1 0 false ∧ ((pathAt { mem := ~~~0 } {}).path 1 0 false).m0 = 0 ∧ (pathAt { mem := ~~~0 } {}).goesOn 1 0 false :=
  ⟨⟨rfl, by decide, rfl, rfl⟩, rfl, onPath_lanes.1, rfl, rfl, by decide +kernel, by decide, by decide, by decide +kernel, by decide +kernel,
    ⟨rfl, by decide, by decide, rfl⟩, rfl, goes (by decide)⟩

/-- Address space 0 and its frames belong to partition 3, the issuing team to partition 0; a team of partition 3; a cluster that is not the issuer's. -/
theorem test_meets_PrivilegedInstructions_foreign :
    let s : State := { tables (warpAt {}) with partitions := [(3, { clusters := 1, first := 0, cnt := 9 })], teams := [(1, { placedTeam with warps := [(0, {})] }), (2, { placedTeam with ref := some 5, partition := 3 })] }
    (∃ p, s.partitionOf (s.team 1).die 0 = some p ∧ p.1 ≠ (s.team 1).partition) ∧ s.frameForeign 0 (s.team 1).partition 0 = true ∧
    s.frameForeign 0 3 0 = false ∧ (2 ^ 29 : Nat) / 2 ^ 26 % 64 / 8 ≠ (s.team 1).core / 8 ∧
    (s.teams.find? fun (_, U) => U.origin == (s.team 1).die && U.ref == some (5 % 2 ^ 32)) = some (2, s.team 2) ∧ (s.team 2).partition ≠ (s.team 1).partition :=
  ⟨⟨(3, { clusters := 1, first := 0, cnt := 9 }), by decide +kernel⟩, by decide +kernel⟩

/-- A MACC whose second window lies in another die, before and after its data has come; one from the scratchpad, with and without poison; an MDRAIN to
the scratchpad and one to an alias page. -/
theorem test_meets_MatrixEngine_moves :
    let far : Range := { start := 0x40, len := 256, peer := some (15 + 2 ^ 50) }
    let near (n : Nat) : Range := { sp := true, start := n, len := 256 }
    let T (o : MOp) : Team := { placedTeam with mq := [o] }
    let s (o : MOp) : State := seqAt (T o)
    let macc (win : List Range) (got : List (Nat × Option Nat)) (started : Bool) : MOp := { op := .macc false 1 2 false 0, win := win, got := got, started := started }
    let drain : MOp := { op := .mdrain false true 0 0 1 2 0 0, started := true, win := [{ near 0 with wr := true }] }
    ((s (macc [near 0, far] [] false)).team 1).mFlaw (macc [near 0, far] [] false) = none ∧
    (s (macc [near 0, far] [] false)).canStart ((s (macc [near 0, far] [] false)).team 1) = true ∧ (s (macc [near 0, far] [] false)).startNext 0 0 = some 1 ∧
    ((macc [near 0, far] [] true).win.getD 1 {}).peer.isSome = true ∧ (∀ x ∈ (macc [near 0, far] [] true).got, x.1 ≠ 1) ∧
    (∃ x ∈ (macc [near 0, far] [(1, some 5)] true).got, x.1 = 1) ∧
    ((s (macc [near 0] [] true)).mReadAll 1 (macc [near 0] [] true) [(0, near 0)]).1.isSome = true ∧
    (State.mReadAll { s (macc [near 0] [] true) with teams := [(1, { T (macc [near 0] [] true) with spBad := [0] })] } 1 (macc [near 0] [] true) [(0, near 0)]).1 = none ∧
    ((s (macc [near 0] [] true)).team 1).spPoison 0 256 = false ∧ ((s (macc [near 0] [] true)).team 1).spOld = [] ∧
    (∀ x ∈ drain.win, x.sp = true ∧ x.peer = none) ∧ drain.raced = [] ∧ ((s drain).team 1).phase = .resident ∧
    (let o : MOp := { drain with win := [{ start := 0x30000, len := 256, wr := true, alias_ := true }] }
     (∀ x ∈ o.win, x.sp = false ∧ x.peer = none ∧ x.alias_ = true) ∧ (∀ x ∈ (s o).teams, x.1 ≠ 1 → x.2.mOps = []) ∧ (s o).netqs = [] ∧ ((s o).dies.find 0).isSome = true ∧
     ((s o).die 0).retired = [] ∧ ((s o).die 0).queues = [] ∧ ((s o).die 0).func.base.get 0x11000 0 = 0) := by
  decide +kernel

/-- The rows of an MDRAIN to global memory: asked, answered, and one that may not be written. -/
theorem test_meets_MatrixIssue_drain :
    let rows := (drainRows 0 0 0x20000 256).flatMap fun (x, n) => cutLines x n
    let g (asks : List Ask) : State := tables (seqAt { placedTeam with seq := { asks := asks } })
    let as := (List.range 4).map fun i => answer (0x20 + i) true
    (g []).ready [1, 2] ∧ ((g []).team 1).mOps.length < 2 ∧ ((g []).globalRanges .write rows).1.2.1 ≠ [] ∧
    ((g as).globalRanges .write rows).1.2.1 = [] ∧ ((g as).globalRanges .write rows).1.2.2 = none ∧
    ((g [{ answer 0x20 true with answer := some 0x202 }]).globalRanges .write [(0x20000, 128)]).1.2.2 = some (0x202, 0x20000) :=
  ⟨⟨by decide +kernel, by decide +kernel, by decide +kernel⟩, by decide +kernel, by decide +kernel, by decide +kernel, by decide +kernel, by decide +kernel⟩

/-- Lane 0 inside the scratchpad, lane 1 beyond it, the others misaligned. -/
theorem test_meets_LaneScratchpad_mixed :
    let s : State := pathAt full { v := (List.range 32).map fun l => lane 5 l (if l = 0 then 64 else if l = 1 then 16384 else 3) }
    let f : LaneWord := { w0 with va := 5, sub := 4 }
    let good (l : Nat) : Bool := ((s.warp 1 0).vw 5 l + f.imm).toNat % 4 == 0 && decide (((s.warp 1 0).vw 5 l + f.imm).toNat + 4 ≤ (s.team 1).spad)
    s.onPath 1 0 false ∧ s.goesOn 1 0 false ∧ (s.acting 1 0 false f).filter good = [0] ∧ (s.team 1).mOps = [] ∧ ¬ releaseWaits s 1 0 false f :=
  ⟨⟨rfl, by decide +kernel, by decide, rfl⟩, goes (by decide), by decide +kernel, rfl, fun h => nomatch h.1⟩

/-- A handler lane whose fragment has rejoined warp 0 of team 2. -/
theorem test_meets_HandlerInstructions_rejoined :
    let s : State := { handling 0 with frags := [], teams := [(1, { placedTeam with handler := true, warps := [(0, pathOf { m0 := 1, mem := ~~~0 } { origins := [{ frag := 9, lane := 31, team := 2, ref := 6 }] })] }), (2, { placedTeam with warps := [(0, {})] })] }
    s.onPath 1 0 false ∧ s.goesOn 1 0 false ∧ (s.team 1).handler = true ∧ s.acting 1 0 false w0 = [0] ∧
    (s.warp 1 0).origins[0]? = some { frag := 9, lane := 31, team := 2, ref := 6 } ∧ s.frags.find 9 = none ∧ (2 : Nat) ≠ 1 ∧ (s.teams.find 2).isSome = true ∧
    (s.warp 2 0).badV = [] :=
  ⟨⟨rfl, by decide, by decide, rfl⟩, goes (by decide), rfl, by decide, rfl, rfl, by decide, by decide, rfl⟩

/-- The link up and down, a requester before and after VERSION. -/
theorem test_meets_HostAccesses_link :
    let s : State := {}
    s.link = true ∧ ({ s with link := false } : State).link = false ∧ s.spdm = 0 ∧ ({ s with spdm := 3 } : State).spdm = 3 ∧
    ({ s with teams := [(1, { placedTeam with phase := .away })] } : State).teams ≠ [] := by
  decide +kernel

/-- Die 0 has a registered queue at 0x30000, mapped. -/
def queueDie : Die := ((withWords [(0x11000, 0x18000), (0x11008, 4)] [(0x18000, 0x30001), (0x30008, 0x32000), (0x30010, 1 + 4 * 2 ^ 48)]
  { dies := [(0, { queues := [(0x30000, { mapped := true, bytes := 99 })] })] }).die 0)

theorem test_meets_FirmwareEvents_queue :
    queueDie.registered.map (·.1) = [0x30000] ∧ queueDie.queues = [(0x30000, { mapped := true, bytes := 99 })] ∧ Map.Sorted queueDie.queues = true ∧
    queueDie.retired = [] ∧ qWork (queueDie.qsb 0x30000) = false ∧ (∀ x ∈ queueDie.registered, x.1 ≠ 0x40000) := by
  decide +kernel

/-- Handler warps whose origins are decided, and undecided. -/
theorem test_meets_TeamLife_return :
    let s (o : Origin) : State := { handling 0x80000000 with cur := .warp 1 0, teams := [(1, { placedTeam with handler := true, warps := [(0, { origins := [o] })] }), (2, { placedTeam with warps := [(0, {})] })] }
    let o : Origin := { frag := 9, lane := 31 }
    (s o).onWarp 1 0 ∧ ((s o).warp 1 0).queue = [] ∧ (o.settled = false ∧ (s o).fragLive 9 = true) ∧ ((((s o).team 2).warps.find 0).isSome = true) ∧
    (((s o).frag 9).mask.getLsbD 31 = true) ∧ ((s o).frag 9).decided = [] ∧
    (∀ q ∈ ((s { o with settled := true }).warp 1 0).origins, ¬ (q.settled = false ∧ (s o).fragLive q.frag = true)) :=
  ⟨⟨rfl, by decide, rfl⟩, rfl, ⟨rfl, by decide +kernel⟩, by decide, by decide, rfl, by decide +kernel⟩

/-- Copies whose last chunk goes to an alias page, comes from one, goes to a peer, and comes from one; a CPYR to entry 0 and to entry 1. -/
def moving (c : Copy) : State := { importer (aliasDie 0 (warpAt {})) with copies := [(9, { c with state := .active, team := some 1, left := [(0, 1)] })] }

theorem test_meets_EngineEvents_chunks :
    let c : Copy := { kind := 0, d0 := 0x30000, d1 := 0x31000, d2 := 4, state := .active, team := some 1, left := [(0, 1)] }
    let w : Word := BitVec.ofNat 64 (window 0 0x40)
    let r : Copy := { c with kind := 5, d1 := 0x80, d2 := 2 ^ 32 + 4 }
    (moving c).copyAt 0 0 = some (9, c) ∧ (moving c).copies.find 9 = some c ∧ (moving c).copyReady 9 c = true ∧ (c.piece 0).len = 4 ∧
    (moving c).overlaps c false 0x31000 4 = [] ∧ partAt (moving c) 0 0x30000 4 .read = true ∧ partAt (moving c) 0 0x31000 4 .write = true ∧
    (match (moving { c with d1 := w }).checkNow 0 (window 0 0x40) 1 .write with
     | (.remote e, s1) => (match s1.importCheck 0 (window 0 0x40) 4 .write with | (none, e', _) => e == e' | _ => false) | _ => false) = true ∧
    (match (moving { c with d0 := w }).checkNow 0 (window 0 0x40) 1 .read with
     | (.remote e, s1) => (match s1.importCheck 0 (window 0 0x40) 4 .read with | (none, e', _) => e == e' | _ => false) | _ => false) = true ∧
    (match (moving c).checkNow 0 0x40000000 1 .write with | (.fail 0x101 a, _) => a == 0x40000000 | _ => false) = true ∧
    r.peer (r.piece 0).dst = window 1 0x80 ∧ (r.piece 0).dst + (r.piece 0).len ≤ 2 ^ 32 ∧
    (match (importer {}).importOf 0 1 with | (some e, _) => e / 2 ^ 52 % 2 ^ 12 == 5 | _ => false) = true := by
  decide +kernel

theorem test_meets_EngineEvents_reaches :
    let c : Copy := { kind := 0, d0 := 0x30000, d1 := 0x31000, d2 := 4 }
    (∃ page pa s1, PartReaches (moving c) 0 0x30000 4 .read page pa s1) ∧ ∃ page pa s1, PartReaches (moving c) 0 0x31000 4 .write page pa s1 :=
  ⟨partReaches_of (by decide +kernel) (by decide +kernel), partReaches_of (by decide +kernel) (by decide +kernel)⟩

/-- A CPYX of one element of a BF16 page, and a CPYW of a column of two BI8 elements whose scale bytes stand at 0x20800; one that is complete, well and too dense. -/
def formed (fmt : Nat) (c : Copy) : State :=
  { formatted fmt with copies := [(9, { c with state := .active, team := some 1, left := [(0, 1)] })] }

theorem test_meets_EngineEvents_formatted :
    let x : Copy := { kind := 3, d0 := 0x20000, d1 := 0x100, d2 := 1, d3 := 4, state := .active, team := some 1, left := [(0, 1)] }
    let f : Copy := { kind := 2, d0 := 0x20000, d1 := 128, d2 := 2, state := .active, team := some 1, left := [(0, 1)] }
    (match (formed 4 x).fmtAt 0 0x20000 with
     | (.ok fmt, s1) => fmt == 4 && (match (s1.modCopy 9 fun y => { y with fmt := some fmt }).elements 0 fmt 0x20000 [] [0] with
       | ([(0, .wide _)], _) => true | _ => false)
     | _ => false) = true ∧
    (formed 1 f).copyReady 9 f = true ∧ f.shapeOk 1 = true ∧ f.colBytes 1 = 2 ∧
    (match (formed 1 f).fmtAt 0 0x20000 with
     | (.ok fmt, s1) => fmt == 1 && (match s1.elements 0 fmt 0x20000 [] [0, 1] with | ([(0, .val _ _ _ _), (1, .val _ _ _ _)], _) => true | _ => false)
     | _ => false) = true ∧
    (let d : Copy := { f with left := [], d2 := 128 + 2 ^ 9, cells := (List.range 17).map fun q => (64 * q, { sig := 1 }) }
     d.tooDense = true ∧ f.tooDense = false ∧ f.slot < 4 ∧ d.reqs = [] ∧ d.awe = false) := by
  decide +kernel

/-- A Twill request and a Calico packet at an alias page of their target. -/
theorem test_meets_TwillEvents_reaches :
    ∃ page pa s1, PartReaches (aliasDie 1 exporter) 4096 0x200F8 8 .write page pa s1 :=
  partReaches_of (by decide +kernel) (by decide +kernel)

theorem test_meets_TwillEvents_export :
    (((aliasDie 1 exporter).die 1).export_ 0).isSome = true ∧ ((aliasDie 1 exporter).die 1).func.base.get 0x12000 0 ≠ 0 ∧
    (({} : State).die 1).func.base.get 0x12000 0 = 0 := by
  decide +kernel

theorem test_meets_CalicoEvents_reaches :
    (∃ page pa s1, PartReaches (aliasDie 0 keyed) 0 (0x20000 + 4088) 8 .write page pa s1) ∧
    ∃ page pa s1, PartReaches (aliasDie 0 keyed) 0 (0x20000 + 4088) 8 .atomic page pa s1 :=
  ⟨partReaches_of (by decide +kernel) (by decide +kernel), partReaches_of (by decide +kernel) (by decide +kernel)⟩

/-- A frame for queue 6 of address space 0 whose stamp has passed, and one whose stamp has not; the page of its record. -/
def framed (now : Nat) : State :=
  { withWords [(0x13000, 0x14000), (0x13008, 4096)] [(0x14008, 2 ^ 63 + 7 * 2 ^ 40 + 0x15000), (0x150C8, 2 * 2 ^ 36), (0x150D0, 3 * 2 ^ 20 + 0x30 * 2 ^ 36)]
      (aliasDie 0 (warpAt {})) with
    now := now, groups := [(0, { filters := [(0, 2 ^ 149 + 6 * 2 ^ 106)] }), (1, {})] }

theorem test_meets_CalicoEvents_frames :
    let f (s : State) : EthFrame := { fcsOk := true, bytes := List.replicate 64 0, time := s.ptpNs }
    (framed 1).calicoFrame 0 (f (framed 1)).bytes = none ∧ ((framed 1).group 0).frames = [] ∧
    (framed 1).filterFor 0 (f (framed 1)).bytes = some (0, 2 ^ 149 + 6 * 2 ^ 106) ∧
    (framed 1).stampPast (f (framed 1)) = true ∧ (framed 0).stampPast (f (framed 0)) = false ∧
    (let E := (((framed 1).die 0).netqEntry 0 6).getD 0
     ((framed 1).netq 0 0 6).delivered - ((framed 1).netq 0 0 6).released ≤ bits E 163 148 ∧ bits E 147 132 = 0 ∧ bits E 203 164 * 4096 = 0x30000 ∧
     cutLines 0x30000 (frameRecord (f (framed 1)) 0 (2048 * 2 ^ bits E 107 106)).length = [(0x30000, (frameRecord (f (framed 1)) 0 (2048 * 2 ^ bits E 107 106)).length)] ∧
     partAt (framed 1) 0 0x30000 (frameRecord (f (framed 1)) 0 (2048 * 2 ^ bits E 107 106)).length .write = true) := by
  decide +kernel

/-- A message that is known and has the packet already; an answer of an atomic that is known. -/
theorem test_meets_CalicoEvents_known :
    let p : CalicoPacket := { key := 4, opid := 9, mlen := 4096, poff := 4088, payload := List.replicate 8 1 }
    let s : State := { aliasDie 0 keyed with groups := [(0, { msgs := [{ (default : MsgRec) with src := p.src, opid := 9, got := [4088] }], atoms := [{ src := p.src, opid := 9 }] }), (1, {})] }
    keyFlaw (s.die 0) 1 p = none ∧ keyFlaw (s.die 0) 4 p = none ∧ p.sound = true ∧ (∃ m, (s.group 0).msgs = [m] ∧ m.src = p.src ∧ m.opid = p.opid ∧ p.poff ∈ m.got) ∧
    (∃ a, (s.group 0).atoms = [a] ∧ a.src = p.src ∧ a.opid = p.opid) ∧
    (match s.checkNow 0 (0x20000 + 4088) 1 .atomic with | (.local _ _, _) => true | _ => false) = true :=
  ⟨by decide +kernel, by decide +kernel, by decide +kernel, ⟨_, rfl, rfl, rfl, by decide⟩, ⟨_, rfl, rfl, rfl⟩, by decide +kernel⟩

/-! ### The witnesses that take longest to evaluate -/

/-- The first and the last engine queue place, a sound fill of four bytes, an engine with 64 queued copies; a ticket for none and for a copy. -/
theorem test_meets_CopyInstructions :
    let s := warpAt { s := [(5, 0x100), (6, 4)] }
    let c : Copy := { kind := 4, d0 := s.sreg 4, d1 := s.sreg 5, d2 := s.sreg 6, d3 := s.sreg 7, team := some 1 }
    let u (st : CopyState) : State := { s with copies := [(9, { c with serial := 7, state := st })], engines := [(0, { serial := 8 })] }
    s.onWarp 1 0 ∧ (s.team 1).core < 64 ∧ c.bad (s.team 1).spad = false ∧ s.inState 0 .queued < 64 ∧
    64 ≤ ({ s with copies := (List.range 64).map fun i => (i, c) } : State).inState 0 .queued ∧
    s.ready [3, 2] ∧ s.ticket (s.team s.me).space 7 = none ∧ ((u .done).ticket (s.team s.me).space 7).isSome = true ∧
    ((u .queued).ticket (s.team s.me).space 7).map (·.1) = some 9 ∧ ((u .queued).copies.find 9).isSome = true ∧ c.phs = none ∧ c.entry = none :=
  ⟨⟨rfl, rfl, rfl⟩, by decide +kernel, by decide +kernel, by decide +kernel, by decide +kernel, ⟨by decide, by decide⟩, by decide +kernel, by decide +kernel,
    by decide +kernel, by decide +kernel, rfl, rfl⟩

theorem test_meets_NetworkInstructions :
    let s := netState { s := [(2, 5 + 5 * 2 ^ 16), (3, 5)] }
    s.onWarp 1 0 ∧ s.tag = 0 ∧ (s.die 0).netqValid 0 1023 = none ∧ ((s.die 0).netqValid 0 5).isSome = true ∧ ((s.die 0).netqValid 0 5).map qKind = some 1 ∧
    ((s.die 0).netqValid 0 6).map qKind = some 2 ∧ s.queued 0 0 5 < 256 ∧ (s.reg 2).toNat % 1024 = 5 ∧ (s.reg 2).toNat / 2 ^ 16 % 1024 = 5 ∧
    256 ≤ ({ s with netops := (List.range 256).map fun i => (i, { queue := 5 }) } : State).queued 0 0 5 :=
  ⟨⟨rfl, by decide +kernel, rfl⟩, by decide, by decide +kernel, by decide +kernel, by decide +kernel, by decide +kernel, by decide +kernel, by decide, by decide,
    by decide +kernel⟩

theorem test_meets_EnqueueInstructions :
    (enqState 1 5).onWarp 1 0 ∧ ((enqState 1 5).reg 4).toNat % 64 ≠ 0 ∧ ((enqState 1 5).reg 2).toNat % 64 = 0 ∧ ((enqState 1 5).reg 3).toNat % 64 = 0 ∧
    enqReady (enqState 1 5) = true ∧ enqFull (enqState 2 5) = true ∧ enqFull (enqState 2 1) = false :=
  ⟨⟨rfl, by decide +kernel, rfl⟩, by decide +kernel, by decide +kernel, by decide +kernel, by decide +kernel⟩

/-- A sequencer with no operation and with two; each row of an F32 tile of 256 bytes asked, answered and absent. -/
theorem test_meets_MatrixIssue :
    let s := seqAt placedTeam
    let f := seqAt { placedTeam with mq := [{}, {}] }
    let rows := (loadRows false 0x20000 256).flatMap fun (x, n) => cutLines x n
    let g (asks : List Ask) : State := tables (seqAt { placedTeam with seq := { asks := asks } })
    matrixReady s 1 [1, 2, 3] ∧ (0 : BitVec 5).toNat < (s.team 1).acct ∧ f.cur = .seq 1 ∧ f.ready [1, 2] ∧ 2 ≤ (f.team 1).mq.length ∧ (s.team 1).mq = [] ∧
    (((g []).globalRanges .read rows).1.2.1 ≠ [] ∧ ((g []).globalRanges .read rows).1.2.2 = none) ∧
    (let as := (List.range 4).map fun i => answer (0x20 + i) false
     ((g as).globalRanges .read rows).1.2.1 = [] ∧ ((g as).globalRanges .read rows).1.2.2 = none) ∧
    ((g [{ answer 0x20 false with answer := some 0x202 }]).globalRanges .read [(0x20000, 128)]).1.2.2 = some (0x202, 0x20000) :=
  ⟨⟨rfl, ⟨by decide, by decide, by decide⟩, by decide⟩, by decide, rfl, ⟨by decide, by decide, by decide⟩, by decide, rfl,
    by decide +kernel, by decide +kernel, by decide +kernel⟩

theorem test_meets_TeamLife :
    (launchState true).mayStart 0 0x30000 = true ∧ (launchState true).mayStart 1 0x30000 = false ∧ (launchState true).bundles = [] ∧ (launchState true).teams = [] ∧
    ((launchState true).die 0).retired = [] ∧ qAsid (((launchState true).die 0).qsb 0x30000) = 0 ∧
    qSlotVa (((launchState true).die 0).qsb 0x30000) (qHead (((launchState true).die 0).qsb 0x30000)) = 0x32000 ∧
    recordOk (launchRecord true) false = true ∧ (launchRecord true).getD 0 0 % 8 = 1 ∧ (launchRecord true).getD 8 0 % 4 = 0 ∧ (launchRecord true).getD 8 0 / 4 % 8 = 0 ∧
    (launchRecord false).length = 64 ∧ recordOk (launchRecord false) false = false ∧ (launchRecord false).getD 1 0 = 0 := by
  decide +kernel

end Sys2Proof.Tests
end

/-! PROOFS. NKEY and NRXPOP (R361, R362, R367): keys that an address space owns, and receive rings. -/

namespace Sys2Proof.Machine

/-! ### Scalar results on a warp's stream -/

theorem State.onWarp.me_eq {s : State} {t w : Nat} (h : s.onWarp t w) : s.me = t := by
  simp [State.me, h.1, Stream.ids]

theorem State.onWarp.ready_nil {s : State} {t w : Nat} (h : s.onWarp t w) : s.ready [] := by
  obtain ⟨hcur, hlive, -⟩ := h
  simp [State.ready, hcur, hlive]

theorem State.onWarp.ownWrites_eq {s : State} {t w : Nat} (h : s.onWarp t w) : s.ownWrites = (s.warp t w).writes := by
  simp [State.ownWrites, h.1]

@[simp] theorem State.dies_setSreg (s : State) (r : Nat) (x : Word) : (s.setSreg r x).dies = s.dies := by
  unfold State.setSreg; split <;> rfl

@[simp] theorem State.dies_advance (s : State) (n : Nat) : (s.advance n).dies = s.dies := by
  unfold State.advance; split <;> rfl

@[simp] theorem State.dies_result (s : State) (d : Reg) (x : Word) : (s.result d x).dies = s.dies := by
  simp [State.result, State.setReg]

@[simp] theorem State.die_result (s : State) (d : Reg) (x : Word) (e : Nat) : (s.result d x).die e = s.die e := by
  simp [State.die]

theorem Wrote.reg_eq {s s' : State} {d : Reg} {x p : Word} (h : Wrote s s' d.toNat x p) (hd : d ≠ 0) : s'.reg d = x := by
  have hne : d.toNat ≠ 0 := fun h0 => hd (BitVec.eq_of_toNat_eq h0)
  simpa [State.reg, hne] using h.regs d.toNat d.isLt

/-! ### States that agree on streams and dies -/

/-- The issuing stream, the teams and the dies are the same in both states. -/
structure SameStreams (s s' : State) : Prop where
  cur : s'.cur = s.cur
  teams : s'.teams = s.teams
  dies : s'.dies = s.dies

theorem SameStreams.refl (s : State) : SameStreams s s := ⟨rfl, rfl, rfl⟩

theorem SameStreams.trans {s s' s'' : State} (h : SameStreams s s') (g : SameStreams s' s'') : SameStreams s s'' :=
  ⟨g.cur.trans h.cur, g.teams.trans h.teams, g.dies.trans h.dies⟩

theorem SameStreams.onWarp {s s' : State} {t w : Nat} (h : SameStreams s s') (hw : s.onWarp t w) : s'.onWarp t w := by
  simpa only [State.onWarp, State.warpLive, State.warp, State.team, h.cur, h.teams] using hw

theorem SameStreams.pc_eq {s s' : State} (h : SameStreams s s') : s'.pc = s.pc := by
  simp only [State.pc, State.warp, State.team, h.cur, h.teams]

theorem SameStreams.foldl {α : Type} (f : State → α → State) (hf : ∀ s x, SameStreams s (f s x)) (l : List α) (s : State) :
    SameStreams s (l.foldl f s) := by
  induction l generalizing s with
  | nil => exact .refl s
  | cons x l ih => exact (hf s x).trans (ih (f s x))

theorem sameStreams_draw (s : State) (n : Nat) : SameStreams s (s.draw n).2 := ⟨rfl, rfl, rfl⟩

theorem sameStreams_eventOpen (s : State) (socket data : Nat) : SameStreams s (s.eventOpen socket data) := ⟨rfl, rfl, rfl⟩

/-- R354: the records of messages that go, and the events that tell of them, touch no stream and no die. -/
theorem sameStreams_dropRecords (s : State) (d key : Nat) : SameStreams s (s.dropRecords d key) := by
  refine SameStreams.foldl _ (fun s g => ?_) _ s
  have hgroup (f : Group → Group) : SameStreams s (s.modGroup g f) := ⟨rfl, rfl, rfl⟩
  refine (hgroup _).trans (SameStreams.foldl _ (fun s m => ?_) _ _)
  split
  · exact .refl s
  · exact sameStreams_eventOpen s _ _

/-! ### NKEY (R361, R362) -/

theorem bitOf_eq_testBit (x i : Nat) : bitOf x i = x.testBit i := by
  rw [Nat.testBit_eq_decide_div_mod_eq]; rfl

/-- The KEYS word `r` of an address space gives it key `k` (R362, R451). -/
def OwnsKey (r k : Nat) : Prop := r.testBit 63 = true ∧ r % 2 ^ 16 ≤ k ∧ k ≤ r % 2 ^ 16 + r / 2 ^ 32 % 2 ^ 16

/-- The model's test for a key outside the range. -/
theorem outsideKeys_iff (r k : Nat) :
    (!bitOf r 63 || decide (k < bits r 15 0) || decide (k > bits r 15 0 + bits r 47 32)) = true ↔ ¬ OwnsKey r k := by
  simp only [OwnsKey, bitOf_eq_testBit, bits, Bool.or_eq_true, Bool.not_eq_true']
  cases r.testBit 63
  · simp
  · simp; omega

/-- The index that NKEY's descriptor names. -/
def State.nkeyIndex (s : State) (a : Reg) : Nat := (s.sreg (a.toNat + 1)).toNat / 2 ^ 32 % 2 ^ 16

/-- The descriptor of NKEY has its reserved bits zero (R357). -/
def State.nkeySound (s : State) (a : Reg) : Prop :=
  (s.sreg (a.toNat + 1)).toNat / 2 ^ 48 = 0 ∧ (s.sreg (a.toNat + 2)).toNat / 2 ^ 4 % 2 ^ 12 = 0 ∧
  (s.sreg (a.toNat + 2)).toNat / 2 ^ 26 = 0 ∧ s.sreg (a.toNat + 3) = 0

/-- The entry that NKEY writes for a team with a sound descriptor (R348, R361). -/
def State.nkeyEntry (s : State) (T : Team) (a : Reg) : Key :=
  let d1 := (s.sreg (a.toNat + 1)).toNat
  let d2 := (s.sreg (a.toNat + 2)).toNat
  { v := d2.testBit 0, r := d2.testBit 1, w := d2.testBit 2, atom := d2.testBit 3, asid := T.asid, base := (s.sreg a.toNat).toNat,
    len := d1 % 2 ^ 32 + 1, nq := d2 / 2 ^ 16 % 2 ^ 10, gen := (((s.die T.origin).keys.get (s.nkeyIndex a) {}).gen + 1) % 65536 }

/-- Key `k` of die `o` becomes `e`, the records that name it go, and s_d takes its generation. -/
def State.installKey (s : State) (o k : Nat) (e : Key) (d : Reg) : State :=
  ((s.modDie o fun D => { D with keys := D.keys.ins k e }).dropRecords o k).result d (BitVec.ofNat 64 e.gen)

theorem installKey_keys (s : State) (o k : Nat) (e : Key) (d : Reg) (ho : (s.dies.find o).isSome) :
    ((s.installKey o k e d).die o).keys = (s.die o).keys.ins k e := by
  have hdies := (sameStreams_dropRecords (s.modDie o fun D => { D with keys := D.keys.ins k e }) o k).dies
  have hdie := State.die_modDie s o o (fun D => { D with keys := D.keys.ins k e }) ho
  rw [if_pos rfl] at hdie
  rw [State.installKey, State.die_result, State.die, hdies, ← State.die, hdie]

theorem installKey_wrote {s : State} {t w : Nat} (h : s.onWarp t w) (o k : Nat) (e : Key) (d : Reg) :
    (s.installKey o k e d).pc = s.pc + 4 ∧ (d ≠ 0 → (s.installKey o k e d).reg d = BitVec.ofNat 64 e.gen) := by
  have hmod : (s.modDie o fun D => { D with keys := D.keys.ins k e }).onWarp t w := h
  have hdrop := sameStreams_dropRecords (s.modDie o fun D => { D with keys := D.keys.ins k e }) o k
  have hres := result_wrote (hdrop.onWarp hmod).ready_nil d (BitVec.ofNat 64 e.gen)
  exact ⟨hres.pc.trans (congrArg (· + 4) hdrop.pc_eq), hres.reg_eq⟩

theorem exec_nkey (d a : Reg) (s : State) : exec (.nkey d a) s = execNkey d a s := rfl

/-- R361: a release waits while remote writes of the warp are not acknowledged. -/
theorem exec_nkey_waits {s : State} {t w : Nat} (h : s.onWarp t w) (d a : Reg) (hw : (s.warp t w).writes ≠ []) :
    exec (.nkey d a) s = .next s := by
  rw [exec_nkey, execNkey, warpOnly_ready _ _ _ h]
  simp [h.ownWrites_eq, hw, stay]

/-- R362: a key that the address space does not own. -/
theorem exec_nkey_refuses {s : State} {t w : Nat} (h : s.onWarp t w) (d a : Reg) (hw : (s.warp t w).writes = [])
    (hk : ¬ OwnsKey ((s.die (s.team t).origin).asidWord (s.team t).asid 0x20) (s.nkeyIndex a)) :
    exec (.nkey d a) s = .next (s.result d (~~~0)) := by
  have hout := (outsideKeys_iff _ _).2 hk
  rw [exec_nkey, execNkey, warpOnly_ready _ _ _ h]
  simp only [h.ownWrites_eq, hw, h.me_eq, List.isEmpty_nil, Bool.not_true, Bool.false_eq_true, if_false]
  exact if_pos hout

/-- R361, R5: NKEY installs some entry at the key that it names, and the descriptor's where the reserved bits are zero. -/
theorem exec_nkey_installs {s : State} {t w : Nat} (h : s.onWarp t w) (d a : Reg) (hw : (s.warp t w).writes = [])
    (hk : OwnsKey ((s.die (s.team t).origin).asidWord (s.team t).asid 0x20) (s.nkeyIndex a)) :
    ∃ s₁ e, SameStreams s s₁ ∧ (s.nkeySound a → e = s.nkeyEntry (s.team t) a) ∧
      exec (.nkey d a) s = .next (s₁.installKey (s.team t).origin (s.nkeyIndex a) e d) := by
  have hin := mt (outsideKeys_iff _ _).1 (not_not_intro hk)
  rw [exec_nkey, execNkey, warpOnly_ready _ _ _ h]
  simp only [h.ownWrites_eq, hw, h.me_eq, List.isEmpty_nil, Bool.not_true, Bool.false_eq_true, if_false]
  rw [if_neg (by exact hin)]
  refine ⟨_, _, ?_, fun hsound => ?_, rfl⟩
  · split
    · exact sameStreams_draw s 128
    · exact .refl s
  · obtain ⟨h1, h2, h3, h4⟩ := hsound
    refine (if_neg ?_).trans ?_
    · simp [State.desc, bits, h4]; omega
    · simp [State.desc, State.nkeyEntry, State.nkeyIndex, bits, bitOf_eq_testBit]

/-! ### NRXPOP (R367) -/

theorem exec_nrxpop (d a b : Reg) (s : State) : exec (.nrxpop d a b) s = execNrxpop d a b s := rfl

/-- The counters of a receive ring after `n` slots have been released: never more than have been popped. -/
def NetQ.release (Q : NetQ) (n : Nat) : NetQ := { Q with released := min Q.popped (Q.released + n) }

/-- NRXPOP of a valid receive ring: the oldest record delivered and not popped, or 0. -/
theorem exec_nrxpop_ring {s : State} {t w : Nat} (h : s.onWarp t w) (d a b : Reg) {e : Nat}
    (hv : (s.die (s.team t).origin).netqValid (s.team t).asid ((s.reg a).toNat % 1024) = some e) (he : qKind e = 2) :
    let T := s.team t
    let p := (s.reg a).toNat % 1024
    let Q := (s.netq T.origin T.asid p).release ((s.reg b).toNat % 2 ^ 16)
    exec (.nrxpop d a b) s = .next (if Q.popped < Q.delivered then
        (s.modNetq T.origin T.asid p fun _ => { Q with popped := Q.popped + 1 }).result d
          (BitVec.ofNat 64 (bits e 203 164 * 4096 + Q.popped % (bits e 163 148 + 1) * (2048 * 2 ^ bits e 107 106)))
      else (s.modNetq T.origin T.asid p fun _ => Q).result d 0) := by
  intro T p Q
  rw [exec_nrxpop, execNrxpop, warpOnly_ready _ _ _ h]
  simp only [h.me_eq, hv, he]
  rw [apply_ite Host.Outcome.next]
  rfl

/-- Settles O21: the cases of NKEY (`exec_nkey_waits`, `exec_nkey_refuses`, `exec_nkey_installs`), and of NRXPOP (`exec_nrxpop_ring`). -/
theorem keysAndRings : Obligations.KeysAndRings := by
  unfold Obligations.KeysAndRings
  intro s t w h d a b T D d1 d2 k r first last g p Q
  refine ⟨fun hw => ⟨s, exec_nkey_waits h d a hw, rfl⟩, fun hw hout => ?_, fun hw hbit hlo hhi ho => ?_, fun e hv he => ?_⟩
  · have hk : ¬ OwnsKey r k := by
      rintro ⟨hbit, hlo, hhi⟩
      rcases hout with hv | hlt | hgt
      · simp [hbit] at hv
      · exact Nat.not_lt.2 hlo hlt
      · exact Nat.not_lt.2 hhi hgt
    exact ⟨_, exec_nkey_refuses h d a hw hk, result_wrote h.ready_nil _ _⟩
  · obtain ⟨s₁, e, hsame, hentry, hexec⟩ := exec_nkey_installs h d a hw ⟨hbit, hlo, hhi⟩
    obtain ⟨hpc, hreg⟩ := installKey_wrote (hsame.onWarp h) T.origin k e d
    have hkeys : ((s₁.installKey T.origin k e d).die T.origin).keys = D.keys.ins k e := by
      rw [installKey_keys _ _ _ _ _ (by rwa [hsame.dies]), State.die, hsame.dies]; rfl
    refine ⟨_, hexec, hpc.trans (congrArg (· + 4) hsame.pc_eq), fun h1 h2 h3 h4 => ?_, fun j hj => ?_⟩
    · obtain rfl := hentry ⟨h1, h2, h3, h4⟩
      exact ⟨hreg, (congrArg (Map.find · k) hkeys).trans (Map.find_ins_self _ _ _)⟩
    · exact (congrArg (Map.find · j) hkeys).trans (Map.find_ins_ne _ _ hj)
  · have hexec := exec_nrxpop_ring h d a b hv he
    exact ⟨fun hlt => ⟨_, hexec, if_pos hlt⟩, fun hle => ⟨_, hexec, if_neg (Nat.not_lt.2 hle)⟩⟩

end Sys2Proof.Machine

/-! PROOFS. The matrix engine (R21, R257, R263 to R275): how the oldest operation of a team starts, computes and completes. -/

namespace Sys2Proof.Machine

/-! ### States that differ in free values alone, and their team -/

theorem SameStreams.team_eq {s s' : State} (h : SameStreams s s') (t : Nat) : s'.team t = s.team t := by
  simp only [State.team, h.teams]

theorem sameStreams_choose (s : State) (n : Nat) : SameStreams s (s.choose n).2 := by
  unfold State.choose
  split <;> exact ⟨rfl, rfl, rfl⟩

/-- A fold that carries a value along with the state. -/
theorem SameStreams.foldl_snd {α β : Type} (f : β × State → α → β × State) (hf : ∀ x a, SameStreams x.2 (f x a).2) (l : List α) (x : β × State) :
    SameStreams x.2 (l.foldl f x).2 := by
  induction l generalizing x with
  | nil => exact .refl x.2
  | cons a l ih => exact (hf x a).trans (ih (f x a))

/-- R222: reads of older operand bytes only draw choices. -/
theorem sameStreams_spOlder (s : State) (t off : Nat) (bs : List Byte) : SameStreams s (s.spOlder t off bs).2 := by
  unfold State.spOlder
  dsimp only
  split
  · exact .refl s
  · refine SameStreams.foldl_snd _ (fun x i => ?_) _ (bs, s)
    obtain ⟨bs, s⟩ := x
    dsimp only
    split
    · exact .refl s
    · exact sameStreams_choose s _

theorem sameStreams_operands (s : State) (t : Nat) (o : MOp) : SameStreams s (s.operands t o).2 := by
  unfold State.operands
  dsimp only
  split
  · exact .refl s
  · refine SameStreams.foldl_snd _ (fun x r => ?_) _ (s.team t, s)
    exact sameStreams_spOlder x.2 t r.start _

theorem operands_of_spOld_nil {s : State} {t : Nat} (h : (s.team t).spOld = []) (o : MOp) : s.operands t o = (s.team t, s) := by
  simp [State.operands, h]

theorem spOlder_of_spOld_nil {s : State} {t : Nat} (h : (s.team t).spOld = []) (off : Nat) (bs : List Byte) : s.spOlder t off bs = (bs, s) := by
  simp [State.spOlder, h]

/-! ### Bytes as numbers -/

theorem length_rdBytes (m : List Host.Cell) (a n : Nat) : (rdBytes m a n).length = n := by
  induction n generalizing a with
  | zero => rfl
  | succ n ih => simp [rdBytes, ih]

theorem bytesLE_natLE (bs : List Byte) : bytesLE bs.length (natLE bs) = bs := by
  induction bs with
  | nil => rfl
  | cons b bs ih =>
    have hlow : BitVec.ofNat 8 (b.toNat + 256 * natLE bs) = b := BitVec.eq_of_toNat_eq (by simp [BitVec.toNat_ofNat]; omega)
    have hhigh : (b.toNat + 256 * natLE bs) / 256 = natLE bs := by have := b.isLt; omega
    simp only [List.length_cons, natLE, bytesLE, hlow, hhigh, ih]

theorem wrBytes_append (m : List Host.Cell) (a : Nat) (bs cs : List Byte) : wrBytes m a (bs ++ cs) = wrBytes (wrBytes m a bs) (a + bs.length) cs := by
  induction bs generalizing m a with
  | nil => rfl
  | cons b bs ih => simp only [List.cons_append, wrBytes, ih, List.length_cons, Nat.add_assoc, Nat.add_comm 1]

/-! ### Maps -/

theorem Map.mod_eq_self {α : Type} (m : Map α) (k : Nat) (f : α → α) (h : ∀ v, f v = v) : m.mod k f = m := by
  induction m with
  | nil => rfl
  | cons x m ih => obtain ⟨j, u⟩ := x; by_cases hj : j = k <;> simp [Map.mod, hj, h, ih]

theorem Map.keys_mod {α : Type} (m : Map α) (k : Nat) (f : α → α) : (m.mod k f).keys = m.keys := by
  induction m with
  | nil => rfl
  | cons x m ih =>
    obtain ⟨j, u⟩ := x
    simp only [Map.keys] at ih
    by_cases hj : j = k <;> simp [Map.mod, Map.keys, hj, ih]

/-! ### Requests of the engine for bytes in other dies (R263, R270) -/

/-- The dies stand, numbers only grow, and the requests numbered so far are as they were. -/
structure KeepsReqs (s s' : State) : Prop where
  dies : s'.dies.keys = s.dies.keys
  uid : s.uid ≤ s'.uid
  reqs : ∀ k ≤ s.uid, s'.reqs.find k = s.reqs.find k

theorem KeepsReqs.refl (s : State) : KeepsReqs s s := ⟨rfl, Nat.le_refl _, fun _ _ => rfl⟩

theorem KeepsReqs.trans {s s' s'' : State} (h : KeepsReqs s s') (g : KeepsReqs s' s'') : KeepsReqs s s'' :=
  ⟨g.dies.trans h.dies, Nat.le_trans h.uid g.uid, fun k hk => (g.reqs k (Nat.le_trans hk h.uid)).trans (h.reqs k hk)⟩

theorem KeepsReqs.foldl {α : Type} (f : State → α → State) (hf : ∀ s a, KeepsReqs s (f s a)) (l : List α) (s : State) : KeepsReqs s (l.foldl f s) := by
  induction l generalizing s with
  | nil => exact .refl s
  | cons a l ih => exact (hf s a).trans (ih (f s a))

/-- The race of an access is noted in the teams alone. -/
theorem raceMem_keeps (s : State) (d pa n : Nat) (write : Bool) (me : Option Nat) :
    (s.raceMem d pa n write me).2 = { s with teams := (s.raceMem d pa n write me).2.teams } := by
  unfold State.raceMem
  dsimp only
  split <;> rfl

theorem keepsReqs_raceFar (s : State) (r : Req) : KeepsReqs s (s.raceFar r).2 := by
  unfold State.raceFar
  dsimp only
  split
  · exact .refl s
  · rw [raceMem_keeps]; exact ⟨rfl, Nat.le_refl _, fun _ _ => rfl⟩

theorem blur_keeps (s : State) (bs : List Byte) (offs : List Nat) : (s.blur bs offs).2 = { s with ctr := (s.blur bs offs).2.ctr } := by
  unfold State.blur
  induction offs generalizing s bs with
  | nil => rfl
  | cons i offs ih => rw [List.foldl_cons, ih]; rfl

theorem keepsReqs_blur (s : State) (bs : List Byte) (offs : List Nat) : KeepsReqs s (s.blur bs offs).2 := by
  rw [blur_keeps]; exact ⟨rfl, Nat.le_refl _, fun _ _ => rfl⟩

/-- Two packets ask for the same bytes in the same way: the fields that sending leaves alone. -/
structure SameTarget (p q : TwillPacket) : Prop where
  type : q.type = p.type
  dpkg : q.dpkg = p.dpkg
  dsock : q.dsock = p.dsock
  exp : q.exp = p.exp
  offset : q.offset = p.offset
  len : q.len = p.len

theorem SameTarget.trans {p q r : TwillPacket} (h : SameTarget p q) (g : SameTarget q r) : SameTarget p r :=
  ⟨g.type.trans h.type, g.dpkg.trans h.dpkg, g.dsock.trans h.dsock, g.exp.trans h.exp, g.offset.trans h.offset, g.len.trans h.len⟩

/-- Request `id` stands in the state with this owner and these target bytes. -/
def State.hasRequest (s : State) (id : Nat) (own : Owner) (p : TwillPacket) : Prop :=
  ∃ q, s.reqs.find id = some q ∧ q.owner = own ∧ SameTarget p q.packet

/-- The requests differ at number `id` at most, where the owner and the target stand; the dies stand, and numbers only grow. -/
structure SendsAt (s s' : State) (id : Nat) : Prop where
  dies : s'.dies.keys = s.dies.keys
  uid : s.uid ≤ s'.uid
  others : ∀ k ≠ id, s'.reqs.find k = s.reqs.find k
  request : ∀ own p, s.hasRequest id own p → s'.hasRequest id own p

theorem SendsAt.refl (s : State) (id : Nat) : SendsAt s s id := ⟨rfl, Nat.le_refl _, fun _ _ => rfl, fun _ _ h => h⟩

theorem SendsAt.trans {s s' s'' : State} {id : Nat} (h : SendsAt s s' id) (g : SendsAt s' s'' id) : SendsAt s s'' id :=
  ⟨g.dies.trans h.dies, Nat.le_trans h.uid g.uid, fun k hk => (g.others k hk).trans (h.others k hk), fun own p hp => g.request own p (h.request own p hp)⟩

/-- A change that leaves the requests alone. -/
theorem sendsAt_of_reqs {s s' : State} (id : Nat) (hd : s'.dies.keys = s.dies.keys) (hu : s.uid ≤ s'.uid) (hr : s'.reqs = s.reqs) : SendsAt s s' id :=
  ⟨hd, hu, fun _ _ => by rw [hr], fun _ _ => by simp only [State.hasRequest, hr]; exact fun h => h⟩

/-- A change of request `id` that keeps its owner and its target. -/
theorem sendsAt_modReq (s : State) (id : Nat) (f : Req → Req)
    (hf : ∀ q, s.reqs.find id = some q → (f q).owner = q.owner ∧ SameTarget q.packet (f q).packet) :
    SendsAt s { s with reqs := s.reqs.mod id f } id := by
  refine ⟨rfl, Nat.le_refl _, fun k hk => by simp [Map.find_mod, hk], ?_⟩
  rintro own p ⟨q, hq, hown, hp⟩
  obtain ⟨hfo, hfp⟩ := hf q hq
  exact ⟨f q, by simp [Map.find_mod, hq], hfo.trans hown, hp.trans hfp⟩

theorem sendsAt_modDie (s : State) (d id : Nat) (f : Die → Die) : SendsAt s (s.modDie d f) id :=
  sendsAt_of_reqs id (Map.keys_mod _ _ _) (Nat.le_refl _) rfl

theorem sendsAt_traffic (s : State) (id : Nat) (o : Owner) (n : Nat) : SendsAt s (s.traffic o n) id := by
  unfold State.traffic
  split
  · exact sendsAt_modDie s _ id _
  · exact .refl s id

theorem sendsAt_emit (s : State) (id : Nat) (port : Option Nat) (p : TwillPacket) : SendsAt s (s.emit port p) id := by
  unfold State.emit
  split <;> exact sendsAt_of_reqs id rfl (Nat.le_refl _) rfl

/-- Sending a request changes that request alone, and neither its owner nor its target. -/
theorem sendReq_sendsAt (s : State) (id : Nat) : SendsAt s (s.sendReq id) id := by
  unfold State.sendReq
  split
  · exact .refl s id
  · next r hr =>
    split
    · exact .refl s id
    · split
      · exact sendsAt_modReq s id _ fun q _ => ⟨rfl, rfl, rfl, rfl, rfl, rfl, rfl⟩
      · next path det link port _ =>
        extract_lets p key w seq oseq fresh p₁ p₂
        rcases hfr : s.fresh with ⟨n, s₁⟩
        dsimp -zeta only
        extract_lets s₂ s₃ s₄ s₅
        have h₁ : SendsAt s s₁ id := by
          obtain rfl : s₁ = { s with uid := s.uid + 1 } := (congrArg Prod.snd hfr).symm
          exact sendsAt_of_reqs id rfl (Nat.le_succ _) rfl
        have h₂ : SendsAt s₁ s₂ id := by
          refine sendsAt_modReq s₁ id _ fun q hq => ?_
          obtain rfl : s₁ = { s with uid := s.uid + 1 } := (congrArg Prod.snd hfr).symm
          obtain rfl : r = q := Option.some.inj (hr.symm.trans hq)
          exact ⟨rfl, rfl, rfl, rfl, rfl, rfl, rfl⟩
        have h₃ : SendsAt s₂ s₃ id := by
          simp only [s₃]; split
          · exact sendsAt_modDie s₂ _ id _
          · exact .refl s₂ id
        have h₄ : SendsAt s₃ s₄ id := by
          simp only [s₄]; split
          · split
            · exact sendsAt_of_reqs id rfl (Nat.le_refl _) rfl
            · exact .refl s₃ id
          · exact .refl s₃ id
        have h₅ : SendsAt s₄ s₅ id := by
          simp only [s₅]; split
          · exact sendsAt_traffic s₄ id _ _
          · exact .refl s₄ id
        exact ((((h₁.trans h₂).trans h₃).trans h₄).trans h₅).trans (sendsAt_emit s₅ id _ _)

/-- Request `r` is entered under the next number, with a tag that no outstanding request of its die has (R337). -/
def State.enterReq (s : State) (r : Req) : State :=
  let u : State := { s with uid := s.uid + 1 }
  let tag := u.freeTag r.src (u.die r.src).nextTag 65536
  let v := u.modDie r.src fun D => { D with nextTag := (tag + 1) % 65536 }
  { v with reqs := v.reqs.ins (s.uid + 1) { r with packet := { r.packet with tag := tag } } }

theorem keepsReqs_enterReq (s : State) (r : Req) : KeepsReqs s (s.enterReq r) :=
  ⟨Map.keys_mod _ _ _, Nat.le_succ _, fun _ hk => Map.find_ins_ne _ _ (by omega)⟩

theorem enterReq_hasRequest (s : State) (r : Req) : (s.enterReq r).hasRequest (s.uid + 1) r.owner r.packet :=
  ⟨_, Map.find_ins_self _ _ _, rfl, rfl, rfl, rfl, rfl, rfl, rfl⟩

/-- A request that writes nothing is entered and sent, once the races of its access have been noted. -/
theorem request_eq (s : State) (r : Req) (hr : r.packet.type ≠ .write) :
    ∃ s₁, KeepsReqs s s₁ ∧ s.request r = (s₁.uid + 1, (s₁.enterReq r).sendReq (s₁.uid + 1)) := by
  refine ⟨_, (keepsReqs_raceFar s r).trans (keepsReqs_blur (s.raceFar r).2 r.packet.data (s.raceFar r).1), ?_⟩
  have hplain : ((s.raceFar r).1.isEmpty || r.packet.type != .write) = true := by simp [hr]
  unfold State.request
  dsimp only
  rw [if_pos hplain]
  rfl

/-- A new request takes a number beyond all given so far, and stands under it with its owner and its target. -/
theorem request_spec (s : State) (r : Req) (hr : r.packet.type ≠ .write) :
    KeepsReqs s (s.request r).2 ∧ s.uid < (s.request r).1 ∧ (s.request r).1 ≤ (s.request r).2.uid ∧
    (s.request r).2.hasRequest (s.request r).1 r.owner r.packet := by
  obtain ⟨s₁, hkeep, heq⟩ := request_eq s r hr
  have henter := keepsReqs_enterReq s₁ r
  have hsend := sendReq_sendsAt (s₁.enterReq r) (s₁.uid + 1)
  have huid : (s₁.enterReq r).uid = s₁.uid + 1 := rfl
  rw [heq]
  refine ⟨hkeep.trans ⟨hsend.dies.trans henter.dies, Nat.le_trans henter.uid hsend.uid, fun k hk => ?_⟩, Nat.lt_succ_of_le hkeep.uid, hsend.uid,
    hsend.request _ _ (enterReq_hasRequest s₁ r)⟩
  exact (hsend.others k (by omega)).trans (henter.reqs k hk)

/-- The engine's read of a range of a peer is one request of the range's bytes under import entry `e`, with the window address noted in it. -/
theorem mReq_eq (s : State) (own : Owner) (t e : Nat) (r : Range) :
    ∃ q, s.mReq own t e r .read [] = { (s.request q).2 with reqs := (s.request q).2.reqs.mod (s.request q).1 fun q => { q with addr := r.va } } ∧
      q.owner = own ∧ SameTarget (s.packetOf (s.team t).origin e r.start r.len .read []) q.packet :=
  ⟨_, rfl, rfl, rfl, rfl, rfl, rfl, rfl, rfl⟩

/-- That request takes a new number. -/
theorem mReq_spec (s : State) (own : Owner) (t e : Nat) (r : Range) :
    KeepsReqs s (s.mReq own t e r .read []) ∧
    ∃ id ≤ (s.mReq own t e r .read []).uid, (s.mReq own t e r .read []).hasRequest id own (s.packetOf (s.team t).origin e r.start r.len .read []) := by
  obtain ⟨q, heq, hown, hp⟩ := mReq_eq s own t e r
  have hread : q.packet.type ≠ .write := by rw [hp.type]; exact nofun
  obtain ⟨hkeep, hlo, hhi, q', hq', hown', hp'⟩ := request_spec s q hread
  have hmod := sendsAt_modReq (s.request q).2 (s.request q).1 (fun q => { q with addr := r.va }) fun _ _ => ⟨rfl, rfl, rfl, rfl, rfl, rfl, rfl⟩
  rw [heq]
  exact ⟨⟨hmod.dies.trans hkeep.dies, Nat.le_trans hkeep.uid hmod.uid, fun k hk => (hmod.others k (by omega)).trans (hkeep.reqs k hk)⟩, _, hhi,
    hmod.request _ _ ⟨q', hq', hown'.trans hown, hp.trans hp'⟩⟩

/-- One request of the owner for the bytes of the range under import entry `e` stands in the state (R322, R337). -/
def State.readsPeer (s : State) (own : Owner) (e : Nat) (r : Range) : Prop :=
  ∃ id ≤ s.uid, ∃ q, s.reqs.find id = some q ∧ q.owner = own ∧ q.packet.type = .read ∧ q.packet.dpkg = e / 2 ^ 52 % 2 ^ 12 ∧
    q.packet.dsock = e / 2 ^ 50 % 4 ∧ q.packet.exp = e / 2 ^ 34 % 2 ^ 16 ∧ q.packet.offset = r.start ∧ q.packet.len = r.len

theorem KeepsReqs.readsPeer {s s' : State} (h : KeepsReqs s s') {own : Owner} {e : Nat} {r : Range} (hr : s.readsPeer own e r) : s'.readsPeer own e r := by
  obtain ⟨id, hid, q, hq, hrest⟩ := hr
  exact ⟨id, Nat.le_trans hid h.uid, q, (h.reqs id hid).trans hq, hrest⟩

theorem mReq_readsPeer (s : State) (own : Owner) (t e : Nat) (r : Range) : (s.mReq own t e r .read []).readsPeer own e r := by
  obtain ⟨id, hid, q, hq, hown, hp⟩ := (mReq_spec s own t e r).2
  exact ⟨id, hid, q, hq, hown, hp.type, hp.dpkg, hp.dsock, hp.exp, hp.offset, hp.len⟩

/-- R270: range `i` of MACC operation `o` is read now where it lies in another die. -/
def State.readRange (t : Nat) (o : MOp) (s : State) (i : Nat) : State :=
  match o.win[i]? with
  | some r => match r.peer with
    | some e => s.mReq (.macc t o.id i) t e r .read []
    | none => s
  | none => s

theorem readRange_of_peer {t : Nat} {o : MOp} {i e : Nat} (s : State) (hi : i < o.win.length) (he : (o.win.getD i {}).peer = some e) :
    s.readRange t o i = s.mReq (.macc t o.id i) t e (o.win.getD i {}) .read [] := by
  have hr : o.win[i]? = some (o.win.getD i {}) := by simp [hi]
  simp only [State.readRange, hr, he]

theorem readRange_of_local {t : Nat} {o : MOp} (s : State) (h : ∀ x ∈ o.win, x.peer = none) (i : Nat) : s.readRange t o i = s := by
  unfold State.readRange
  split
  · next r hr => simp only [h r (List.mem_of_getElem? hr)]
  · rfl

theorem keepsReqs_readRange (t : Nat) (o : MOp) (s : State) (i : Nat) : KeepsReqs s (s.readRange t o i) := by
  unfold State.readRange
  split
  · split
    · exact (mReq_spec s _ t _ _).1
    · exact .refl s
  · exact .refl s

/-- After the reads of a list of ranges each of them that lies in another die has its request. -/
theorem foldl_readRange_readsPeer {t : Nat} {o : MOp} {i e : Nat} (hi : i < o.win.length) (he : (o.win.getD i {}).peer = some e) (l : List Nat)
    (hl : i ∈ l) (s : State) : (l.foldl (State.readRange t o) s).readsPeer (.macc t o.id i) e (o.win.getD i {}) := by
  induction l generalizing s with
  | nil => cases hl
  | cons j l ih =>
    rcases List.mem_cons.1 hl with rfl | hmem
    · refine (KeepsReqs.foldl _ (keepsReqs_readRange t o) l _).readsPeer ?_
      rw [readRange_of_peer s hi he]
      exact mReq_readsPeer s _ t e _
    · exact ih hmem _

/-! ### MATRIX_OP_START (R263) -/

theorem exec_matrixOpStart (t : Nat) (s : State) : exec (.matrixOpStart t) s = execMatrixOpStart t s := rfl

/-- R21: of a team that the engine does not choose nothing starts. -/
theorem exec_matrixOpStart_idles {s : State} {t : Nat} {o : MOp} {r : List MOp} (hq : (s.team t).mq = o :: r)
    (hn : s.startNext (s.team t).die (s.team t).core ≠ some t) : exec (.matrixOpStart t) s = .next s := by
  simp only [exec_matrixOpStart, execMatrixOpStart, hq]
  exact if_pos (by simp [hn])

/-- The state in which the oldest operation `o` of team `t` has started, before `r`: the engine's round-robin pointer has passed the team. -/
def State.opStarted (s : State) (t : Nat) (o : MOp) (r : List MOp) : State :=
  { s with lastStart := s.lastStart.ins (64 * (s.team t).die + (s.team t).core) (s.team t).sslot }.modTeam t fun T =>
    { T with mq := { o with started := true } :: r }

/-- R263: an operation without a failing condition starts; one that is a MACC reads its ranges in other dies now. -/
theorem exec_matrixOpStart_starts {s : State} {t : Nat} {o : MOp} {r : List MOp} (hq : (s.team t).mq = o :: r) (hc : s.canStart (s.team t) = true)
    (hn : s.startNext (s.team t).die (s.team t).core = some t) (hf : (s.team t).mFlaw o = none) :
    ((∀ g a b save k, o.op ≠ .macc g a b save k) → exec (.matrixOpStart t) s = .next (s.opStarted t o r)) ∧
    ∀ g a b save k, o.op = .macc g a b save k →
      exec (.matrixOpStart t) s = .next ((List.range o.win.length).foldl (State.readRange t o) (s.opStarted t o r)) := by
  have hstart : ({ s with lastStart := s.lastStart.ins (coreKey (s.team t).die (s.team t).core) (s.team t).sslot } : State).modTeam t
      (·.modHead fun o => { o with started := true }) = s.opStarted t o r :=
    State.modTeam_congr _ _ _ _ (by show Team.modHead (s.team t) _ = _; simp only [Team.modHead, hq]; rfl)
  simp only [exec_matrixOpStart, execMatrixOpStart, hq, hc, hn, hf, hstart, bne_self_eq_false, Bool.not_true, Bool.or_self, Bool.false_eq_true, if_false]
  refine ⟨fun hop => ?_, fun g a b save k hop => ?_⟩
  · split
    · next h => exact absurd h (hop _ _ _ _ _)
    · rfl
  · simp only [hop]; rfl

/-- R21, R263: the oldest operation of the chosen team starts; MACC asks other dies for its ranges. -/
theorem matrixStarts : Claims.MatrixStarts := by
  intro s t o r _ hq _ T
  refine ⟨fun hn => ⟨s, exec_matrixOpStart_idles hq hn, rfl⟩, fun hc hn hf => ?_⟩
  intro s1
  obtain ⟨hother, hmacc⟩ := exec_matrixOpStart_starts hq hc hn hf
  refine ⟨fun hlocal => ?_, fun g a b save k hop => ?_⟩
  · by_cases hop : ∀ g a b save k, o.op ≠ .macc g a b save k
    · exact ⟨_, hother hop, rfl⟩
    · have hwin := hlocal.resolve_left hop
      push Not at hop
      obtain ⟨g, a, b, save, k, hop⟩ := hop
      exact ⟨_, hmacc g a b save k hop, List.foldl_fixed' (readRange_of_local _ hwin) _⟩
  · refine ⟨_, hmacc g a b save k hop, (KeepsReqs.foldl _ (keepsReqs_readRange t o) _ _).dies, fun i e hi he => ?_⟩
    obtain ⟨id, -, q, hread⟩ := foldl_readRange_readsPeer hi he _ (List.mem_range.2 hi) (s.opStarted t o r)
    exact ⟨id, q, hread⟩

/-! ### MMA_ATTEMPT_DONE (R265 to R268) -/

theorem exec_mmaAttemptDone (t : Nat) (s : State) : exec (.mmaAttemptDone t) s = execMmaAttemptDone t s := rfl

/-- The state after the product of `o`, with the operands that stand in `U`, has been added to its tile. -/
def State.multiplied (s : State) (t : Nat) (o : MOp) (r : List MOp) (m : Mma) (U : Team) : State :=
  s.modTeam t fun T => { T.setTile m.tile (mmaTile U o m (T.slots.get m.slot {}) (T.tile m.tile)) with mq := { o with finished := true } :: r, retry := 0 }

/-- R265, R222: an attempt without an injection adds the product of the operands as it reads them. -/
theorem exec_mmaAttemptDone_multiplies {s : State} {t : Nat} {o : MOp} {r : List MOp} {m : Mma} (hq : (s.team t).mq = o :: r)
    (hp : (s.team t).phase = .resident) (hs : o.started = true) (hm : o.product = some m) (hf : o.finished = false) (hi : o.inj = none) :
    exec (.mmaAttemptDone t) s = .next ((s.operands t o).2.multiplied t o r m (s.operands t o).1) := by
  have hteam := (sameStreams_operands s t o).team_eq t
  simp only [exec_mmaAttemptDone, execMmaAttemptDone, hq, hm, hs, hf, hp, hi]
  refine congrArg Host.Outcome.next (State.modTeam_congr _ _ _ _ ?_)
  rw [hteam]
  simp [Team.modHead, Team.setTile, hq]

/-! ### MATRIX_OP_COMPLETE (R257) -/

theorem exec_matrixOpComplete (t : Nat) (s : State) : exec (.matrixOpComplete t) s = execMatrixOpComplete t s := rfl

/-- The state in which the operation at the head of the queue is gone from it. -/
def State.mPop (s : State) (t : Nat) (r : List MOp) : State := s.modTeam t fun T => { T with mq := r }

theorem team_mPop {s : State} {t : Nat} (ht : (s.teams.find t).isSome) (r : List MOp) : (s.mPop t r).team t = { s.team t with mq := r } := by
  rw [State.mPop, State.team_modTeam s t t _ ht, if_pos rfl]

/-- R257: a started operation whose product, if it makes one, has been added is gone from the queue and has its effect; MACC has one of its own. -/
theorem exec_matrixOpComplete_finishes {s : State} {t : Nat} {o : MOp} {r : List MOp} (hq : (s.team t).mq = o :: r) (hp : (s.team t).phase = .resident)
    (hs : o.started = true) (hd : o.product = none ∨ o.finished = true) (hop : ∀ g a b save k, o.op ≠ .macc g a b save k) :
    exec (.matrixOpComplete t) s = .next ((s.mPop t r).mFinish t o) := by
  have hdue : (!o.started || (s.team t).phase != .resident || (o.product.isSome && !o.finished)) = false := by
    rcases hd with h | h <;> simp [hs, hp, h]
  simp only [exec_matrixOpComplete, execMatrixOpComplete, hq, hdue, Bool.false_eq_true, if_false]
  rfl

/-- A product has no effect left when it completes, unless its operands raced (R277). -/
theorem mFinish_of_product (s : State) (t : Nat) {o : MOp} {m : Mma} (hm : o.product = some m) (hraced : o.raced = []) : s.mFinish t o = s := by
  unfold MOp.product at hm
  split at hm
  · next hop => simp [State.mFinish, hop, hraced]
  · next hop => simp [State.mFinish, hop, hraced]
  · cases hm

/-- The effect of an operation that puts a tile: MZERO and MFIX. -/
theorem mPop_setTile (s : State) (t k : Nat) (r : List MOp) (f : Tile → Tile) (ht : (s.teams.find t).isSome) :
    (s.mPop t r).modTeam t (·.setTile k (f (((s.mPop t r).team t).tile k))) = s.modTeam t fun T => { T.setTile k (f (T.tile k)) with mq := r } := by
  rw [team_mPop ht, State.mPop, State.modTeam_modTeam]
  exact State.modTeam_congr _ _ _ _ rfl

/-- The effect of an operation that answers in a register of the sequencer: MCHK and MLOC. -/
theorem mPop_setT (s : State) (t : Nat) (d : Reg) (r : List MOp) (x : Word) (ht : (s.teams.find t).isSome) :
    let s' := (s.mPop t r).modSeq t (·.setT d.toNat x)
    (s'.team t).mq = r ∧ (d ≠ 0 → (s'.team t).seq.t.get d.toNat 0 = x) := by
  have hteam : ((s.mPop t r).modSeq t (·.setT d.toNat x)).team t = { s.team t with mq := r, seq := (s.team t).seq.setT d.toNat x } := by
    rw [State.modSeq, State.mPop, State.modTeam_modTeam, State.team_modTeam s t t _ ht, if_pos rfl]
  intro s'
  rw [hteam]
  refine ⟨rfl, fun hd => ?_⟩
  have hne : d.toNat ≠ 0 := fun h0 => hd (BitVec.eq_of_toNat_eq h0)
  exact (Seq.get_setT _ _ _ _ hne).trans (if_pos rfl)

/-- R265 to R269, R272, R273: a product is added, and an operation that touches no memory completes with its effect. -/
theorem matrixComputes : Claims.MatrixComputes := by
  intro s t o r ht hq hp hs T
  refine ⟨fun m hm hf hi => ?_, fun hd => ?_⟩
  · intro product
    have hexec := exec_mmaAttemptDone_multiplies hq hp hs hm hf hi
    refine ⟨⟨_, hexec, rfl⟩, fun hold => ⟨_, hexec, ?_⟩⟩
    rw [operands_of_spOld_nil hold]; rfl
  · have hexec := exec_matrixOpComplete_finishes hq hp hs hd
    have hteam := team_mPop ht r
    refine ⟨fun k hop => ⟨_, hexec (by simp [hop]), ?_⟩, fun a k hop => ⟨_, hexec (by simp [hop]), ?_⟩, fun d k hop => ⟨_, hexec (by simp [hop]), ?_⟩,
      fun d k hop => ⟨_, hexec (by simp [hop]), ?_⟩, fun ⟨m, hm⟩ hraced => ?_⟩
    · simp only [State.mFinish, MOp.tile, hop]
      exact mPop_setTile s t k.toNat r (fun _ => {}) ht
    · simp only [State.mFinish, MOp.tile, hop]
      exact mPop_setTile s t k.toNat r (·.fix o.ta) ht
    · simp only [State.mFinish, MOp.tile, hop, hteam]
      exact mPop_setT s t d r _ ht
    · simp only [State.mFinish, MOp.tile, hop, hteam]
      exact mPop_setT s t d r _ ht
    · refine ⟨_, hexec (fun g a b save k hop => ?_), mFinish_of_product _ t hm hraced⟩
      simp [MOp.product, hop] at hm

/-! ### What MACC loads (R270, R275) -/

/-- Some range in another die has not answered MACC yet. -/
def MOp.awaitsPeer (o : MOp) : Bool :=
  (List.range o.win.length).any fun i => (o.win[i]?.bind (·.peer)).isSome && !(o.got.any fun g => g.1 == i)

theorem MOp.awaitsPeer_iff (o : MOp) :
    o.awaitsPeer = true ↔ ∃ i e, i < o.win.length ∧ (o.win.getD i {}).peer = some e ∧ ∀ x ∈ o.got, x.1 ≠ i := by
  simp only [MOp.awaitsPeer, List.any_eq_true, List.mem_range, Bool.and_eq_true, Bool.not_eq_true', List.any_eq_false, beq_iff_eq, Option.isSome_iff_exists]
  refine exists_congr fun i => ⟨?_, ?_⟩
  · rintro ⟨hi, ⟨e, he⟩, hgot⟩
    exact ⟨e, hi, by simpa [hi] using he, hgot⟩
  · rintro ⟨e, hi, he, hgot⟩
    exact ⟨hi, ⟨e, by simpa [hi] using he⟩, hgot⟩

/-- The state in which MACC has loaded tile `k` with the bytes, and is gone from the queue. -/
def State.mLoaded (s : State) (t k : Nat) (save : Bool) (r : List MOp) (bs : List Byte) : State :=
  s.modTeam t fun T => { T.setTile k (if save then tileOfRecord bs else tileOfRows bs) with mq := r }

/-- The ranges of an operation's window with their places. -/
def MOp.places (o : MOp) : List (Nat × Range) := (List.range o.win.length).zip o.win

/-- R257, R270: a MACC that no byte raced with waits for the data of other dies, then reads its ranges, and loads its tile or takes the fault POISON. -/
theorem exec_matrixOpComplete_macc {s : State} {t : Nat} {o : MOp} {r : List MOp} (hq : (s.team t).mq = o :: r) (hp : (s.team t).phase = .resident)
    (hs : o.started = true) (hraced : o.raced = []) {g save : Bool} {a b : Reg} {k : BitVec 5} (hop : o.op = .macc g a b save k) :
    exec (.matrixOpComplete t) s = .next (if o.awaitsPeer then s else
      (s.mReadAll t o o.places).1.elim ((s.mReadAll t o o.places).2.mFault t 6) ((s.mReadAll t o o.places).2.mLoaded t k.toNat save r)) := by
  have hdue : ¬ (!o.started || (s.team t).phase != .resident || (o.product.isSome && !o.finished)) = true := by simp [hs, hp, MOp.product, hop]
  rw [exec_matrixOpComplete]
  unfold execMatrixOpComplete
  extract_lets T
  split
  · next h => cases hq.symm.trans h
  · next o' r' h =>
    obtain ⟨rfl, rfl⟩ := List.cons.inj (hq.symm.trans h)
    rw [if_neg hdue]
    split
    · next hop' =>
      rw [hop] at hop'
      cases hop'
      by_cases hopen : o.awaitsPeer = true
      · rw [if_pos hopen]
        exact if_pos hopen
      · rw [if_neg hopen]
        refine (if_neg hopen).trans ?_
        split
        · next s₁ hread =>
          rw [show s.mReadAll t o o.places = (none, s₁) from hread]
          rfl
        · next bs s₁ hread =>
          rw [show s.mReadAll t o o.places = (some bs, s₁) from hread, if_pos (by simp [hraced]), show o.tile = k.toNat by simp [MOp.tile, hop]]
          exact congrArg Host.Outcome.next (State.modTeam_modTeam s₁ t _ _)
    · next hother => exact absurd hop (hother _ _ _ _ _)

theorem blurRaced_of_raced_nil (s : State) {o : MOp} (h : o.raced = []) (i : Nat) (bs : List Byte) : s.blurRaced o i bs = (bs, s) := by
  simp [State.blurRaced, State.blur, h]

/-- R275: a clean range of the scratchpad reads as it stands. -/
theorem mRead_scratchpad {s : State} {t : Nat} {r : Range} (hold : (s.team t).spOld = []) (hsp : r.sp = true) (hpeer : r.peer = none)
    (hclean : (s.team t).spPoison r.start r.len = false) (o : MOp) (i : Nat) :
    s.mRead t o i r = (some (rdBytes (s.team t).sp r.start r.len), s) := by
  have hbytes := bytesLE_natLE (rdBytes (s.team t).sp r.start r.len)
  rw [length_rdBytes] at hbytes
  simp [State.mRead, hpeer, hsp, State.spGet, hclean, spOlder_of_spOld_nil hold, hbytes]

theorem mReadAll_scratchpad {s : State} {t : Nat} {o : MOp} (hraced : o.raced = []) (hold : (s.team t).spOld = []) (l : List (Nat × Range))
    (h : ∀ x ∈ l, x.2.sp = true ∧ x.2.peer = none ∧ (s.team t).spPoison x.2.start x.2.len = false) :
    s.mReadAll t o l = (some (l.flatMap fun x => rdBytes (s.team t).sp x.2.start x.2.len), s) := by
  induction l with
  | nil => rfl
  | cons x l ih =>
    obtain ⟨i, r⟩ := x
    obtain ⟨⟨hsp, hpeer, hclean⟩, hl⟩ := List.forall_mem_cons.1 h
    simp only [State.mReadAll, mRead_scratchpad hold hsp hpeer hclean, blurRaced_of_raced_nil s hraced, ih hl, Option.map_some, List.flatMap_cons]

theorem MOp.map_snd_places (o : MOp) : o.places.map Prod.snd = o.win := List.map_snd_zip (by simp)

theorem MOp.mem_win_of_mem_places {o : MOp} {x : Nat × Range} (h : x ∈ o.places) : x.2 ∈ o.win := (List.of_mem_zip h).2

/-! ### The rows that MDRAIN writes (R274) -/

/-- Bytes cut to the lengths of ranges, each with its range. -/
def cutRows : List Range → List Byte → List (Range × List Byte)
  | [], _ => []
  | r :: l, bs => (r, bs.take r.len) :: cutRows l (bs.drop r.len)

theorem map_cutRows (l : List Range) (bs : List Byte) : (cutRows l bs).map (fun x => (x.1.start, x.2)) = rowsOf l bs := by
  induction l generalizing bs with
  | nil => rfl
  | cons r l ih => simp [cutRows, rowsOf, ih]

theorem mem_of_mem_cutRows {l : List Range} {bs : List Byte} {x : Range × List Byte} (h : x ∈ cutRows l bs) : x.1 ∈ l := by
  induction l generalizing bs with
  | nil => cases h
  | cons r l ih =>
    rcases List.mem_cons.1 h with rfl | h
    · exact List.mem_cons_self
    · exact List.mem_cons_of_mem _ (ih h)

/-- R277: without a race every row takes the tile's bytes. -/
theorem mBytes_of_raced_nil (s : State) {o : MOp} (h : o.raced = []) (l : List (Nat × Range)) (bs : List Byte) :
    s.mBytes o l bs = (cutRows (l.map Prod.snd) bs, s) := by
  induction l generalizing bs with
  | nil => rfl
  | cons x l ih => obtain ⟨i, r⟩ := x; simp [State.mBytes, blurRaced_of_raced_nil s h, ih, cutRows]

/-- Only rows in a peer are joined. -/
theorem joinRows_of_local (l : List (Range × List Byte)) (h : ∀ x ∈ l, x.1.peer = none) : joinRows l = l := by
  induction l with
  | nil => rfl
  | cons x l ih =>
    obtain ⟨r, bs⟩ := x
    obtain ⟨hr, hl⟩ := List.forall_mem_cons.1 h
    rw [joinRows, ih hl]
    cases l with
    | nil => rfl
    | cons y l => exact if_neg fun hpeer => by simp [show r.peer = none from hr] at hpeer

/-- The lines of device memory that the rows of a drain may fill together. -/
def MOp.drainedLines (o : MOp) : List (Nat × Nat) := o.win.filterMap fun r => if r.sp || r.peer.isSome then none else some (r.start, r.len)

/-- A drain without races and without rows in a peer writes its rows one after another. -/
theorem mWriteAll_of_local (s : State) (t : Nat) {o : MOp} (hraced : o.raced = []) (hlocal : ∀ x ∈ o.win, x.peer = none) (bs : List Byte) :
    s.mWriteAll t o bs = ((cutRows o.win bs).foldl (fun s x => s.mWrite t o x.1 x.2) s).filled (s.team t).origin o.drainedLines := by
  have hcut : ∀ x ∈ cutRows o.win bs, x.1.peer = none := fun x hx => hlocal _ (mem_of_mem_cutRows hx)
  have hbytes : s.mBytes o o.places bs = (cutRows o.win bs, s) := by rw [mBytes_of_raced_nil s hraced, o.map_snd_places]
  rw [MOp.places] at hbytes
  simp only [State.mWriteAll, hbytes, joinRows_of_local _ hcut]
  rfl

/-! ### MDRAIN to the scratchpad -/

/-- Scratchpad bytes as the team's sequencer writes them. -/
def Team.spPut (T : Team) (off : Nat) (bs : List Byte) : Team :=
  { T with
      sp := wrBytes T.sp off bs
      spBad := T.spBad.filter fun w => !(decide (off ≤ 4 * w) && decide (4 * w + 4 ≤ off + bs.length))
      spOld := T.spOld.filter fun (k, _) => !(decide (off ≤ k) && decide (k < off + bs.length)) }

theorem State.spPut_eq (s : State) (t off : Nat) (bs : List Byte) : s.spPut t off bs = s.modTeam t (·.spPut off bs) := rfl

/-- Rows of bytes written to the scratchpad of a team. -/
def Team.spRows (T : Team) (l : List (Nat × List Byte)) : Team := l.foldl (fun T x => T.spPut x.1 x.2) T

theorem Team.spRows_sp (T : Team) (l : List (Nat × List Byte)) : (T.spRows l).sp = withRows T.sp l := by
  induction l generalizing T with
  | nil => rfl
  | cons x l ih => exact ih (T.spPut x.1 x.2)

theorem Team.spRows_keeps (T : Team) (l : List (Nat × List Byte)) : (T.spRows l).mq = T.mq ∧ (T.spRows l).tiles = T.tiles := by
  induction l generalizing T with
  | nil => exact ⟨rfl, rfl⟩
  | cons x l ih => exact ih (T.spPut x.1 x.2)

theorem State.modTeam_eq_self (s : State) (t : Nat) (f : Team → Team) (h : ∀ T, f T = T) : s.modTeam t f = s := by
  rw [State.modTeam, Map.mod_eq_self _ _ _ h]

/-- Rows of the window that lie in the scratchpad are written there. -/
theorem foldl_mWrite_scratchpad (t : Nat) (o : MOp) (l : List (Range × List Byte)) (h : ∀ x ∈ l, x.1.sp = true ∧ x.1.peer = none) (s : State) :
    l.foldl (fun s x => s.mWrite t o x.1 x.2) s = s.modTeam t (·.spRows (l.map fun x => (x.1.start, x.2))) := by
  induction l generalizing s with
  | nil => exact (State.modTeam_eq_self s t _ fun _ => rfl).symm
  | cons x l ih =>
    obtain ⟨⟨hsp, hpeer⟩, hl⟩ := List.forall_mem_cons.1 h
    have hx : s.mWrite t o x.1 x.2 = s.modTeam t (·.spPut x.1.start x.2) := by simp [State.mWrite, hpeer, hsp, State.spPut_eq]
    rw [List.foldl_cons, hx, ih hl, State.modTeam_modTeam]
    rfl

theorem filled_nil (s : State) (d : Nat) : s.filled d [] = s := by
  have hnone (l : List Nat) : (l.filter fun _ => !((List.range 128).all fun _ => false)) = l := List.filter_eq_self.2 fun _ _ => rfl
  unfold State.filled
  dsimp only
  split
  · rfl
  · simp only [List.any_nil, hnone]
    rw [State.modDie, Map.mod_eq_self _ _ _ fun _ => rfl]

/-- R274: MDRAIN to the scratchpad writes its rows there, and nothing else. -/
theorem mWriteAll_scratchpad (s : State) (t : Nat) {o : MOp} (hraced : o.raced = []) (h : ∀ x ∈ o.win, x.sp = true ∧ x.peer = none) (bs : List Byte) :
    s.mWriteAll t o bs = s.modTeam t (·.spRows (rowsOf o.win bs)) := by
  have hlines : o.drainedLines = [] := List.filterMap_eq_nil_iff.2 fun x hx => by simp [h x hx]
  rw [mWriteAll_of_local s t hraced (fun x hx => (h x hx).2), hlines, filled_nil,
    foldl_mWrite_scratchpad t o _ (fun x hx => h _ (mem_of_mem_cutRows hx)), map_cutRows]

/-! ### MDRAIN to pages of the team's die with the A bit (R177, R179) -/

/-- Writing bytes line by line writes them all, where no group is retired (R175, R195). -/
theorem Die.wrLine_mem {D : Die} (h : D.retired = []) (pa : Nat) (bs : List Byte) :
    (D.wrLine pa bs).mem = wrBytes D.mem pa bs ∧ (D.wrLine pa bs).retired = [] ∧ (D.wrLine pa bs).queues = D.queues ∧ (D.wrLine pa bs).func = D.func := by
  simp [Die.wrLine, h]

theorem foldl_wrLine_mem (n : Nat) : ∀ (D : Die) (pa : Nat) (bs : List Byte), D.retired = [] → bs.length ≤ n →
    let E := (linePieces pa bs n).foldl (fun D x => D.wrLine x.1 x.2) D
    E.mem = wrBytes D.mem pa bs ∧ E.retired = [] ∧ E.queues = D.queues ∧ E.func = D.func := by
  induction n with
  | zero =>
    intro D pa bs hr hn
    obtain rfl : bs = [] := List.eq_nil_of_length_eq_zero (by omega)
    exact ⟨rfl, hr, rfl, rfl⟩
  | succ n ih =>
    intro D pa bs hr hn
    rw [linePieces]
    split
    · next hempty =>
      obtain rfl : bs = [] := List.isEmpty_iff.1 hempty
      exact ⟨rfl, hr, rfl, rfl⟩
    · next hempty =>
      have hpos : 0 < bs.length := List.length_pos_iff.2 fun h => hempty (by simp [h])
      have hk : 0 < 128 - pa % 128 := by omega
      generalize 128 - pa % 128 = k at hk
      obtain ⟨hmem, hret, hqueues, hfunc⟩ := D.wrLine_mem hr pa (bs.take k)
      obtain ⟨ihmem, ihret, ihqueues, ihfunc⟩ := ih (D.wrLine pa (bs.take k)) (pa + (bs.take k).length) (bs.drop k) hret (by simp; omega)
      refine ⟨ihmem.trans ?_, ihret, ihqueues.trans hqueues, ihfunc.trans hfunc⟩
      rw [hmem, ← wrBytes_append, List.take_append_drop]

theorem Die.wr_mem {D : Die} (h : D.retired = []) (pa : Nat) (bs : List Byte) :
    (D.wr pa bs).mem = wrBytes D.mem pa bs ∧ (D.wr pa bs).retired = [] ∧ (D.wr pa bs).queues = D.queues ∧ (D.wr pa bs).func = D.func :=
  foldl_wrLine_mem bs.length D pa bs h (Nat.le_refl _)

/-- Between the states the memory of die `d` goes through `f`; its retired groups, queues and registers stand, and so do the other dies and the
receive rings; of the teams only the old contents for fetches (R42) differ. -/
structure WritesDie (s s' : State) (d : Nat) (f : List Host.Cell → List Host.Cell) : Prop where
  mem : (s'.die d).mem = f (s.die d).mem
  retired : (s'.die d).retired = (s.die d).retired
  queues : (s'.die d).queues = (s.die d).queues
  func : (s'.die d).func = (s.die d).func
  others : ∀ e, e ≠ d → s'.die e = s.die e
  has : (s.dies.find d).isSome → (s'.dies.find d).isSome
  netqs : s'.netqs = s.netqs
  teams : ∃ g : Team → Map (List Half), s'.teams = s.teams.each fun _ T => { T with old := g T }

theorem Map.each_eq_self {α : Type} (m : Map α) (f : Nat → α → α) (h : ∀ k v, f k v = v) : m.each f = m := by
  simp [Map.each, h]

theorem Map.each_each {α : Type} (m : Map α) (f g : Nat → α → α) : (m.each f).each g = m.each fun k v => g k (f k v) := by
  simp [Map.each, Function.comp_def]

/-- Teams that stand. -/
theorem teams_each_old (s : State) : s.teams = s.teams.each fun _ T => { T with old := T.old } := (Map.each_eq_self _ _ fun _ _ => rfl).symm

theorem WritesDie.refl (s : State) (d : Nat) : WritesDie s s d id := ⟨rfl, rfl, rfl, rfl, fun _ _ => rfl, fun h => h, rfl, Team.old, teams_each_old s⟩

theorem WritesDie.trans {s s' s'' : State} {d : Nat} {f g : List Host.Cell → List Host.Cell} (h : WritesDie s s' d f) (k : WritesDie s' s'' d g) :
    WritesDie s s'' d (g ∘ f) := by
  obtain ⟨a, ha⟩ := h.teams
  obtain ⟨b, hb⟩ := k.teams
  refine ⟨?_, k.retired.trans h.retired, k.queues.trans h.queues, k.func.trans h.func, fun e he => (k.others e he).trans (h.others e he),
    fun hd => k.has (h.has hd), k.netqs.trans h.netqs, fun T => b { T with old := a T }, ?_⟩
  · rw [k.mem, h.mem]; rfl
  · rw [hb, ha, Map.each_each]

/-- A change of what a die keeps beside its memory. -/
theorem writesDie_modDie (s : State) (d : Nat) (F : Die → Die)
    (hF : ∀ D, (F D).mem = D.mem ∧ (F D).retired = D.retired ∧ (F D).queues = D.queues ∧ (F D).func = D.func) : WritesDie s (s.modDie d F) d id := by
  have hdie : (s.modDie d F).die d = F (s.die d) ∨ (s.modDie d F).die d = s.die d := by
    by_cases h : (s.dies.find d).isSome
    · exact .inl (by rw [State.die_modDie s d d F h, if_pos rfl])
    · have hnone : s.dies.find d = none := by simpa using h
      exact .inr (by simp [State.die, Map.get, Map.find_mod, hnone])
  have hkeep : ((s.modDie d F).die d).mem = (s.die d).mem ∧ ((s.modDie d F).die d).retired = (s.die d).retired ∧
      ((s.modDie d F).die d).queues = (s.die d).queues ∧ ((s.modDie d F).die d).func = (s.die d).func := by
    rcases hdie with h | h <;> rw [h]
    · exact hF _
    · exact ⟨rfl, rfl, rfl, rfl⟩
  obtain ⟨hmem, hret, hqueues, hfunc⟩ := hkeep
  exact ⟨hmem, hret, hqueues, hfunc, fun e he => State.die_modDie_ne s F he, fun h => by rw [State.find_modDie, if_pos rfl, Option.isSome_map]; exact h,
    rfl, Team.old, teams_each_old s⟩

theorem writesDie_ctr (s : State) (d n : Nat) : WritesDie s { s with ctr := n } d id :=
  ⟨rfl, rfl, rfl, rfl, fun _ _ => rfl, fun h => h, rfl, Team.old, teams_each_old s⟩

theorem wayFor_ctr (s : State) (ls : List CLine) (kind n set : Nat) :
    (s.wayFor ls kind n set).2 = { s with ctr := (s.wayFor ls kind n set).2.ctr } := by
  unfold State.wayFor
  dsimp only
  split
  · rfl
  · split
    · rfl
    · unfold State.choose
      split <;> rfl

theorem writesDie_buffer (s : State) (d pa : Nat) (dirty : Bool) : WritesDie s (s.buffer d pa dirty) d id := by
  unfold State.buffer
  dsimp only
  split
  · exact writesDie_modDie s d _ fun _ => ⟨rfl, rfl, rfl, rfl⟩
  · have hway := wayFor_ctr s ((s.die d).msb.get (stackOf pa) []) 2 (4 * d + stackOf pa) (Config.setIndex 2 0 (pa / 128) % Config.cacheSets 2)
    have hctr := hway ▸ writesDie_ctr s d _
    split
    · exact hctr
    · refine WritesDie.trans (f := id) (g := id) hctr ?_
      exact writesDie_modDie _ d _ fun _ => ⟨rfl, rfl, rfl, rfl⟩

theorem writesDie_mapped (s : State) (d space va : Nat) (page : Page) (p : Nat) : WritesDie s (s.mapped d space va page p) d id := by
  unfold State.mapped
  dsimp only
  split
  · exact .refl s d
  · exact writesDie_modDie s d _ fun _ => ⟨rfl, rfl, rfl, rfl⟩

/-- R179: a page with the A bit is served at its own place, in the base die. -/
theorem place_alias (s : State) (space va : Nat) {page : Page} (ha : page.a = true) (pa : Nat) (dirty : Bool) :
    s.place space va page pa dirty = (pa, (s.buffer (space / 4096) pa dirty).mapped (space / 4096) space va page pa) := by
  simp [State.place, ha]

/-- A write of team `t`'s engine to die `d` touches nothing but memory: no other team has a matrix operation whose window it could meet, no receive ring,
queue or registration table takes note of it, and no group is retired. -/
structure PlainDie (s : State) (t d : Nat) : Prop where
  alone : ∀ x ∈ s.teams, x.1 ≠ t → x.2.mOps = []
  netqs : s.netqs = []
  has : (s.dies.find d).isSome
  retired : (s.die d).retired = []
  queues : (s.die d).queues = []
  table : (s.die d).func.base.get 0x11000 0 = 0

theorem WritesDie.plainDie {s s' : State} {d : Nat} {f : List Host.Cell → List Host.Cell} (h : WritesDie s s' d f) {t : Nat} (hs : PlainDie s t d) :
    PlainDie s' t d := by
  obtain ⟨g, hg⟩ := h.teams
  refine ⟨fun x hx hne => ?_, h.netqs.trans hs.netqs, h.has hs.has, h.retired.trans hs.retired, h.queues.trans hs.queues, by rw [h.func]; exact hs.table⟩
  rw [hg] at hx
  obtain ⟨T, hT, hxT⟩ := mem_each hx
  rw [hxT]
  exact hs.alone _ hT hne

theorem WritesDie.team_eq {s s' : State} {d : Nat} {f : List Host.Cell → List Host.Cell} (h : WritesDie s s' d f) (t : Nat) :
    ∃ old, s'.team t = { s.team t with old := old } := by
  obtain ⟨g, hg⟩ := h.teams
  simp only [State.team, Map.get, hg, Map.find_each]
  cases s.teams.find t with
  | none => exact ⟨_, rfl⟩
  | some T => exact ⟨_, rfl⟩

/-- R42: of the teams a raw write changes the old contents for fetches only. -/
theorem wrRaw_teams (s : State) (d pa : Nat) (bs : List Byte) : (s.wrRaw d pa bs).teams =
    Map.each s.teams fun _ T => { T with old := if T.origin = d then keepOld T.old (s.die d).mem pa bs.length else T.old } := by
  calc (s.wrRaw d pa bs).teams
      = Map.each s.teams fun _ T => if T.origin = d then { T with old := keepOld T.old (s.die d).mem pa bs.length } else T := rfl
    _ = _ := congrArg (Map.each s.teams) (funext fun _ => funext fun T => by by_cases h : T.origin = d <;> simp [h])

theorem WritesDie.find_team_isSome {s s' : State} {d : Nat} {f : List Host.Cell → List Host.Cell} (h : WritesDie s s' d f) (t : Nat) :
    (s'.teams.find t).isSome = (s.teams.find t).isSome := by
  obtain ⟨g, hg⟩ := h.teams
  rw [hg, Map.find_each, Option.isSome_map]

/-- R42, R175: a raw write writes the bytes. -/
theorem writesDie_wrRaw {s : State} {t d : Nat} (hs : PlainDie s t d) (pa : Nat) (bs : List Byte) : WritesDie s (s.wrRaw d pa bs) d (wrBytes · pa bs) := by
  obtain ⟨hmem, hret, hqueues, hfunc⟩ := Die.wr_mem hs.retired pa bs
  have hdie : (s.wrRaw d pa bs).die d = (s.die d).wr pa bs := (State.die_modDie s d d (·.wr pa bs) hs.has).trans (if_pos rfl)
  refine ⟨by rw [hdie, hmem], by rw [hdie, hret, hs.retired], by rw [hdie, hqueues], by rw [hdie, hfunc], fun e he => State.die_modDie_ne s _ he, fun h => ?_, rfl,
    _, wrRaw_teams s d pa bs⟩
  show ((s.modDie d _).dies.find d).isSome
  rw [State.find_modDie, if_pos rfl, Option.isSome_map]
  exact h

/-- R277: no operation races with the write. -/
theorem raceMem_of_alone {s : State} {t : Nat} (h : ∀ x ∈ s.teams, x.1 ≠ t → x.2.mOps = []) (d pa n : Nat) (write : Bool) :
    s.raceMem d pa n write (some t) = ([], s) := by
  have hothers : (s.teams.filter fun (u, T) => some t != some u && !T.mOps.isEmpty) = [] := by
    refine List.filter_eq_nil_iff.2 fun x hx => ?_
    by_cases ht : x.1 = t
    · simp [ht]
    · simp [h x hx ht]
  simp only [State.raceMem, hothers]
  rfl

theorem wrMem_of_plainDie {s : State} {t d : Nat} (hs : PlainDie s t d) (pa : Nat) (bs : List Byte) : s.wrMem d pa bs (some t) = s.wrRaw d pa bs := by
  have hwritten := writesDie_wrRaw hs pa bs
  have hfree : s.wrFree d pa bs (some t) = s.wrRaw d pa bs := by simp [State.wrFree, raceMem_of_alone hs.alone, State.blur]
  have htable : (s.wrRaw d pa bs).smearTable d pa bs.length = s.wrRaw d pa bs := by simp [State.smearTable, hwritten.func, hs.table]
  simp [State.wrMem, hfree, htable, hwritten.queues, hs.queues]

/-- R179: a store of the engine to a page with the A bit writes its bytes. -/
theorem writesDie_store {s : State} {t d : Nat} (hs : PlainDie s t d) {space : Nat} (hd : space / 4096 = d) (va : Nat) {page : Page} (ha : page.a = true)
    (pa : Nat) (bs : List Byte) : WritesDie s (s.store space va page pa bs (some t)) d (wrBytes · pa bs) := by
  subst hd
  have hplace := (writesDie_buffer s (space / 4096) pa true).trans (writesDie_mapped (s.buffer (space / 4096) pa true) (space / 4096) space va page pa)
  unfold State.store
  rw [place_alias s space va ha]
  dsimp only
  generalize (s.buffer (space / 4096) pa true).mapped (space / 4096) space va page pa = s₁ at hplace ⊢
  have hs₁ := hplace.plainDie hs
  have hrecord : s₁.recordAt space va bs.length = none := by simp [State.recordAt, hs₁.netqs]
  have hstore : s₁.storeTo space va page pa bs (some t) = s₁.wrRaw (space / 4096) pa bs := by
    simp only [State.storeTo, hrecord, State.smearRecord, State.putTo, wrMem_of_plainDie hs₁]
    exact if_pos ha
  rw [hstore]
  exact hplace.trans (writesDie_wrRaw hs₁ pa bs)

theorem Team.space_div (T : Team) : T.space / 4096 = T.origin := by unfold Team.space; omega

/-- Rows of the window that lie in such pages of the team's die are written there. -/
theorem foldl_mWrite_alias (t d : Nat) (o : MOp) (l : List (Range × List Byte)) (h : ∀ x ∈ l, x.1.sp = false ∧ x.1.peer = none ∧ x.1.alias_ = true) (s : State)
    (hs : PlainDie s t d) (hd : (s.team t).origin = d) :
    WritesDie s (l.foldl (fun s x => s.mWrite t o x.1 x.2) s) d (withRows · (l.map fun x => (x.1.start, x.2))) := by
  induction l generalizing s with
  | nil => exact .refl s d
  | cons x l ih =>
    obtain ⟨⟨hsp, hpeer, halias⟩, hl⟩ := List.forall_mem_cons.1 h
    have hx : s.mWrite t o x.1 x.2 = s.store (s.team t).space x.1.va x.1.page x.1.start x.2 (some t) := by simp [State.mWrite, hpeer, hsp]
    have hrow : WritesDie s (s.mWrite t o x.1 x.2) d (wrBytes · x.1.start x.2) :=
      hx ▸ writesDie_store hs ((Team.space_div _).trans hd) _ halias _ _
    obtain ⟨old, hteam⟩ := hrow.team_eq t
    exact hrow.trans (ih hl _ (hrow.plainDie hs) (by rw [hteam]; exact hd))

theorem writesDie_filled (s : State) (d : Nat) (ws : List (Nat × Nat)) : WritesDie s (s.filled d ws) d id := by
  unfold State.filled
  dsimp only
  split
  · exact .refl s d
  · exact writesDie_modDie s d _ fun _ => ⟨rfl, rfl, rfl, rfl⟩

/-- R274, R177: MDRAIN to such pages of its die writes its rows there. -/
theorem mWriteAll_alias {s : State} {t : Nat} {o : MOp} (hs : PlainDie s t (s.team t).origin) (hraced : o.raced = [])
    (h : ∀ x ∈ o.win, x.sp = false ∧ x.peer = none ∧ x.alias_ = true) (bs : List Byte) :
    WritesDie s (s.mWriteAll t o bs) (s.team t).origin (withRows · (rowsOf o.win bs)) := by
  rw [mWriteAll_of_local s t hraced (fun x hx => (h x hx).2.1), ← map_cutRows]
  exact (foldl_mWrite_alias t _ o _ (fun x hx => h _ (mem_of_mem_cutRows hx)) s hs rfl).trans (writesDie_filled _ _ _)

/-! ### MATRIX_OP_COMPLETE of MACC and MDRAIN -/

/-- R274: with Z a drained tile is cleared. -/
def State.mCleared (s : State) (t k : Nat) (z : Bool) : State := if z then s.modTeam t (·.setTile k {}) else s

/-- Clearing a tile touches nothing else of the state. -/
theorem mCleared_eq_modTeam (s : State) (t k : Nat) (z : Bool) : s.mCleared t k z = s.modTeam t fun T => if z then T.setTile k {} else T := by
  cases z
  · exact (State.modTeam_eq_self s t _ fun _ => rfl).symm
  · rfl

theorem Team.tile_setTile (T : Team) (k : Nat) (A : Tile) : (T.setTile k A).tile k = A := by simp [Team.tile, Team.setTile, Map.get]

/-- R274, R257: MDRAIN completes with its writes, and then clears its tile under Z. -/
theorem exec_matrixOpComplete_mdrain {s : State} {t : Nat} {o : MOp} {r : List MOp} (ht : (s.teams.find t).isSome) (hq : (s.team t).mq = o :: r)
    (hp : (s.team t).phase = .resident) (hs : o.started = true) {g z : Bool} {rnd lc : BitVec 2} {a b : Reg} {fmt : BitVec 3} {k : BitVec 5}
    (hop : o.op = .mdrain g z rnd lc a b fmt k) :
    exec (.matrixOpComplete t) s =
      .next (((s.mPop t r).mWriteAll t o (((s.team t).tile k.toNat).drained fmt.toNat rnd.toNat lc.toNat)).mCleared t k.toNat z) := by
  rw [exec_matrixOpComplete_finishes hq hp hs (.inl (by simp [MOp.product, hop])) (by simp [hop])]
  simp only [State.mFinish, hop, MOp.tile, team_mPop ht]
  rfl

/-- The state with the head gone stands as plainly for the team's engine. -/
theorem plainDie_mPop {s : State} {t d : Nat} (hs : PlainDie s t d) (r : List MOp) : PlainDie (s.mPop t r) t d := by
  refine ⟨fun x hx hne => ?_, hs.netqs, hs.has, hs.retired, hs.queues, hs.table⟩
  rcases mem_mod hx with hx | ⟨T, -, rfl⟩
  · exact hs.alone x hx hne
  · exact absurd rfl hne

/-- The team once MDRAIN has left its queue and written the rows to its scratchpad, tile `k` cleared under Z. -/
def Team.drainedTo (T : Team) (r : List MOp) (l : List (Nat × List Byte)) (k : Nat) (z : Bool) : Team :=
  if z then (Team.spRows { T with mq := r } l).setTile k {} else Team.spRows { T with mq := r } l

theorem Team.drainedTo_sp (T : Team) (r : List MOp) (l : List (Nat × List Byte)) (k : Nat) (z : Bool) : (T.drainedTo r l k z).sp = withRows T.sp l := by
  cases z <;> exact Team.spRows_sp { T with mq := r } l

theorem Team.drainedTo_mq (T : Team) (r : List MOp) (l : List (Nat × List Byte)) (k : Nat) (z : Bool) : (T.drainedTo r l k z).mq = r := by
  cases z <;> exact (Team.spRows_keeps { T with mq := r } l).1

theorem Team.drainedTo_tile (T : Team) (r : List MOp) (l : List (Nat × List Byte)) (k : Nat) (z : Bool) :
    (T.drainedTo r l k z).tile k = if z then {} else T.tile k := by
  cases z
  · exact congrArg (fun m : Map Tile => m.get k {}) (Team.spRows_keeps { T with mq := r } l).2
  · exact Team.tile_setTile _ k {}

/-- R274: what MDRAIN to the scratchpad leaves. -/
theorem mdrain_scratchpad {s : State} {t : Nat} {o : MOp} (ht : (s.teams.find t).isSome) (hraced : o.raced = [])
    (h : ∀ x ∈ o.win, x.sp = true ∧ x.peer = none) (r : List MOp) (bs : List Byte) (k : Nat) (z : Bool) :
    let s' := ((s.mPop t r).mWriteAll t o bs).mCleared t k z
    (s'.team t).sp = withRows (s.team t).sp (rowsOf o.win bs) ∧ (s'.team t).mq = r ∧ (s'.team t).tile k = (if z then {} else (s.team t).tile k) ∧
    s'.dies = s.dies ∧ ∀ u, u ≠ t → s'.team u = s.team u := by
  intro s'
  have hs' : s' = s.modTeam t (·.drainedTo r (rowsOf o.win bs) k z) := by
    simp only [s', mWriteAll_scratchpad _ t hraced h, mCleared_eq_modTeam, State.mPop, State.modTeam_modTeam, Team.drainedTo]
  have hteam : s'.team t = (s.team t).drainedTo r (rowsOf o.win bs) k z := by rw [hs', State.team_modTeam s t t _ ht, if_pos rfl]
  rw [hteam]
  exact ⟨Team.drainedTo_sp _ _ _ _ _, Team.drainedTo_mq _ _ _ _ _, Team.drainedTo_tile _ _ _ _ _, by rw [hs']; rfl,
    fun u hu => by rw [hs', State.team_modTeam_ne _ _ hu]⟩

/-- R274, R177: what MDRAIN to such pages of its die leaves. -/
theorem mdrain_alias {s : State} {t : Nat} {o : MOp} (ht : (s.teams.find t).isSome) (hs : PlainDie s t (s.team t).origin) (hraced : o.raced = [])
    (h : ∀ x ∈ o.win, x.sp = false ∧ x.peer = none ∧ x.alias_ = true) (r : List MOp) (bs : List Byte) (k : Nat) (z : Bool) :
    let s' := ((s.mPop t r).mWriteAll t o bs).mCleared t k z
    (s'.die (s.team t).origin).mem = withRows (s.die (s.team t).origin).mem (rowsOf o.win bs) ∧ (∀ d, d ≠ (s.team t).origin → s'.die d = s.die d) ∧
    (s'.team t).mq = r ∧ (s'.team t).tile k = (if z then {} else (s.team t).tile k) ∧ (s'.team t).sp = (s.team t).sp := by
  have hpop := team_mPop ht r
  have hwrites : WritesDie (s.mPop t r) ((s.mPop t r).mWriteAll t o bs) (s.team t).origin (withRows · (rowsOf o.win bs)) := by
    have horigin : ((s.mPop t r).team t).origin = (s.team t).origin := by rw [hpop]
    exact horigin ▸ mWriteAll_alias (horigin ▸ plainDie_mPop hs r) hraced h bs
  have ht₁ : (((s.mPop t r).mWriteAll t o bs).teams.find t).isSome := by
    rw [hwrites.find_team_isSome, State.mPop, State.find_modTeam, if_pos rfl, Option.isSome_map]; exact ht
  obtain ⟨old, hold⟩ := hwrites.team_eq t
  rw [mCleared_eq_modTeam]
  generalize (s.mPop t r).mWriteAll t o bs = s₁ at hwrites ht₁ hold
  intro s'
  have hteam : s'.team t = if z then (s₁.team t).setTile k {} else s₁.team t := (State.team_modTeam s₁ t t _ ht₁).trans (if_pos rfl)
  rw [hold, hpop] at hteam
  refine ⟨hwrites.mem, hwrites.others, ?_, ?_, ?_⟩ <;> rw [hteam]
  · cases z <;> rfl
  · cases z
    · rfl
    · exact Team.tile_setTile _ k {}
  · cases z <;> rfl

/-- R270, R274: MACC loads its tile, and MDRAIN writes its rows. -/
theorem matrixMoves : Claims.MatrixMoves := by
  intro s t o r ht hq hp hs hraced T ranges
  refine ⟨fun g a b save k hop => ?_, fun g z rnd lc a b fmt k hop => ?_⟩
  · intro loads
    have hexec := exec_matrixOpComplete_macc hq hp hs hraced hop
    have hawaits := o.awaitsPeer_iff
    refine ⟨fun hopen => ⟨s, by rw [hexec, if_pos (hawaits.2 hopen)], rfl⟩, fun hwin hold => ?_, fun hgot => ?_⟩
    · have hread := mReadAll_scratchpad hraced hold o.places fun x hx => hwin _ (MOp.mem_win_of_mem_places hx)
      have hclosed : ¬ o.awaitsPeer = true := fun hopen => by
        obtain ⟨i, e, hi, he, -⟩ := hawaits.1 hopen
        obtain ⟨-, hpeer, -⟩ := hwin (o.win.getD i {}) (by simp [hi])
        cases he.symm.trans hpeer
      have hbytes : (o.places.flatMap fun x => rdBytes (s.team t).sp x.2.start x.2.len) = o.win.flatMap fun x => rdBytes (s.team t).sp x.start x.len := by
        rw [← o.map_snd_places, List.flatMap_map]
      rw [if_neg hclosed, hread, hbytes] at hexec
      exact ⟨_, hexec, rfl⟩
    · have hclosed : ¬ o.awaitsPeer = true := fun hopen => by
        obtain ⟨i, e, hi, he, hnone⟩ := hawaits.1 hopen
        obtain ⟨x, hx, rfl⟩ := hgot i hi (by rw [he]; rfl)
        exact hnone x hx rfl
      rw [if_neg hclosed] at hexec
      refine ⟨fun bs s1 hread => ⟨_, hexec, ?_⟩, fun s1 hread => ⟨_, hexec, ?_⟩⟩ <;> rw [show s.mReadAll t o o.places = _ from hread] <;> rfl
  · intro A bs popped left
    have hexec := exec_matrixOpComplete_mdrain ht hq hp hs hop
    refine ⟨⟨_, hexec, rfl⟩, fun hwin => ⟨_, hexec, mdrain_scratchpad ht hraced hwin r bs k.toNat z⟩,
      fun hwin halone hnetqs hhas hretired hqueues htable => ⟨_, hexec, ?_⟩⟩
    exact mdrain_alias ht ⟨halone, hnetqs, hhas, hretired, hqueues, htable⟩ hraced hwin r bs k.toNat z

/-- Settles O26: the oldest operation starts (`matrixStarts`), computes (`matrixComputes`) and moves its bytes (`matrixMoves`). -/
theorem matrixEngine : Obligations.MatrixEngine := ⟨matrixStarts, matrixComputes, matrixMoves⟩

end Sys2Proof.Machine

/-! PROOFS. Decoding and encoding are inverse to each other (R38, R39, R43 to R63, R260). -/

namespace Sys2Proof

/-! ### Fields of numbers -/

theorem bits_eq_mod_div {x hi lo : Nat} (h : lo ≤ hi) : bits x hi lo = x % 2 ^ (hi + 1) / 2 ^ lo := by
  have hpow : 2 ^ (hi + 1) = 2 ^ lo * 2 ^ (hi + 1 - lo) := by rw [← pow_add]; congr 1; omega
  rw [bits, hpow, Nat.mod_mul_right_div_self]

/-- A field below what is added. -/
theorem bits_add_low {x y hi lo : Nat} (h : lo ≤ hi) (hx : 2 ^ (hi + 1) ∣ x) : bits (x + y) hi lo = bits y hi lo := by
  rw [bits_eq_mod_div h, bits_eq_mod_div h, Nat.add_mod, Nat.mod_eq_zero_of_dvd hx, Nat.zero_add, Nat.mod_mod]

theorem bitOf_eq_bits (x n : Nat) : bitOf x n = (bits x n n == 1) := by
  simp [bitOf, bits]


theorem bitOf_of_bits {x n : Nat} {b : Bool} (h : bits x n n = b.toNat) : bitOf x n = b := by
  rw [bitOf_eq_bits, h]; cases b <;> rfl

theorem ofNat_eq_of_eq {n k : Nat} {v : BitVec n} (h : k = v.toNat) : BitVec.ofNat n k = v := by
  rw [h, BitVec.ofNat_toNat, BitVec.setWidth_eq]

theorem ofNat_bits_zero {n : Nat} (x : Nat) : BitVec.ofNat (n + 1) (bits x n 0) = BitVec.ofNat (n + 1) x :=
  BitVec.eq_of_toNat_eq (by simp [bits])

theorem Cond.ofCode_code (c : Cond) : Cond.ofCode c.code = some c := by cases c <;> rfl
theorem Scope.ofCode_code (c : Scope) : Scope.ofCode c.code = some c := by cases c <;> rfl
theorem FOrder.ofCode_code (c : FOrder) : FOrder.ofCode c.code = c := by cases c <;> rfl
theorem Cond.code_lt (c : Cond) : c.code < 8 := by cases c <;> decide
theorem Scope.code_lt (c : Scope) : c.code < 8 := by cases c <;> decide
theorem FOrder.code_lt (c : FOrder) : c.code < 4 := by cases c <;> decide

/-! ### The fields of a word in each form (R43) -/

namespace Dec

/-! ### The families (R48) -/

section Families
variable {w x : Nat}

theorem scalarTerm_alu (h : bits w 31 26 = 0x00) : scalarTerm w x = alu w := by simp only [scalarTerm, h]
theorem scalarTerm_satom (h : bits w 31 26 = 0x10) : scalarTerm w x = satom w := by simp only [scalarTerm, h]
theorem scalarTerm_branch (h : bits w 31 26 = 0x11) : scalarTerm w x = branch w := by simp only [scalarTerm, h]
theorem scalarTerm_fence (h : bits w 31 26 = 0x17) : scalarTerm w x = fence w := by simp only [scalarTerm, h]
theorem scalarTerm_sys (h : bits w 31 26 = 0x18) : scalarTerm w x = sys w := by simp only [scalarTerm, h]
theorem scalarTerm_aw (h : bits w 31 26 = 0x1B) : scalarTerm w x = aw w := by simp only [scalarTerm, h]
theorem scalarTerm_ph (h : bits w 31 26 = 0x1C) : scalarTerm w x = ph w := by simp only [scalarTerm, h]
theorem scalarTerm_cpy (h : bits w 31 26 = 0x1D) : scalarTerm w x = cpy w := by simp only [scalarTerm, h]
theorem scalarTerm_net (h : bits w 31 26 = 0x1E) : scalarTerm w x = net w := by simp only [scalarTerm, h]
theorem scalarTerm_launch (h : bits w 31 26 = 0x1F) : scalarTerm w x = launch w := by simp only [scalarTerm, h]
theorem scalarTerm_priv (h : bits w 31 26 = 0x20) : scalarTerm w x = priv w := by simp only [scalarTerm, h]

end Families

/-- What stands in the fields of a word of the R form. -/
structure IsR (w o x y z f : Nat) : Prop where
  op : bits w 31 26 = o
  d : bits w 25 20 = x
  a : bits w 19 14 = y
  b : bits w 13 8 = z
  fn : bits w 7 0 = f
  part : ∀ hi < 8, ∀ lo ≤ hi, bits w hi lo = bits f hi lo

/-- What stands in the fields of a word of the I form. -/
structure IsI (w o x y k : Nat) : Prop where
  op : bits w 31 26 = o
  d : bits w 25 20 = x
  a : bits w 19 14 = y
  imm : bits w 13 0 = k
  part : ∀ hi < 14, ∀ lo ≤ hi, bits w hi lo = bits k hi lo

section Forms
variable {w o x y z f k : Nat}

theorem isR_r (ho : o < 64) (hx : x < 64) (hy : y < 64) (hz : z < 64) (hf : f < 256) : IsR (Enc.r o x y z f) o x y z f where
  op := by simp only [bits, Enc.r]; omega
  d := by simp only [bits, Enc.r]; omega
  a := by simp only [bits, Enc.r]; omega
  b := by simp only [bits, Enc.r]; omega
  fn := by simp only [bits, Enc.r]; omega
  part hi hhi _ hlo := by
    have hdvd : 2 ^ 8 ∣ o * 2 ^ 26 + x * 2 ^ 20 + y * 2 ^ 14 + z * 2 ^ 8 := by omega
    exact bits_add_low hlo ((Nat.pow_dvd_pow 2 hhi).trans hdvd)

theorem isI_i (ho : o < 64) (hx : x < 64) (hy : y < 64) (hk : k < 2 ^ 14) : IsI (Enc.i o x y k) o x y k where
  op := by simp only [bits, Enc.i]; omega
  d := by simp only [bits, Enc.i]; omega
  a := by simp only [bits, Enc.i]; omega
  imm := by simp only [bits, Enc.i]; omega
  part hi hhi _ hlo := by
    have hdvd : 2 ^ 14 ∣ o * 2 ^ 26 + x * 2 ^ 20 + y * 2 ^ 14 := by omega
    exact bits_add_low hlo ((Nat.pow_dvd_pow 2 hhi).trans hdvd)

theorem IsR.fd (h : IsR w o x y z f) : fd w = BitVec.ofNat 6 x := congrArg _ h.d
theorem IsR.fa (h : IsR w o x y z f) : fa w = BitVec.ofNat 6 y := congrArg _ h.a
theorem IsR.fb (h : IsR w o x y z f) : fb w = BitVec.ofNat 6 z := congrArg _ h.b
theorem IsI.fd (h : IsI w o x y k) : fd w = BitVec.ofNat 6 x := congrArg _ h.d
theorem IsI.fa (h : IsI w o x y k) : fa w = BitVec.ofNat 6 y := congrArg _ h.a

theorem IsR.bit (h : IsR w o x y z f) (n : Nat) (hn : n < 8) : bitOf w n = bitOf f n := by
  rw [bitOf_eq_bits, bitOf_eq_bits, h.part n hn n (Nat.le_refl n)]

theorem IsR.tile (h : IsR w o x y z f) : tile w = BitVec.ofNat 5 f := by
  rw [Dec.tile, h.part 4 (by omega) 0 (by omega), ofNat_bits_zero]

theorem IsI.imm14 (h : IsI w o x y k) : imm14 w = BitVec.ofNat 14 k := by
  rw [Dec.imm14, h.imm]

/-- fn of SATOM (R226). -/
theorem IsR.satom {sc : Scope} {wide : Bool} (h : IsR w o x y z (k * 16 + sc.code * 2 + wide.toNat)) (hk : k < 16) :
    bits w 7 4 = k ∧ bits w 3 1 = sc.code ∧ bitOf w 0 = wide := by
  have hs := sc.code_lt
  have hw := wide.toNat_lt
  rw [h.part 7 (by omega) 4 (by omega), h.part 3 (by omega) 1 (by omega), h.bit 0 (by omega)]
  exact ⟨by simp only [bits]; omega, by simp only [bits]; omega, bitOf_of_bits (by simp only [bits]; omega)⟩

/-- The immediate of a shift (R87). -/
theorem IsI.shift {n : BitVec 6} (h : IsI w o x y n.toNat) : bits w 13 6 = 0 ∧ BitVec.ofNat 6 (bits w 5 0) = n := by
  rw [h.part 13 (by omega) 6 (by omega), h.part 5 (by omega) 0 (by omega)]
  exact ⟨by simp only [bits]; omega, ofNat_eq_of_eq (by simp only [bits]; omega)⟩

/-- The M form (R43). -/
theorem IsI.memory {z : BitVec 2} {k : BitVec 12} (h : IsI w o x y (z.toNat * 2 ^ 12 + k.toNat)) : sz w = z ∧ imm12 w = k := by
  rw [sz, imm12, h.part 13 (by omega) 12 (by omega), h.part 11 (by omega) 0 (by omega)]
  exact ⟨ofNat_eq_of_eq (by simp only [bits]; omega),
    ofNat_eq_of_eq (by simp only [bits]; omega)⟩

theorem cpyFn_lt {phs ord sto : Bool} (hk : k < 16) : Enc.cpyFn k phs ord sto < 256 := by
  have := phs.toNat_lt; have := ord.toNat_lt; have := sto.toNat_lt
  simp only [Enc.cpyFn]; omega

/-- fn of CPY (R52). -/
theorem IsR.cpy {phs ord sto : Bool} (h : IsR w o x y z (Enc.cpyFn k phs ord sto)) (hk : k < 16) :
    bits w 3 0 = k ∧ bitOf w 6 = phs ∧ bitOf w 5 = ord ∧ bitOf w 4 = sto ∧ bitOf w 7 = false := by
  rw [h.part 3 (by omega) 0 (by omega), h.bit 4 (by omega), h.bit 5 (by omega), h.bit 6 (by omega), h.bit 7 (by omega)]
  cases phs <;> cases ord <;> cases sto <;> simp [bits, bitOf, Enc.cpyFn] <;> omega

/-- fn of MACC (R260). -/
theorem IsR.macc {t : BitVec 5} {save : Bool} (h : IsR w o x y z (save.toNat * 32 + t.toNat)) :
    bits w 7 0 / 32 = save.toNat ∧ Dec.tile w = t := by
  have hs := save.toNat_lt
  refine ⟨by rw [h.fn]; omega, ?_⟩
  rw [h.tile]
  exact BitVec.eq_of_toNat_eq (by rw [BitVec.toNat_ofNat]; omega)

/-- fn of MDRAIN (R260). -/
theorem IsR.mdrain {t : BitVec 5} {fmt : BitVec 3} (h : IsR w o x y z (fmt.toNat * 32 + t.toNat)) :
    BitVec.ofNat 3 (bits w 7 5) = fmt ∧ Dec.tile w = t := by
  rw [h.tile, h.part 7 (by omega) 5 (by omega)]
  exact ⟨ofNat_eq_of_eq (by simp only [bits]; omega),
    BitVec.eq_of_toNat_eq (by rw [BitVec.toNat_ofNat]; omega)⟩

/-- fn of MMA and MMAS (R260). -/
theorem IsR.mma {lc : BitVec 2} {bi4 : Bool} {slot : BitVec 5} (h : IsR w o x y z (lc.toNat * 64 + bi4.toNat * 32 + slot.toNat)) :
    BitVec.ofNat 2 (bits w 7 6) = lc ∧ bitOf w 5 = bi4 ∧ BitVec.ofNat 5 (bits w 4 0) = slot := by
  have hb := bi4.toNat_lt
  rw [h.part 7 (by omega) 6 (by omega), h.part 4 (by omega) 0 (by omega), h.bit 5 (by omega)]
  refine ⟨ofNat_eq_of_eq (by simp only [bits]; omega), ?_,
    ofNat_eq_of_eq (by simp only [bits]; omega)⟩
  exact bitOf_of_bits (by simp only [bits]; omega)

/-- The d field of MMA and MMAS (R260). -/
theorem IsR.tile_d {t : BitVec 5} (h : IsR w o t.toNat y z f) : BitVec.ofNat 5 (bits w 24 20) = t ∧ bitOf w 25 = false := by
  have hd := h.d
  exact ⟨ofNat_eq_of_eq (by simp only [bits] at *; omega), bitOf_of_bits (b := false) (by simp only [bits, Bool.toNat_false] at *; omega)⟩

/-- The immediate of FENCE (R55). -/
theorem IsI.fence {opr ack : Bool} {sc : Scope} {order : FOrder} (h : IsI w o x y (opr.toNat * 64 + ack.toNat * 32 + sc.code * 4 + order.code)) :
    bits w 4 2 = sc.code ∧ bits w 13 7 = 0 ∧ bits w 1 0 = order.code ∧ bitOf w 5 = ack ∧ bitOf w 6 = opr := by
  have ho := order.code_lt
  have hs := sc.code_lt
  have ha := ack.toNat_lt
  have hp := opr.toNat_lt
  refine ⟨?_, ?_, ?_, bitOf_of_bits ?_, bitOf_of_bits ?_⟩
  · rw [h.part 4 (by omega) 2 (by omega)]; simp only [bits]; omega
  · rw [h.part 13 (by omega) 7 (by omega)]; simp only [bits]; omega
  · rw [h.part 1 (by omega) 0 (by omega)]; simp only [bits]; omega
  · rw [h.part 5 (by omega) 5 (by omega)]; simp only [bits]; omega
  · rw [h.part 6 (by omega) 6 (by omega)]; simp only [bits]; omega

/-- The d field of MDRAIN (R260). -/
theorem drain_d (g z : Bool) (rnd lc : BitVec 2) :
    bitOf (lc.toNat * 16 + rnd.toNat * 4 + z.toNat * 2 + g.toNat) 0 = g ∧ bitOf (lc.toNat * 16 + rnd.toNat * 4 + z.toNat * 2 + g.toNat) 1 = z ∧
    BitVec.ofNat 2 (bits (lc.toNat * 16 + rnd.toNat * 4 + z.toNat * 2 + g.toNat) 3 2) = rnd ∧
    BitVec.ofNat 2 (bits (lc.toNat * 16 + rnd.toNat * 4 + z.toNat * 2 + g.toNat) 5 4) = lc := by
  have hg := g.toNat_lt
  have hz := z.toNat_lt
  refine ⟨bitOf_of_bits ?_, bitOf_of_bits ?_, ofNat_eq_of_eq ?_, ofNat_eq_of_eq ?_⟩
  all_goals simp only [bits]; omega

/-- What stands in the fields of a word of the C form. -/
structure IsBranch (w : Nat) (cc : Cond) (a b : Reg) (off : BitVec 11) : Prop where
  op : bits w 31 26 = 0x11
  cc : bits w 25 23 = cc.code
  a : BitVec.ofNat 6 (bits w 22 17) = a
  b : BitVec.ofNat 6 (bits w 16 11) = b
  off : BitVec.ofNat 11 (bits w 10 0) = off

theorem isBranch_word (cc : Cond) (a b : Reg) (off : BitVec 11) :
    IsBranch (0x11 * 2 ^ 26 + cc.code * 2 ^ 23 + a.toNat * 2 ^ 17 + b.toNat * 2 ^ 11 + off.toNat) cc a b off := by
  have hc := cc.code_lt
  constructor
  · simp only [bits]; omega
  · simp only [bits]; omega
  all_goals exact ofNat_eq_of_eq (by simp only [bits]; omega)

end Forms

end Dec

theorem decodeWords_one {x : Nat} (hx : x < 2 ^ 32) (hop : bits x 31 26 < 0x38) : decodeWords (Enc.one x) = Dec.checked (Dec.scalarTerm x 0) := by
  have hw : (BitVec.ofNat 32 x).toNat = x := by rw [BitVec.toNat_ofNat, Nat.mod_eq_of_lt hx]
  simp [decodeWords, Enc.one, scalarWords, decodeScalar, hw, Nat.not_le.2 hop]

/-- A word decodes to what every word with its fields decodes to. -/
theorem decodeWords_of_fields {x : Nat} {i : Instr} {P : Nat → Prop} (hP : P x) (hx : x < 2 ^ 32) (hop : bits x 31 26 < 0x38)
    (hi : ∀ w, P w → Dec.scalarTerm w 0 = .ok i) : decodeWords (Enc.one x) = Dec.checked (.ok i) := by
  rw [decodeWords_one hx hop, hi x hP]

theorem decodeWords_r {o x y z f : Nat} {i : Instr} (ho : o < 0x38) (hx : x < 64) (hy : y < 64) (hz : z < 64) (hf : f < 256)
    (hi : ∀ w, Dec.IsR w o x y z f → Dec.scalarTerm w 0 = .ok i) : decodeWords (Enc.one (Enc.r o x y z f)) = Dec.checked (.ok i) := by
  have hr := Dec.isR_r (by omega : o < 64) hx hy hz hf
  exact decodeWords_of_fields hr (by simp only [Enc.r]; omega) (by rwa [hr.op]) hi

theorem decodeWords_i {o x y k : Nat} {i : Instr} (ho : o < 0x38) (hx : x < 64) (hy : y < 64) (hk : k < 2 ^ 14)
    (hi : ∀ w, Dec.IsI w o x y k → Dec.scalarTerm w 0 = .ok i) : decodeWords (Enc.one (Enc.i o x y k)) = Dec.checked (.ok i) := by
  have hr := Dec.isI_i (by omega : o < 64) hx hy hk
  exact decodeWords_of_fields hr (by simp only [Enc.i]; omega) (by rwa [hr.op]) hi


theorem decodeWords_jump {o : Nat} {i : Instr} {off : BitVec 26} (ho : o < 0x38)
    (hi : ∀ w, bits w 31 26 = o → BitVec.ofNat 26 (bits w 25 0) = off → Dec.scalarTerm w 0 = .ok i) :
    decodeWords (Enc.one (o * 2 ^ 26 + off.toNat)) = Dec.checked (.ok i) := by
  have hop : bits (o * 2 ^ 26 + off.toNat) 31 26 = o := by simp only [bits]; omega
  refine decodeWords_of_fields (P := fun w => bits w 31 26 = o ∧ BitVec.ofNat 26 (bits w 25 0) = off) ⟨hop, ?_⟩ (by omega) (by omega)
    fun w ⟨h, h'⟩ => hi w h h'
  exact ofNat_eq_of_eq (by simp only [bits]; omega)

open Enc Dec in
/-- Each instruction of one word is what its word decodes to, its encoding rules apart. -/
theorem decodeWords_encode_of_one (i : Instr) (h : ((encode i).length == 1) = true) : decodeWords (encode i) = checked (.ok i) := by
  cases i with
  | add d a b | sub d a b | and d a b | or d a b | xor d a b | andn d a b | shl d a b | shr d a b | sar d a b | mul d a b | mulhu d a b | mulhs d a b
  | divu d a b | remu d a b | divs d a b | rems d a b | min d a b | max d a b | minu d a b | maxu d a b | seq d a b
  | sne d a b | slt d a b | sltu d a b | sle d a b | sleu d a b | cmov d a b | bfx d a b | bfi d a b =>
    refine decodeWords_r (by omega) d.isLt a.isLt b.isLt (by omega) fun w h => ?_
    simp [scalarTerm_alu h.op, alu, h.fn, h.fd, h.fa, h.fb]
  | clz d a | ctz d a | popc d a  =>
    refine decodeWords_r (by omega) d.isLt a.isLt (by omega) (by omega) fun w h => ?_
    simp [scalarTerm_alu h.op, alu, zero, h.fn, h.fd, h.fa, h.fb]
  | addi d a k | andi d a k | ori d a k | xori d a k | slti d a k | sltui d a k | seqi d a k | jr d a k =>
    refine decodeWords_i (by omega) d.isLt a.isLt k.isLt fun w h => ?_
    simp [scalarTerm, h.op, h.fd, h.fa, h.imm14]
  | shli d a n | shri d a n | sari d a n =>
    refine decodeWords_i (by omega) d.isLt a.isLt (by omega) fun w h => ?_
    obtain ⟨hhigh, hn⟩ := h.shift
    simp [scalarTerm, h.op, Dec.shift, zero, h.fd, h.fa, hhigh, hn]
  | sld d a z k | sldz d a z k | sst d a z k | sldp d a z k | sstp d a z k =>
    refine decodeWords_i (by omega) d.isLt a.isLt (by omega) fun w h => ?_
    obtain ⟨hsz, himm⟩ := h.memory
    simp [scalarTerm, h.op, h.fd, h.fa, hsz, himm]
  | satomAdd d a b sc wide | satomAnd d a b sc wide | satomOr d a b sc wide | satomXor d a b sc wide | satomMin d a b sc wide | satomMax d a b sc wide
  | satomMinu d a b sc wide | satomMaxu d a b sc wide | satomXchg d a b sc wide | satomCas d a b sc wide =>
    have hs := sc.code_lt
    have hw := wide.toNat_lt
    refine decodeWords_r (by omega) d.isLt a.isLt b.isLt (by omega) fun w h => ?_
    obtain ⟨hkind, hscope, hwide⟩ := h.satom (by omega)
    simp [scalarTerm_satom h.op, satom, h.fd, h.fa, h.fb, hkind, hscope, hwide, Scope.ofCode_code]
  | lgo a k | sput a k =>
    refine decodeWords_i (by omega) (by omega) a.isLt k.isLt fun w h => ?_
    simp [scalarTerm, h.op, zero, h.fd, h.fa, h.imm14]
  | sget d k =>
    refine decodeWords_i (by omega) d.isLt (by omega) k.isLt fun w h => ?_
    simp [scalarTerm, h.op, zero, h.fd, h.fa, h.imm14]
  | lwait n =>
    refine decodeWords_i (by omega) (by omega) (by omega) (by omega) fun w h => ?_
    have hn : ¬ 3 < n.toNat := by omega
    simp [scalarTerm, h.op, zero, h.fd, h.fa, h.imm, h.part, ofNat_bits_zero, hn]
  | fence o sc ack opr =>
    have ho := o.code_lt
    have hs := sc.code_lt
    have ha := ack.toNat_lt
    have hp := opr.toNat_lt
    refine decodeWords_i (by omega) (by omega) (by omega) (by omega) fun w h => ?_
    obtain ⟨hsc, hhigh, horder, hack, hopr⟩ := h.fence
    have hzero : bits w 25 14 = 0 := by have := h.d; have := h.a; simp only [bits] at *; omega
    simp [scalarTerm_fence h.op, Dec.fence, zero, hsc, hhigh, horder, hack, hopr, hzero, Scope.ofCode_code, FOrder.ofCode_code]
  | sysNop | sysExit | sysYield | sysBrk =>
    refine decodeWords_r (by omega) (by omega) (by omega) (by omega) (by omega) fun w h => ?_
    simp [scalarTerm_sys h.op, sys, zero, h.fn, h.fd, h.fa, h.fb]
  | sysSleep a | sysTrap a =>
    refine decodeWords_r (by omega) (by omega) a.isLt (by omega) (by omega) fun w h => ?_
    simp [scalarTerm_sys h.op, sys, zero, h.fn, h.fd, h.fa, h.fb]
  | sysClock d =>
    refine decodeWords_r (by omega) d.isLt (by omega) (by omega) (by omega) fun w h => ?_
    simp [scalarTerm_sys h.op, sys, zero, h.fn, h.fd, h.fa, h.fb]
  | sysPtpread d a =>
    refine decodeWords_r (by omega) d.isLt a.isLt (by omega) (by omega) fun w h => ?_
    simp [scalarTerm_sys h.op, sys, zero, h.fn, h.fd, h.fa, h.fb]
  | awinit a b =>
    refine decodeWords_r (by omega) (by omega) a.isLt b.isLt (by omega) fun w h => ?_
    simp [scalarTerm_aw h.op, aw, zero, h.fn, h.fd, h.fa, h.fb]
  | awexpect d a b | awarrive d a b | awwait d a b | awtest d a b =>
    refine decodeWords_r (by omega) d.isLt a.isLt b.isLt (by omega) fun w h => ?_
    simp [scalarTerm_aw h.op, aw, h.fn, h.fd, h.fa, h.fb]
  | phnew d a b | phjoin d a b | phsig d a b | phsigb d a b | phwait d a b | phtest d a b | phany d a b | phval d a b =>
    refine decodeWords_r (by omega) d.isLt a.isLt b.isLt (by omega) fun w h => ?_
    simp [scalarTerm_ph h.op, ph, h.fn, h.fd, h.fa, h.fb]
  | phfree d a | phleave d a | phread d a =>
    refine decodeWords_r (by omega) d.isLt a.isLt (by omega) (by omega) fun w h => ?_
    simp [scalarTerm_ph h.op, ph, zero, h.fn, h.fd, h.fa, h.fb]
  | cpy d a b phs sto | cpy2 d a b phs sto | cpyw d a b phs sto | cpyx d a b phs sto | cpyfill d a b phs sto =>
    refine decodeWords_r (by omega) d.isLt a.isLt b.isLt (cpyFn_lt (by omega)) fun w h => ?_
    obtain ⟨hkind, hphs, hord, hsto, htop⟩ := h.cpy (by omega)
    simp [scalarTerm_cpy h.op, Dec.cpy, zero, h.fd, h.fa, h.fb, hkind, hphs, hord, hsto, htop]
  | cpyr d a b phs ord sto =>
    refine decodeWords_r (by omega) d.isLt a.isLt b.isLt (cpyFn_lt (by omega)) fun w h => ?_
    obtain ⟨hkind, hphs, hord, hsto, htop⟩ := h.cpy (by omega)
    simp [scalarTerm_cpy h.op, Dec.cpy, h.fd, h.fa, h.fb, hkind, hphs, hord, hsto, htop]
  | cpyst d b =>
    refine decodeWords_r (f := Enc.cpyFn 6 false false false) (by omega) d.isLt (by omega) b.isLt (cpyFn_lt (by omega)) fun w h => ?_
    obtain ⟨hkind, hphs, hord, hsto, htop⟩ := h.cpy (by omega)
    simp [scalarTerm_cpy h.op, Dec.cpy, zero, h.fd, h.fa, h.fb, hkind, hphs, hord, hsto, htop]
  | cpycan d b =>
    refine decodeWords_r (f := Enc.cpyFn 7 false false false) (by omega) d.isLt (by omega) b.isLt (cpyFn_lt (by omega)) fun w h => ?_
    obtain ⟨hkind, hphs, hord, hsto, htop⟩ := h.cpy (by omega)
    simp [scalarTerm_cpy h.op, Dec.cpy, zero, h.fd, h.fa, h.fb, hkind, hphs, hord, hsto, htop]
  | nput d a b | nget d a b | natom d a b | nsend d a b | nchain d a b | nrxpop d a b =>
    refine decodeWords_r (by omega) d.isLt a.isLt b.isLt (by omega) fun w h => ?_
    simp [scalarTerm_net h.op, net, h.fn, h.fd, h.fa, h.fb]
  | nkey d a | npoll d a =>
    refine decodeWords_r (by omega) d.isLt a.isLt (by omega) (by omega) fun w h => ?_
    simp [scalarTerm_net h.op, net, zero, h.fn, h.fd, h.fa, h.fb]
  | enq d a b | qwait d a b =>
    refine decodeWords_r (by omega) d.isLt a.isLt b.isLt (by omega) fun w h => ?_
    simp [scalarTerm_launch h.op, launch, h.fn, h.fd, h.fa, h.fb]
  | enqst d a | mighint d a =>
    refine decodeWords_r (by omega) d.isLt a.isLt (by omega) (by omega) fun w h => ?_
    simp [scalarTerm_launch h.op, launch, zero, h.fn, h.fd, h.fa, h.fb]
  | tret =>
    refine decodeWords_r (by omega) (by omega) (by omega) (by omega) (by omega) fun w h => ?_
    simp [scalarTerm_priv h.op, priv, zero, h.fn, h.fd, h.fa, h.fb]
  | fragrd d a b | dirtyget d a b =>
    refine decodeWords_r (by omega) d.isLt a.isLt b.isLt (by omega) fun w h => ?_
    simp [scalarTerm_priv h.op, priv, h.fn, h.fd, h.fa, h.fb]
  | pinv a b | cwb a b | cinv a b =>
    refine decodeWords_r (by omega) (by omega) a.isLt b.isLt (by omega) fun w h => ?_
    simp [scalarTerm_priv h.op, priv, zero, h.fn, h.fd, h.fa, h.fb]
  | teamhalt d a =>
    refine decodeWords_r (by omega) d.isLt a.isLt (by omega) (by omega) fun w h => ?_
    simp [scalarTerm_priv h.op, priv, zero, h.fn, h.fd, h.fa, h.fb]
  | mzero t =>
    refine decodeWords_r (by omega) (by omega) (by omega) (by omega) (by omega) fun w h => ?_
    have ht : t.toNat < 32 := t.isLt
    simp [scalarTerm, h.op, matrix1, zero, h.fn, h.d, h.fa, h.fb, h.tile, ht]
  | macc g a b save t =>
    have hg := g.toNat_lt
    have hs := save.toNat_lt
    refine decodeWords_r (by omega) (by omega) a.isLt b.isLt (by omega) fun w h => ?_
    obtain ⟨hsave, htile⟩ := h.macc
    cases g <;> cases save <;> simp [scalarTerm, h.op, matrix1, zero, h.d, h.fa, h.fb, hsave, htile]
  | mdrain g z rnd lc a b fmt t =>
    have hg := g.toNat_lt
    have hz := z.toNat_lt
    refine decodeWords_r (by omega) (by omega) a.isLt b.isLt (by omega) fun w h => ?_
    obtain ⟨hfmt, htile⟩ := h.mdrain
    obtain ⟨hg, hz, hrnd, hlc⟩ := drain_d g z rnd lc
    simp [scalarTerm, h.op, matrix1, h.d, h.fa, h.fb, hfmt, htile, hg, hz, hrnd, hlc]
  | mchk d t | mloc d t =>
    refine decodeWords_r (by omega) d.isLt (by omega) (by omega) (by omega) fun w h => ?_
    have ht : t.toNat < 32 := t.isLt
    simp [scalarTerm, h.op, matrix1, zero, h.fn, h.fd, h.fa, h.fb, h.tile, ht]
  | mfix a t =>
    refine decodeWords_r (by omega) (by omega) a.isLt (by omega) (by omega) fun w h => ?_
    have ht : t.toNat < 32 := t.isLt
    simp [scalarTerm, h.op, matrix1, zero, h.fn, h.d, h.fa, h.fb, h.tile, ht]
  | mwait =>
    refine decodeWords_r (by omega) (by omega) (by omega) (by omega) (by omega) fun w h => ?_
    simp [scalarTerm, h.op, matrix1, zero, h.fn, h.d, h.fa, h.fb]
  | br cc a b off =>
    have hc := cc.code_lt
    refine decodeWords_of_fields (P := (IsBranch · cc a b off)) (isBranch_word cc a b off) (by omega) ?_ fun w h => ?_
    · simp only [bits]; omega
    · simp [scalarTerm_branch h.op, branch, h.cc, h.a, h.b, h.off, Cond.ofCode_code]
  | j off | jal off =>
    exact decodeWords_jump (by omega) fun w hop hoff => by simp [scalarTerm, hop, hoff]
  | _ => exact absurd h Bool.false_ne_true


/-! ### Instructions of two words, and of three -/

theorem decodeWords_two {x y : Nat} (hx : x < 2 ^ 32) (hy : y < 2 ^ 32) : decodeWords (Enc.two x y) = Dec.checked (Dec.scalarTerm x y) := by
  change decodeScalar (BitVec.ofNat 32 x) (BitVec.ofNat 32 y) = _
  rw [decodeScalar, BitVec.toNat_ofNat, BitVec.toNat_ofNat, Nat.mod_eq_of_lt hx, Nat.mod_eq_of_lt hy]

/-- Word 1 of MMA and MMAS (R260). -/
theorem Dec.mma1_fields (k sp : BitVec 8) (ap : BitVec 12) :
    let y := Enc.mma1 k.toNat ap.toNat sp.toNat
    y < 2 ^ 32 ∧ BitVec.ofNat 8 (bits y 7 0) = k ∧ BitVec.ofNat 12 (bits y 19 8) = ap ∧ BitVec.ofNat 8 (bits y 27 20) = sp ∧ bits y 31 28 = 0 := by
  refine ⟨by simp only [Enc.mma1]; omega, BitVec.eq_of_toNat_eq ?_, BitVec.eq_of_toNat_eq ?_, BitVec.eq_of_toNat_eq ?_, ?_⟩
  all_goals simp only [BitVec.toNat_ofNat, bits, Enc.mma1]; omega

/-- Words of the X form decode to what all words with their fields decode to. -/
theorem decodeWords_x {o x y z f : Nat} {v : Nat} {i : Instr} (ho : o < 64) (hx : x < 64) (hy : y < 64) (hz : z < 64) (hf : f < 256) (hv : v < 2 ^ 32)
    (hi : ∀ w, Dec.IsR w o x y z f → Dec.scalarTerm w v = .ok i) : decodeWords (Enc.two (Enc.r o x y z f) v) = Dec.checked (.ok i) := by
  rw [decodeWords_two (by simp only [Enc.r]; omega) hv, hi _ (Dec.isR_r ho hx hy hz hf)]

open Enc Dec in
theorem decodeWords_encode_of_two (i : Instr) (h : ((encode i).length == 2) = true) : decodeWords (encode i) = checked (.ok i) := by
  cases i with
  | li d k | lih d k =>
    refine decodeWords_x (by omega) d.isLt (by omega) (by omega) (by omega) k.isLt fun w h => ?_
    simp [scalarTerm, zero, h.op, h.fd, h.fa, h.fb, h.fn]
  | addx d a k =>
    refine decodeWords_x (by omega) d.isLt a.isLt (by omega) (by omega) k.isLt fun w h => ?_
    simp [scalarTerm, zero, h.op, h.fd, h.fa, h.fb, h.fn]
  | mma t a b slot bi4 lc k ap sp | mmas t a b slot bi4 lc k ap sp =>
    have hb := bi4.toNat_lt
    obtain ⟨hlt, hk, hap, hsp, hzero⟩ := mma1_fields k sp ap
    refine decodeWords_x (by omega) (by omega) a.isLt b.isLt (by omega) hlt fun w h => ?_
    obtain ⟨hlc, hbi4, hslot⟩ := h.mma
    obtain ⟨ht, htop⟩ := h.tile_d
    simp [scalarTerm, matrix2, zero, h.op, h.fa, h.fb, hk, hap, hsp, hzero, hlc, hbi4, hslot, ht, htop]
  | _ => exact absurd h Bool.false_ne_true

/-- The three words of a lane instruction hold its fields (R56). -/
theorem Dec.lane_fields (o : Nat) (ho : o < 256) (f : LaneWord) : ∃ w0 w1 w2 : Half, Enc.lane o f = [w0, w1, w2] ∧
    bits w2.toNat 31 24 = o ∧ laneFields w0.toNat w1.toNat w2.toNat = f := by
  refine ⟨_, _, _, rfl, ?_, ?_⟩
  · simp only [BitVec.toNat_ofNat, bits]; omega
  · obtain ⟨vd, va, vb, vc, pm, pn, ty, md, sat, na, nb, ab, bu, cu, sub, imm⟩ := f
    have := pn.toNat_lt; have := sat.toNat_lt; have := na.toNat_lt; have := nb.toNat_lt; have := ab.toNat_lt; have := bu.toNat_lt; have := cu.toNat_lt
    simp only [laneFields, LaneWord.mk.injEq, BitVec.toNat_ofNat]
    refine ⟨ofNat_eq_of_eq ?_, ofNat_eq_of_eq ?_, ofNat_eq_of_eq ?_, ofNat_eq_of_eq ?_, ofNat_eq_of_eq ?_, bitOf_of_bits ?_, ofNat_eq_of_eq ?_,
      ofNat_eq_of_eq ?_, bitOf_of_bits ?_, bitOf_of_bits ?_, bitOf_of_bits ?_, bitOf_of_bits ?_, bitOf_of_bits ?_, bitOf_of_bits ?_,
      ofNat_eq_of_eq ?_, ofNat_eq_of_eq rfl⟩
    all_goals simp only [bits]; omega

theorem decodeWords_lane {o : Nat} {f : LaneWord} {i : Instr} (ho : o < 256) (hi : Dec.laneTerm o f = .ok i) :
    decodeWords (Enc.lane o f) = Dec.checked (.ok i) := by
  obtain ⟨w0, w1, w2, hw, hop, hf⟩ := Dec.lane_fields o ho f
  rw [hw, decodeWords, decodeLane, hop, hf, hi]

theorem decodeWords_encode_of_lane (i : Instr) (h : i.isLane = true) : decodeWords (encode i) = Dec.checked (.ok i) := by
  cases i with
  | vadd f | vsub f | vmul f | vmulh f | vmad f | vaddc f | vand f | vor f | vxor f | vshl f | vshr f | vsar f | vmin f | vmax f | vabs f | vclz f
  | vpopc f | vbfx f | vbfi f | vicmp f | vsel f | vmov f | vdiv f | vrem f | vsad f | vdot4 f | vsreg f | vfadd f | vfsub f | vfmul f | vfma f
  | vfmin f | vfmax f | vfcmp f | vfclass f | vfrcp f | vfrsq f | vfsqrt f | vfdiv f | vfexp2 f | vflog2 f | vfsin f | vfcos f | vfrnd f | vfldexp f
  | vfgetexp f | vcvt f | vqnt f | vdqnt f | vshfl f | vbcast f | vvote f | vreduce f | vscan f | vmatch f | mlog f | mpopc f | mfirst f | mset f
  | mget f | mput f | lbr f | ljmp f | ljmpi f | lpad f | lcall f | lcalli f | lret f | ljoin f | lend f | lexit f | lbar f | lfrag f | lnop f
  | vld f | vst f | vldp f | vstp f | vldf f | vatom f | vred f | vcas f | vpref f | vldr f | vstr f | vatomr f | vfence f | ltrap f | lkill f
  | lresume f | lorigin f | voget f | voput f =>
    exact decodeWords_lane (by decide) rfl
  | _ => exact absurd h Bool.false_ne_true

/-! ### Words from their fields -/

theorem Cond.code_of_ofCode {n : Nat} {c : Cond} (h : Cond.ofCode n = some c) : c.code = n := by
  unfold Cond.ofCode at h
  split at h <;> cases h <;> rfl

theorem Scope.code_of_ofCode {n : Nat} {c : Scope} (h : Scope.ofCode n = some c) : c.code = n := by
  unfold Scope.ofCode at h
  split at h <;> cases h <;> rfl

theorem FOrder.code_ofCode {n : Nat} (h : n < 4) : (FOrder.ofCode n).code = n := by
  interval_cases n <;> rfl

theorem bitOf_toNat (x n : Nat) : (bitOf x n).toNat = bits x n n := by
  have h : x / 2 ^ n % 2 = 0 ∨ x / 2 ^ n % 2 = 1 := by omega
  rcases h with h | h <;> simp [bitOf, bits, h]

theorem toNat_ofNat_bits {n hi lo x : Nat} (h : hi + 1 - lo ≤ n) : (BitVec.ofNat n (bits x hi lo)).toNat = bits x hi lo := by
  rw [BitVec.toNat_ofNat, Nat.mod_eq_of_lt]
  exact (Nat.mod_lt _ (Nat.two_pow_pos _)).trans_le (Nat.pow_le_pow_right (by omega) h)

theorem toNat_beq_one {n : Nat} (h : n < 2) : (n == 1).toNat = n := by
  interval_cases n <;> rfl

/-- A field stands above the bits below it. -/
theorem mod_two_pow_succ_eq {x hi lo : Nat} (h : lo ≤ hi) : x % 2 ^ (hi + 1) = bits x hi lo * 2 ^ lo + x % 2 ^ lo := by
  have hpow : 2 ^ (hi + 1) = 2 ^ lo * 2 ^ (hi + 1 - lo) := by rw [← pow_add]; congr 1; omega
  rw [hpow, Nat.mod_mul, bits, Nat.mul_comm, Nat.add_comm]

namespace Dec

theorem zero_eq_ok {c : Bool} {i j : Instr} : zero c i = .ok j ↔ c = true ∧ i = j := by
  cases c <;> simp [zero]

section Word
variable {w : Nat}

theorem toNat_fd : (fd w).toNat = bits w 25 20 := toNat_ofNat_bits (by omega)
theorem toNat_fa : (fa w).toNat = bits w 19 14 := toNat_ofNat_bits (by omega)
theorem toNat_fb : (fb w).toNat = bits w 13 8 := toNat_ofNat_bits (by omega)

theorem one_r {o : Nat} (hw : w < 2 ^ 32) (ho : bits w 31 26 = o) : Enc.one (Enc.r o (fd w).toNat (fa w).toNat (fb w).toNat (bits w 7 0)) = Enc.one w := by
  rw [← ho, toNat_fd, toNat_fa, toNat_fb]
  congr 1; simp only [Enc.r, bits]; omega

theorem one_i {o : Nat} (hw : w < 2 ^ 32) (ho : bits w 31 26 = o) : Enc.one (Enc.i o (fd w).toNat (fa w).toNat (imm14 w).toNat) = Enc.one w := by
  rw [← ho, toNat_fd, toNat_fa, imm14, toNat_ofNat_bits (by omega)]
  congr 1; simp only [Enc.i, bits]; omega

theorem one_m {o : Nat} (hw : w < 2 ^ 32) (ho : bits w 31 26 = o) :
    Enc.one (Enc.m o (fd w).toNat (fa w).toNat (sz w).toNat (imm12 w).toNat) = Enc.one w := by
  rw [← ho, toNat_fd, toNat_fa, sz, imm12, toNat_ofNat_bits (by omega), toNat_ofNat_bits (by omega)]
  congr 1; simp only [Enc.m, Enc.i, bits]; omega

end Word

/-! ### What a family's words decode to encodes to their fields -/

section Families
variable {w : Nat} {i : Instr}

theorem encode_of_alu (h : alu w = .ok i) : encode i = Enc.one (Enc.r 0x00 (fd w).toNat (fa w).toNat (fb w).toNat (bits w 7 0)) := by
  unfold alu at h
  split at h
  case h_33 => cases h
  case h_21 | h_22 | h_23 =>
    rename_i hk
    obtain ⟨hb, rfl⟩ := zero_eq_ok.1 h
    rw [hk, eq_of_beq hb]; rfl
  all_goals
    rename_i hk
    cases h
    rw [hk]; rfl

theorem encode_of_satom (h : satom w = .ok i) : encode i = Enc.one (Enc.r 0x10 (fd w).toNat (fa w).toNat (fb w).toNat (bits w 7 0)) := by
  have hfn : bits w 7 0 = bits w 7 4 * 16 + bits w 3 1 * 2 + (bitOf w 0).toNat := by rw [bitOf_toNat]; simp only [bits]; omega
  unfold satom at h
  split at h
  · cases h
  rename_i sc hsc
  rw [hfn, ← Scope.code_of_ofCode hsc]
  split at h
  case h_11 => cases h
  all_goals
    rename_i hk
    cases h
    rw [hk]; rfl

theorem encode_of_sys (h : sys w = .ok i) : encode i = Enc.one (Enc.r 0x18 (fd w).toNat (fa w).toNat (fb w).toNat (bits w 7 0)) := by
  unfold sys at h
  split at h
  case h_9 => cases h
  all_goals
    rename_i hk
    obtain ⟨hzero, rfl⟩ := zero_eq_ok.1 h
    simp only [Bool.and_eq_true, beq_iff_eq] at hzero
    simp only [hk, hzero]; rfl

theorem encode_of_aw (h : aw w = .ok i) : encode i = Enc.one (Enc.r 0x1B (fd w).toNat (fa w).toNat (fb w).toNat (bits w 7 0)) := by
  unfold aw at h
  split at h
  case h_6 => cases h
  case h_1 =>
    rename_i hk
    obtain ⟨hd, rfl⟩ := zero_eq_ok.1 h
    rw [hk, eq_of_beq hd]; rfl
  all_goals
    rename_i hk
    cases h
    rw [hk]; rfl

theorem encode_of_ph (h : ph w = .ok i) : encode i = Enc.one (Enc.r 0x1C (fd w).toNat (fa w).toNat (fb w).toNat (bits w 7 0)) := by
  unfold ph at h
  split at h
  case h_12 => cases h
  case h_2 | h_4 | h_11 =>
    rename_i hk
    obtain ⟨hb, rfl⟩ := zero_eq_ok.1 h
    rw [hk, eq_of_beq hb]; rfl
  all_goals
    rename_i hk
    cases h
    rw [hk]; rfl

theorem encode_of_net (h : net w = .ok i) : encode i = Enc.one (Enc.r 0x1E (fd w).toNat (fa w).toNat (fb w).toNat (bits w 7 0)) := by
  unfold net at h
  split at h
  case h_9 => cases h
  case h_5 | h_7 =>
    rename_i hk
    obtain ⟨hb, rfl⟩ := zero_eq_ok.1 h
    rw [hk, eq_of_beq hb]; rfl
  all_goals
    rename_i hk
    cases h
    rw [hk]; rfl

theorem encode_of_launch (h : launch w = .ok i) : encode i = Enc.one (Enc.r 0x1F (fd w).toNat (fa w).toNat (fb w).toNat (bits w 7 0)) := by
  unfold launch at h
  split at h
  case h_5 => cases h
  case h_2 | h_4 =>
    rename_i hk
    obtain ⟨hb, rfl⟩ := zero_eq_ok.1 h
    rw [hk, eq_of_beq hb]; rfl
  all_goals
    rename_i hk
    cases h
    rw [hk]; rfl

theorem encode_of_priv (h : priv w = .ok i) : encode i = Enc.one (Enc.r 0x20 (fd w).toNat (fa w).toNat (fb w).toNat (bits w 7 0)) := by
  unfold priv at h
  split at h
  case h_8 => cases h
  case h_2 | h_6 =>
    rename_i hk
    cases h
    rw [hk]; rfl
  all_goals
    rename_i hk
    obtain ⟨hzero, rfl⟩ := zero_eq_ok.1 h
    simp only [Bool.and_eq_true, beq_iff_eq] at hzero
    simp only [hk, hzero]; rfl

theorem encode_of_cpy (h : cpy w = .ok i) : encode i = Enc.one (Enc.r 0x1D (fd w).toNat (fa w).toNat (fb w).toNat (bits w 7 0)) := by
  unfold cpy at h
  split at h
  · cases h
  rename_i htop
  have hfn : bits w 7 0 = Enc.cpyFn (bits w 3 0) (bitOf w 6) (bitOf w 5) (bitOf w 4) := by
    have htop' : bits w 7 7 = 0 := by rw [← bitOf_toNat]; simp [htop]
    simp only [Enc.cpyFn, bitOf_toNat]; simp only [bits] at *; omega
  rw [hfn]
  split at h
  case h_9 => cases h
  case h_6 =>
    rename_i hk
    cases h
    rw [hk]; rfl
  all_goals
    rename_i hk
    obtain ⟨hzero, rfl⟩ := zero_eq_ok.1 h
    simp only [Bool.and_eq_true, Bool.not_eq_true', beq_iff_eq] at hzero
    simp only [hk, hzero]; rfl

/-- A tile stands below what else fn holds (R260). -/
theorem toNat_tile : (tile w).toNat = bits w 4 0 := toNat_ofNat_bits (by omega)

theorem encode_of_matrix1 {o : Nat} (h : matrix1 o w = .ok i) : encode i = Enc.one (Enc.r o (fd w).toNat (fa w).toNat (fb w).toNat (bits w 7 0)) := by
  have htile : bits w 7 0 = bits w 7 0 / 32 * 32 + (tile w).toNat := by rw [toNat_tile]; simp only [bits]; omega
  have hsmall (hlt : bits w 7 0 < 32) : (tile w).toNat = bits w 7 0 := by omega
  unfold matrix1 at h
  dsimp only at h
  split at h
  · obtain ⟨hzero, rfl⟩ := zero_eq_ok.1 h
    simp only [Bool.and_eq_true, beq_iff_eq, decide_eq_true_eq] at hzero
    obtain ⟨⟨⟨hd, ha⟩, hb⟩, hlt⟩ := hzero
    rw [toNat_fd, hd, ha, hb, ← hsmall hlt]; rfl
  · split at h
    · cases h
    rename_i hsave
    obtain ⟨hd, rfl⟩ := zero_eq_ok.1 h
    have hg : (bits w 25 20 == 1).toNat = bits w 25 20 := toNat_beq_one (of_decide_eq_true hd)
    have hs : (bits w 7 0 / 32 == 1).toNat = bits w 7 0 / 32 := toNat_beq_one (by omega)
    have henc : Enc.r 0x29 (bits w 25 20 == 1).toNat (fa w).toNat (fb w).toNat ((bits w 7 0 / 32 == 1).toNat * 32 + (tile w).toNat) =
        Enc.r 0x29 (fd w).toNat (fa w).toNat (fb w).toNat (bits w 7 0) := by rw [hg, hs, ← htile, toNat_fd]
    exact congrArg Enc.one henc
  · cases h
    have hd : (BitVec.ofNat 2 (bits (bits w 25 20) 5 4)).toNat * 16 + (BitVec.ofNat 2 (bits (bits w 25 20) 3 2)).toNat * 4 +
        (bitOf (bits w 25 20) 1).toNat * 2 + (bitOf (bits w 25 20) 0).toNat = (fd w).toNat := by
      rw [toNat_ofNat_bits (by omega), toNat_ofNat_bits (by omega), bitOf_toNat, bitOf_toNat, toNat_fd]; simp only [bits]; omega
    have hf : (BitVec.ofNat 3 (bits w 7 5)).toNat * 32 + (tile w).toNat = bits w 7 0 := by
      rw [toNat_ofNat_bits (by omega), toNat_tile]; simp only [bits]; omega
    rw [← hd, ← hf]; rfl
  · obtain ⟨hzero, rfl⟩ := zero_eq_ok.1 h
    simp only [Bool.and_eq_true, beq_iff_eq, decide_eq_true_eq] at hzero
    obtain ⟨⟨ha, hb⟩, hlt⟩ := hzero
    rw [ha, hb, ← hsmall hlt]; rfl
  · obtain ⟨hzero, rfl⟩ := zero_eq_ok.1 h
    simp only [Bool.and_eq_true, beq_iff_eq, decide_eq_true_eq] at hzero
    obtain ⟨⟨ha, hb⟩, hlt⟩ := hzero
    rw [ha, hb, ← hsmall hlt]; rfl
  · obtain ⟨hzero, rfl⟩ := zero_eq_ok.1 h
    simp only [Bool.and_eq_true, beq_iff_eq, decide_eq_true_eq] at hzero
    obtain ⟨⟨hd, hb⟩, hlt⟩ := hzero
    rw [toNat_fd, hd, hb, ← hsmall hlt]; rfl
  · obtain ⟨hzero, rfl⟩ := zero_eq_ok.1 h
    simp only [Bool.and_eq_true, beq_iff_eq] at hzero
    obtain ⟨⟨⟨hd, ha⟩, hb⟩, hfn⟩ := hzero
    rw [toNat_fd, hd, ha, hb, hfn]; rfl
  · cases h

theorem encode_of_shift {o : Nat} {c : Reg → Reg → BitVec 6 → Instr} (hw : w < 2 ^ 32) (ho : bits w 31 26 = o) (h : shift w c = .ok i)
    (hc : ∀ d a n, encode (c d a n) = Enc.one (Enc.i o d.toNat a.toNat n.toNat)) : encode i = Enc.one w := by
  obtain ⟨hzero, rfl⟩ := zero_eq_ok.1 h
  have hn : (BitVec.ofNat 6 (bits w 5 0)).toNat = (imm14 w).toNat := by
    rw [imm14, toNat_ofNat_bits (by omega), toNat_ofNat_bits (by omega)]
    have := eq_of_beq hzero
    simp only [bits] at *; omega
  rw [hc, hn, one_i hw ho]

theorem encode_of_branch (hw : w < 2 ^ 32) (ho : bits w 31 26 = 0x11) (h : branch w = .ok i) : encode i = Enc.one w := by
  unfold branch at h
  split at h
  · cases h
  rename_i cc hcc
  cases h
  have hword : 0x11 * 2 ^ 26 + cc.code * 2 ^ 23 + (BitVec.ofNat 6 (bits w 22 17)).toNat * 2 ^ 17 + (BitVec.ofNat 6 (bits w 16 11)).toNat * 2 ^ 11 +
      (BitVec.ofNat 11 (bits w 10 0)).toNat = w := by
    rw [Cond.code_of_ofCode hcc, toNat_ofNat_bits (by omega), toNat_ofNat_bits (by omega), toNat_ofNat_bits (by omega)]
    simp only [bits] at *; omega
  exact congrArg Enc.one hword

theorem encode_of_fence (hw : w < 2 ^ 32) (ho : bits w 31 26 = 0x17) (h : fence w = .ok i) : encode i = Enc.one w := by
  unfold fence at h
  split at h
  · cases h
  rename_i sc hsc
  obtain ⟨hzero, rfl⟩ := zero_eq_ok.1 h
  simp only [Bool.and_eq_true, beq_iff_eq] at hzero
  have hword : Enc.i 0x17 0 0 ((bitOf w 6).toNat * 64 + (bitOf w 5).toNat * 32 + sc.code * 4 + (FOrder.ofCode (bits w 1 0)).code) = w := by
    rw [Scope.code_of_ofCode hsc, bitOf_toNat, bitOf_toNat, FOrder.code_ofCode (show bits w 1 0 < 4 from Nat.mod_lt _ (by decide))]
    simp only [Enc.i, bits] at *; omega
  exact congrArg Enc.one hword

/-- Words of the X form from their fields. -/
theorem two_r {o x : Nat} (hw : w < 2 ^ 32) (ho : bits w 31 26 = o) :
    Enc.two (Enc.r o (fd w).toNat (fa w).toNat (fb w).toNat (bits w 7 0)) x = Enc.two w x := by
  simpa [Enc.one, Enc.two] using one_r hw ho

theorem encode_of_matrix2 {x : Nat} {sparse : Bool} (hw : w < 2 ^ 32) (hx : x < 2 ^ 32) (ho : bits w 31 26 = cond sparse 0x3D 0x3C)
    (h : matrix2 sparse w x = .ok i) : encode i = Enc.two w x := by
  obtain ⟨hzero, rfl⟩ := zero_eq_ok.1 h
  simp only [Bool.and_eq_true, Bool.not_eq_true', beq_iff_eq] at hzero
  obtain ⟨htop, hhigh⟩ := hzero
  have hd : (BitVec.ofNat 5 (bits w 24 20)).toNat = (fd w).toNat := by
    have hbit : bits w 25 25 = 0 := by rw [← bitOf_toNat, htop]; rfl
    rw [toNat_ofNat_bits (by omega), toNat_fd]; simp only [bits] at *; omega
  have hf : (BitVec.ofNat 2 (bits w 7 6)).toNat * 64 + (bitOf w 5).toNat * 32 + (BitVec.ofNat 5 (bits w 4 0)).toNat = bits w 7 0 := by
    rw [toNat_ofNat_bits (by omega), toNat_ofNat_bits (by omega), bitOf_toNat]; simp only [bits]; omega
  have hword : Enc.mma1 (BitVec.ofNat 8 (bits x 7 0)).toNat (BitVec.ofNat 12 (bits x 19 8)).toNat (BitVec.ofNat 8 (bits x 27 20)).toNat = x := by
    rw [toNat_ofNat_bits (by omega), toNat_ofNat_bits (by omega), toNat_ofNat_bits (by omega)]; simp only [Enc.mma1, bits] at *; omega
  have htwo := two_r (x := x) hw ho
  rw [← hd, ← hf] at htwo
  cases sparse
  all_goals
    refine Eq.trans ?_ htwo
    conv_rhs => rw [← hword]
    rfl

theorem one_jump {o : Nat} (hw : w < 2 ^ 32) (ho : bits w 31 26 = o) :
    Enc.one (o * 2 ^ 26 + (BitVec.ofNat 26 (bits w 25 0)).toNat) = Enc.one w := by
  rw [← ho, toNat_ofNat_bits (by omega)]
  congr 1; simp only [bits]; omega

/-- The matrix forms of one word stand below OP6 0x38. -/
theorem matrix1_op {o : Nat} (h : matrix1 o w = .ok i) : ¬ 0x38 ≤ o := by
  unfold matrix1 at h
  split at h
  case h_8 => cases h
  all_goals decide

end Families

/-- Words that decode, encoding rules apart, are the words of what they decode to. -/
theorem encode_of_scalarTerm {w x : Nat} {i : Instr} (hw : w < 2 ^ 32) (hx : x < 2 ^ 32) (h : scalarTerm w x = .ok i) :
    encode i = if 0x38 ≤ bits w 31 26 then Enc.two w x else Enc.one w := by
  unfold scalarTerm at h
  dsimp only at h
  split at h
  case h_1 hop => rw [hop, if_neg (by decide), encode_of_alu h, one_r hw hop]
  case h_17 hop => rw [hop, if_neg (by decide), encode_of_satom h, one_r hw hop]
  case h_25 hop => rw [hop, if_neg (by decide), encode_of_sys h, one_r hw hop]
  case h_28 hop => rw [hop, if_neg (by decide), encode_of_aw h, one_r hw hop]
  case h_29 hop => rw [hop, if_neg (by decide), encode_of_ph h, one_r hw hop]
  case h_30 hop => rw [hop, if_neg (by decide), encode_of_cpy h, one_r hw hop]
  case h_31 hop => rw [hop, if_neg (by decide), encode_of_net h, one_r hw hop]
  case h_32 hop => rw [hop, if_neg (by decide), encode_of_launch h, one_r hw hop]
  case h_33 hop => rw [hop, if_neg (by decide), encode_of_priv h, one_r hw hop]
  case h_2 hop | h_3 hop | h_4 hop | h_5 hop | h_9 hop | h_10 hop | h_11 hop | h_21 hop =>
    cases h
    rw [hop, if_neg (by decide)]
    exact one_i hw hop
  case h_6 hop | h_7 hop | h_8 hop =>
    rw [hop, if_neg (by decide)]
    exact encode_of_shift hw hop h fun _ _ _ => rfl
  case h_12 hop | h_13 hop | h_14 hop | h_15 hop | h_16 hop =>
    cases h
    rw [hop, if_neg (by decide)]
    exact one_m hw hop
  case h_18 hop => rw [hop, if_neg (by decide), encode_of_branch hw hop h]
  case h_19 hop | h_20 hop =>
    cases h
    rw [hop, if_neg (by decide)]
    exact one_jump hw hop
  case h_22 hop | h_27 hop =>
    obtain ⟨hd, rfl⟩ := zero_eq_ok.1 h
    rw [hop, if_neg (by decide), ← one_i hw hop, eq_of_beq hd]; rfl
  case h_23 hop =>
    split at h
    · cases h
    rename_i hn
    obtain ⟨hzero, rfl⟩ := zero_eq_ok.1 h
    simp only [Bool.and_eq_true, beq_iff_eq] at hzero
    have hk : (BitVec.ofNat 2 (bits w 1 0)).toNat = (imm14 w).toNat := by
      rw [imm14, toNat_ofNat_bits (by omega), toNat_ofNat_bits (by omega)]; simp only [bits] at *; omega
    rw [hop, if_neg (by decide), ← one_i hw hop, hzero.1, hzero.2, ← hk]; rfl
  case h_24 hop => rw [hop, if_neg (by decide), encode_of_fence hw hop h]
  case h_26 hop =>
    obtain ⟨ha, rfl⟩ := zero_eq_ok.1 h
    rw [hop, if_neg (by decide), ← one_i hw hop, eq_of_beq ha]; rfl
  case h_34 hop | h_35 hop | h_36 hop =>
    obtain ⟨hzero, rfl⟩ := zero_eq_ok.1 h
    simp only [Bool.and_eq_true, beq_iff_eq] at hzero
    have hword : (BitVec.ofNat 32 x).toNat = x := by rw [BitVec.toNat_ofNat, Nat.mod_eq_of_lt hx]
    rw [hop, if_pos (by decide), ← two_r hw hop]
    conv_rhs => rw [← hword]
    simp only [hzero]; rfl
  case h_37 hop => rw [hop, if_pos (by decide), encode_of_matrix2 (sparse := false) hw hx hop h]
  case h_38 hop => rw [hop, if_pos (by decide), encode_of_matrix2 (sparse := true) hw hx hop h]
  case h_39 => rw [if_neg (matrix1_op h), encode_of_matrix1 h, one_r hw rfl]

end Dec

/-! ### Lane words -/

section Lane
variable {x : Nat} (hx : x < 2 ^ 32)
include hx

theorem laneWord1_eq : bits x 31 24 * 2 ^ 24 + bits x 23 21 * 2 ^ 21 + bits x 20 20 * 2 ^ 20 + bits x 19 16 * 2 ^ 16 + bits x 15 12 * 2 ^ 12 +
    bits x 11 11 * 2 ^ 11 + bits x 10 10 * 2 ^ 10 + bits x 9 9 * 2 ^ 9 + bits x 8 8 * 2 ^ 8 + bits x 7 7 * 2 ^ 7 + bits x 6 6 * 2 ^ 6 + bits x 5 0 = x := by
  have hlow (hi lo : Nat) (h : lo ≤ hi) := mod_two_pow_succ_eq (x := x) h
  have := hlow 31 24 (by omega); have := hlow 23 21 (by omega); have := hlow 20 20 (by omega); have := hlow 19 16 (by omega)
  have := hlow 15 12 (by omega); have := hlow 11 11 (by omega); have := hlow 10 10 (by omega); have := hlow 9 9 (by omega)
  have := hlow 8 8 (by omega); have := hlow 7 7 (by omega); have := hlow 6 6 (by omega); have := hlow 5 0 (by omega)
  omega

theorem laneWord2_eq : bits x 31 24 * 2 ^ 24 + bits x 23 16 * 2 ^ 16 + bits x 15 8 * 2 ^ 8 + bits x 7 0 = x := by
  simp only [bits]; omega

end Lane

/-- The fields of three words make up the words. -/
theorem Enc.lane_laneFields (w0 w1 w2 : Half) : Enc.lane (bits w2.toNat 31 24) (Dec.laneFields w0.toNat w1.toNat w2.toNat) = [w0, w1, w2] := by
  unfold Enc.lane Dec.laneFields
  simp (disch := omega) only [toNat_ofNat_bits, bitOf_toNat]
  rw [laneWord1_eq w1.isLt, laneWord2_eq w2.isLt]
  simp only [BitVec.ofNat_toNat, BitVec.setWidth_eq]

theorem encode_of_laneTerm {o : Nat} {f : LaneWord} {i : Instr} (h : Dec.laneTerm o f = .ok i) : encode i = Enc.lane o f := by
  unfold Dec.laneTerm at h
  split at h
  case h_94 => cases h
  all_goals cases h; rfl

/-! ### The round trip -/

theorem checked_eq_ok {r : Except Reject Instr} {i : Instr} : Dec.checked r = .ok i ↔ r = .ok i ∧ i.wf = true := by
  unfold Dec.checked Instr.wf
  split
  · simp
  · rename_i j
    split <;> rename_i hj <;> constructor
    · rintro ⟨⟩; simp [hj]
    · exact fun h => h.1
    · rintro ⟨⟩
    · rintro ⟨⟨⟩, hwf⟩; simp [hj] at hwf

theorem encode_of_decodeScalar {w0 w1 : Half} {i : Instr} (h : decodeScalar w0 w1 = .ok i) :
    encode i = (if scalarWords w0 = 2 then [w0, w1] else [w0]) ∧ i.wf = true := by
  obtain ⟨hterm, hwf⟩ := checked_eq_ok.1 h
  refine ⟨(Dec.encode_of_scalarTerm w0.isLt w1.isLt hterm).trans ?_, hwf⟩
  by_cases hop : 0x38 ≤ bits w0.toNat 31 26 <;> simp [scalarWords, hop, Enc.one, Enc.two]

theorem encode_of_decodeLane {w0 w1 w2 : Half} {i : Instr} (h : decodeLane w0 w1 w2 = .ok i) : encode i = [w0, w1, w2] ∧ i.wf = true := by
  obtain ⟨hterm, hwf⟩ := checked_eq_ok.1 h
  exact ⟨(encode_of_laneTerm hterm).trans (Enc.lane_laneFields w0 w1 w2), hwf⟩

theorem encode_of_decodeWords {ws : List Half} {i : Instr} (h : decodeWords ws = .ok i) (htwo : ∀ w0 w1, ws = [w0, w1] → scalarWords w0 = 2) :
    encode i = ws ∧ i.wf = true := by
  unfold decodeWords at h
  split at h
  · rename_i w0
    split at h
    · rename_i hone
      have henc := encode_of_decodeScalar h
      rwa [eq_of_beq hone, if_neg (by decide)] at henc
    · cases h
  · rename_i w0 w1
    have henc := encode_of_decodeScalar h
    rwa [htwo w0 w1 rfl, if_pos rfl] at henc
  · exact encode_of_decodeLane h
  · cases h

/-- An instruction has three words at most (R38, R39). -/
theorem length_encode_le (i : Instr) : (encode i).length ≤ 3 := by
  cases i
  all_goals exact Nat.le_of_ble_eq_true rfl

theorem length_encode_of_coded {i : Instr} (h : i.coded = true) : ((encode i).length == 1) = true ∨ ((encode i).length == 2) = true ∨ i.isLane = true := by
  have hpos : 0 < (encode i).length := List.length_pos_iff.2 fun hnil => by simp [Instr.coded, hnil] at h
  have hle := length_encode_le i
  simp only [Instr.isLane, beq_iff_eq]
  omega

theorem decodeWords_encode (i : Instr) (hcoded : i.coded = true) (hwf : i.wf = true) : decodeWords (encode i) = .ok i := by
  have hterm : decodeWords (encode i) = Dec.checked (.ok i) := by
    rcases length_encode_of_coded hcoded with h | h | h
    · exact decodeWords_encode_of_one i h
    · exact decodeWords_encode_of_two i h
    · exact decodeWords_encode_of_lane i h
  exact hterm.trans (checked_eq_ok.2 ⟨rfl, hwf⟩)

/-- Settles O58: one direction by what each form's fields decode to, the other by what each family's words encode to. -/
theorem roundTrip : Obligations.RoundTrip :=
  ⟨decodeWords_encode, fun _ _ h htwo => encode_of_decodeWords h htwo⟩

/-- A word that an instruction encodes to decodes to it. -/
theorem decodeWords_of_encode {ws : List Half} {i : Instr} (henc : encode i = ws) (hcoded : i.coded = true) (hwf : i.wf = true) :
    decodeWords ws = .ok i :=
  henc ▸ decodeWords_encode i hcoded hwf

/-- Settles O57: each word is what its instruction encodes to (`decodeWords_of_encode`); the words that are rejected are evaluated. -/
theorem decodedWords : Obligations.DecodedWords := by
  refine ⟨?_, ?_, ?_, ?_, ?_, ?_, ?_, ?_, ?_⟩
  case refine_6 => rfl
  case refine_7 => rfl
  all_goals exact decodeWords_of_encode rfl rfl rfl

end Sys2Proof

/-! PROOFS. No turn stops the machine: every instruction of a stream that issues, every fetch and every event answers a next state (R46, R48, R50, R62). -/

namespace Sys2Proof.Machine

/-- The outcome is a next state. -/
def Answers (r : Out) : Prop := ∃ t, r = .next t

theorem Answers.next (s : State) : Answers (.next s) := ⟨s, rfl⟩

theorem Answers.ite {c : Prop} [Decidable c] {a b : Out} (ha : Answers a) (hb : Answers b) : Answers (if c then a else b) := by
  split
  · exact ha
  · exact hb

/-- What a guard lets through when its condition holds. -/
theorem Answers.guarded {c : Bool} {r r' : Out} (hc : c = true) (h : Answers r) : Answers (if !c then r' else r) := by
  subst hc
  exact h

theorem after_answers {r : Out} (h : Answers r) : Answers (after r) := by
  obtain ⟨s, rfl⟩ := h
  exact .next _

theorem warpLive_eq (s : State) (t w : Nat) : s.warpLive t w = (s.hasWarp t w && (s.warp t w).life == .running) := by
  unfold State.warpLive State.hasWarp State.warp Team.warp State.team Map.get
  cases hT : s.teams.find t with
  | none => rfl
  | some T => cases hW : T.warps.find w <;> simp [hW]

theorem warpLive_modWarp {s : State} {t w : Nat} {f : Warp → Warp} (h : s.warpLive t w = true) (hf : ∀ W, (f W).life = W.life) :
    (s.modWarp t w f).warpLive t w = true := by
  rw [warpLive_eq, State.hasWarp_modWarp, State.warp_modWarp_self _ _ _ _ (State.hasWarp_of_live h), hf, ← warpLive_eq, h]

theorem warpLive_of_issuing {s : State} {t w : Nat} (hcur : s.cur = .warp t w) (h : s.issuing = true) : s.warpLive t w = true := by
  simpa [State.issuing, hcur] using h

theorem seqLive_of_issuing {s : State} {t : Nat} (hcur : s.cur = .seq t) (h : s.issuing = true) : s.seqLive t = true := by
  simpa [State.issuing, hcur] using h

theorem live_of_issuing {s : State} {t w : Nat} {b : Bool} (hcur : s.cur = .path t w b) (h : s.issuing = true) :
    s.warpLive t w = true ∧ ((s.warp t w).path b).isSome = true := by
  simpa [State.issuing, hcur] using h

theorem pathLive_of_issuing {s : State} {t w : Nat} {b : Bool} (hcur : s.cur = .path t w b) (h : s.issuing = true) : s.pathLive t w b = true := by
  obtain ⟨hlive, hpath⟩ := live_of_issuing hcur h
  exact pathLive_of_live hlive hpath

theorem cur_ne_none_of_issuing {s : State} (h : s.issuing = true) : s.cur ≠ .none := by
  intro hcur
  simp [State.issuing, hcur] at h

/-! ### What guards an instruction: a stream that issues passes, or takes the illegal-instruction exception -/

theorem scalar_answers {s : State} {onWarp onSeq : Bool} {fields : List Reg} {reads : List Nat} {k : Out} (h : s.issuing = true)
    (hk : ∀ t w, s.cur.ids = some (t, w) → Answers k) : Answers (scalar onWarp onSeq fields reads s k) := by
  unfold scalar
  split
  all_goals rename_i hcur
  · exact .guarded (warpLive_of_issuing hcur h) (.ite (.next _) (.ite (.next _) (hk _ _ (by rw [hcur]; rfl))))
  · exact .guarded (seqLive_of_issuing hcur h) (.ite (.next _) (.ite (.next _) (.ite (.next _) (hk _ _ (by rw [hcur]; rfl)))))
  · obtain ⟨-, hpath⟩ := live_of_issuing hcur h
    rw [if_neg (Option.isSome_iff_ne_none.1 hpath)]
    exact .next _
  · exact absurd hcur (cur_ne_none_of_issuing h)

theorem lane_answers {s : State} {k : Nat → Nat → Bool → Out} (h : s.issuing = true) (hk : ∀ t w b, Answers (k t w b)) : Answers (lane s k) := by
  unfold lane
  split
  all_goals rename_i hcur
  · exact .guarded (pathLive_of_issuing hcur h) (hk _ _ _)
  · rw [warpLive_of_issuing hcur h]
    exact .next _
  · rw [seqLive_of_issuing hcur h]
    exact .next _
  · exact absurd hcur (cur_ne_none_of_issuing h)

theorem execIllegalInstruction_answers {s : State} (h : s.issuing = true) : Answers (execIllegalInstruction s) := by
  unfold execIllegalInstruction
  split
  all_goals rename_i hcur
  · rw [pathLive_of_issuing hcur h]
    exact .next _
  · rw [warpLive_of_issuing hcur h]
    exact .next _
  · rw [seqLive_of_issuing hcur h]
    exact .next _
  · exact absurd hcur (cur_ne_none_of_issuing h)

theorem execFetchFault_answers {cause detail : BitVec 8} {addr : Nat} {straddle : Bool} {s : State} (h : s.issuing = true) :
    Answers (execFetchFault cause detail addr straddle s) := by
  unfold execFetchFault
  dsimp only
  split
  all_goals rename_i hcur
  · exact .guarded (pathLive_of_issuing hcur h) (.ite (.next _) (.next _))
  · exact .guarded (warpLive_of_issuing hcur h) (.ite (.next _) (.ite (.next _) (.next _)))
  · exact .guarded (seqLive_of_issuing hcur h) (.ite (.next _) (.ite (.next _) (.next _)))
  · exact absurd hcur (cur_ne_none_of_issuing h)

/-! ### The frames of instructions -/

theorem warpOnly_answers {s : State} {fields : List Reg} {reads : List Nat} {k : Out} (h : s.issuing = true)
    (hk : ∀ t w, s.cur.ids = some (t, w) → Answers k) : Answers (warpOnly fields reads s k) := scalar_answers h hk

theorem transfer_answers (s : State) (x : Word) (k : State) : Answers (transfer s x k) := by
  unfold transfer
  split <;> exact .next _

theorem exitInstr_answers (s : State) : Answers (exitInstr s) := by
  unfold exitInstr
  split
  · split <;> exact .next _
  · exact .next _

theorem priv_answers {s : State} {fields : List Reg} {reads : List Nat} {k : Out} (h : s.issuing = true) (hk : Answers k) :
    Answers (priv fields reads s k) := by
  refine warpOnly_answers h fun _ _ _ => ?_
  split
  · exact hk
  · exact .next _

theorem rangeOp_answers {a b : Reg} {s : State} {k : Nat → PageRange → State → State} (h : s.issuing = true) : Answers (rangeOp a b s k) := by
  refine priv_answers h ?_
  dsimp only
  split
  · split <;> exact .next _
  · exact .next _

theorem satom_answers {op : Nat} {uns : Bool} {d a b : Reg} {scope : Scope} {wide : Bool} {s : State} (h : s.issuing = true) :
    Answers (satom op uns d a b scope wide s) := by
  refine warpOnly_answers h fun _ _ _ => ?_
  dsimp only
  split <;> exact .next _

theorem awInstr_answers {d a b : Reg} {useB rel rd : Bool} {s : State} {k : Nat → Nat → Nat → State → Out} (h : s.issuing = true)
    (hk : ∀ t x w s, Answers (k t x w s)) : Answers (awInstr d a b useB rel rd s k) := by
  refine scalar_answers h fun _ _ _ => ?_
  dsimp only
  split
  · exact .next _
  · split
    · exact .next _
    · split
      · exact hk ..
      · split
        · split
          · exact hk ..
          · exact .next _
        · split
          · exact hk ..
          · exact .next _

theorem phInstr_answers {d a b : Reg} {useB : Bool} {s : State} {k : Nat → Nat → Word → State → State} (h : s.issuing = true) :
    Answers (phInstr d a b useB s k) := by
  refine warpOnly_answers h fun _ _ _ => ?_
  cases s.cur with
  | warp t w => cases s.waiting <;> exact .next _
  | path | seq | none => exact .next _

theorem cpyInstr_answers {kind : Nat} {d a b : Reg} {phs ord sto : Bool} {s : State} (h : s.issuing = true) :
    Answers (cpyInstr kind d a b phs ord sto s) := by
  refine scalar_answers h fun t w hids => ?_
  rw [hids]
  dsimp only
  split
  · exact .next _
  · split <;> exact .next _

theorem netInstr_answers {kind : Nat} {d a b : Reg} {s : State} (h : s.issuing = true) : Answers (netInstr kind d a b s) := by
  refine warpOnly_answers h fun t w hids => ?_
  rw [hids]
  dsimp only
  split
  · exact .next _
  · split
    · exact .next _
    · split <;> exact .next _

theorem mIssue_answers {op fields reads tile n g ta tb wr rows fill} {s : State} (h : s.issuing = true) :
    Answers (mIssue op fields reads tile n g ta tb wr rows fill s) := by
  refine scalar_answers h fun _ _ _ => ?_
  dsimp only
  split
  · exact .next _
  · split
    · exact .next _
    · split
      · exact .next _
      · split <;> exact .next _

theorem laneGlobal_answers {f reads n k addr act} {s : State} (h : s.issuing = true) : Answers (laneGlobal f reads n k addr act s) := by
  refine lane_answers h fun t w b => ?_
  dsimp only
  split
  · exact .next _
  · split <;> exact .next _

theorem laneScratch_answers {f reads n k act} {s : State} (h : s.issuing = true) : Answers (laneScratch f reads n k act s) := by
  refine lane_answers h fun t w b => ?_
  dsimp only
  split <;> exact .next _

theorem laneAtom_answers {f op ret cas} {s : State} (h : s.issuing = true) : Answers (laneAtom f op ret cas s) := by
  unfold laneAtom
  dsimp only
  split
  · exact laneScratch_answers h
  · exact laneGlobal_answers h

theorem laneHandle_answers {f reads n k bound act} {s : State} (h : s.issuing = true) : Answers (laneHandle f reads n k bound act s) := by
  refine lane_answers h fun t w b => ?_
  dsimp only
  split
  · exact .next _
  · split <;> exact .next _

theorem handlerLane_answers {s : State} {k : Nat → Nat → Bool → Out} (h : s.issuing = true) (hk : ∀ t w b, Answers (k t w b)) :
    Answers (handlerLane s k) := by
  refine lane_answers h fun t w b => ?_
  split
  · exact hk t w b
  · exact .next _

theorem laneWrites_answers {f reads val} {s : State} (h : s.issuing = true) : Answers (laneWrites f reads val s) :=
  lane_answers h fun _ _ _ => .next _

theorem indirect_answers {call f} {s : State} (h : s.issuing = true) : Answers (indirect call f s) := by
  refine lane_answers h fun t w b => ?_
  refine .ite (.next _) (.ite ?_ (.next _))
  split <;> exact .next _

theorem mTile_answers {op fields reads tile ta} {s : State} (h : s.issuing = true) : Answers (mTile op fields reads tile ta s) := by
  unfold mTile
  exact mIssue_answers h


theorem phSignal_answers {hold d a b} {s : State} (h : s.issuing = true) : Answers (phSignal hold d a b s) := by
  unfold phSignal
  exact phInstr_answers h

theorem phTest_answers {wait d a b} {s : State} (h : s.issuing = true) : Answers (phTest wait d a b s) := by
  unfold phTest
  exact phInstr_answers h

theorem phResult_answers {kind d a b g} {s : State} (h : s.issuing = true) : Answers (phResult kind d a b g s) := by
  unfold phResult
  exact phInstr_answers h

/-! ### Instructions -/

theorem exec_answers_of_scalar {s : State} (h : s.issuing = true) (i : Instr) (hi : (i.coded && !i.isLane) = true) : Answers (exec i s) := by
  cases i with
  | add | sub | and | or | xor | andn | shl | shr | sar | mul | mulhu | mulhs | divu | remu | divs | rems | min | max | minu |
  maxu | clz | ctz | popc | seq | sne | slt | sltu | sle | sleu | cmov | bfx | bfi | addi | andi | ori | xori | shli | shri | sari
  | slti | sltui | seqi | sld | sldz | sst | sysNop | sysYield | sysTrap | sysBrk | sysClock | sysPtpread | cpyst | npoll | enqst
  | li | lih | addx => exact scalar_answers h fun _ _ _ => .next _
  | sldp | sstp | lgo | fence | sysSleep | awwait | nkey | nchain | nrxpop | enq | qwait | mighint | fragrd | dirtyget | teamhalt =>
    refine scalar_answers h fun _ _ _ => ?_
    dsimp only
    repeat' split
    all_goals exact .next _
  | satomAdd | satomAnd | satomOr | satomXor | satomMin | satomMax | satomMinu | satomMaxu | satomXchg | satomCas => exact satom_answers h
  | j | jal | jr => exact scalar_answers h fun _ _ _ => transfer_answers ..
  | lwait | cpycan | mwait =>
    refine scalar_answers h fun _ _ _ => ?_
    repeat' split
    all_goals exact .next _
  | sysExit => exact warpOnly_answers h fun _ _ _ => exitInstr_answers s
  | phsig | phsigb => exact phSignal_answers h
  | phwait | phtest => exact phTest_answers h
  | phany | phval => exact phResult_answers h
  | cpy | cpy2 | cpyw | cpyx | cpyfill | cpyr => exact cpyInstr_answers h
  | nput | nget | natom | nsend => exact netInstr_answers h
  | mzero | mchk | mloc | mfix => exact mTile_answers h
  | br =>
    refine scalar_answers h fun _ _ _ => ?_
    split
    · exact transfer_answers ..
    · exact .next _
  | sget =>
    refine scalar_answers h fun t w hids => ?_
    rw [hids]
    dsimp only
    split <;> exact .next _
  | sput =>
    refine scalar_answers h fun t w hids => ?_
    rw [hids]
    dsimp only
    split
    · split <;> exact .next _
    · exact .next _
  | awinit a b => exact (awInstr_answers h fun _ _ _ _ => .next _ : Answers (execAwinit a b s))
  | awexpect d a b => exact (awInstr_answers h fun _ _ _ _ => .next _ : Answers (execAwexpect d a b s))
  | awarrive d a b => exact (awInstr_answers h fun _ _ _ _ => .next _ : Answers (execAwarrive d a b s))
  | awtest d a b => exact (awInstr_answers h fun _ _ _ _ => .next _ : Answers (execAwtest d a b s))
  | phnew d a b => exact (phInstr_answers h : Answers (execPhnew d a b s))
  | phfree d a => exact (phInstr_answers h : Answers (execPhfree d a s))
  | phjoin d a b => exact (phInstr_answers h : Answers (execPhjoin d a b s))
  | phleave d a => exact (phInstr_answers h : Answers (execPhleave d a s))
  | phread d a => exact (phInstr_answers h : Answers (execPhread d a s))
  | tret =>
    refine warpOnly_answers h fun _ _ _ => ?_
    split
    · exact exitInstr_answers s
    · exact .next _
  | pinv a b => exact (rangeOp_answers h : Answers (execPinv a b s))
  | cwb a b => exact (rangeOp_answers h : Answers (execCwb a b s))
  | cinv a b => exact (rangeOp_answers h : Answers (execCinv a b s))
  | macc g a b save t => exact (mIssue_answers h : Answers (execMacc g a b save t s))
  | mdrain g z rnd lc a b fmt t => exact (mIssue_answers h : Answers (execMdrain g z rnd lc a b fmt t s))
  | mma t a b slot bi4 lc k ap sp => exact (mIssue_answers h : Answers (execMma t a b slot bi4 lc k ap sp s))
  | mmas t a b slot bi4 lc k ap sp => exact (mIssue_answers h : Answers (execMmas t a b slot bi4 lc k ap sp s))
  | _ => exact absurd hi Bool.false_ne_true

theorem exec_answers_of_lane {s : State} (h : s.issuing = true) (i : Instr) (hi : i.isLane = true) : Answers (exec i s) := by
  cases i with
  | vadd | vsub | vmul | vmulh | vmad | vaddc | vand | vor | vxor | vshl | vshr | vsar | vmin | vmax | vabs | vclz | vpopc | vbfx
  | vbfi | vicmp | vsel | vdiv | vrem | vsad | vdot4 | vfadd | vfsub | vfmul | vfma | vfmin | vfmax | vfcmp | vfclass | vfrcp |
  vfrsq | vfsqrt | vfdiv | vfexp2 | vflog2 | vfsin | vfcos | vfrnd | vfldexp | vfgetexp | vcvt | vqnt | vdqnt | vshfl | vbcast |
  vvote | vreduce | vscan | vmatch | mlog | mpopc | mfirst | mset | mget | mput | ljmp | lpad | lexit | lnop | vpref | ltrap =>
    exact lane_answers h fun _ _ _ => .next _
  | vsreg | lbr | lcall | lret | ljoin | lend | lbar | vldf | vfence =>
    refine lane_answers h fun _ _ _ => ?_
    dsimp only
    repeat' split
    all_goals exact .next _
  | ljmpi | lcalli => exact indirect_answers h
  | vatom | vred | vcas => exact laneAtom_answers h
  | lkill | lresume | lorigin | voget | voput => exact handlerLane_answers h fun _ _ _ => .next _
  | vmov f =>
    change Answers (execVmov f s)
    unfold execVmov
    dsimp only
    split <;> exact laneWrites_answers h
  | lfrag f =>
    change Answers (execLfrag f s)
    unfold execLfrag
    split <;> exact laneWrites_answers h
  | vld f =>
    change Answers (execVld f s)
    unfold execVld
    exact laneGlobal_answers h
  | vst f =>
    change Answers (execVst f s)
    unfold execVst
    exact laneGlobal_answers h
  | vldp f =>
    change Answers (execVldp f s)
    unfold execVldp
    exact laneScratch_answers h
  | vstp f =>
    change Answers (execVstp f s)
    unfold execVstp
    exact laneScratch_answers h
  | vldr f =>
    change Answers (execVldr f s)
    unfold execVldr
    exact laneHandle_answers h
  | vstr f =>
    change Answers (execVstr f s)
    unfold execVstr
    exact laneHandle_answers h
  | vatomr f =>
    change Answers (execVatomr f s)
    unfold execVatomr
    exact laneHandle_answers h
  | _ => exact absurd hi Bool.false_ne_true

/-! ### Events -/

theorem hostOnly_answers {s : State} {k : Out} (hk : Answers k) : Answers (hostOnly s k) := .ite hk (.next _)

theorem spdmStep_answers {need next : Nat} {body : List Byte} {s : State} : Answers (spdmStep need next body s) :=
  hostOnly_answers (.ite (.next _) (.next _))

theorem command_answers {op : Nat} {fn : BitVec 2} {s : State} {k : Nat → Func → State} : Answers (command op fn s k) := .ite (.next _) (.next _)

theorem answered_answers {s : State} {p : TwillPacket} {f : Nat → Req → State → State} : Answers (s.answered p f) := by
  refine .ite (.next _) ?_
  split <;> exact .next _

theorem calicoServe_answers {op g p f} {s : State} : Answers (calicoServe op g p f s) := by
  refine .ite (.next _) ?_
  dsimp only
  split
  · exact .next _
  · split
    · exact .next _
    · exact .next _
    · split <;> exact .next _

theorem execCalicoAtomic_answers {g p} {s : State} : Answers (execCalicoAtomic g p s) := by
  unfold execCalicoAtomic
  exact calicoServe_answers

theorem execCalicoData_answers {g p} {s : State} : Answers (execCalicoData g p s) := by
  refine .ite (.next _) ?_
  split
  · exact .ite (.next _) (.next _)
  · exact .next _

theorem execCalicoAtomresp_answers {g p} {s : State} : Answers (execCalicoAtomresp g p s) := by
  refine .ite (.next _) ?_
  split
  · exact .ite (.next _) (.next _)
  · exact .next _

theorem execCalicoAck_answers {g p} {s : State} : Answers (execCalicoAck g p s) := by
  refine .ite (.next _) ?_
  split <;> exact .next _

theorem execCalicoNak_answers {g p} {s : State} : Answers (execCalicoNak g p s) := by
  refine .ite (.next _) ?_
  split
  · exact .ite (.next _) (.ite (.next _) (.ite (.next _) (.next _)))
  · exact .next _

theorem calicoPacket_answers {g op p} {s : State} : Answers (calicoPacket g op p s) := by
  unfold calicoPacket
  split
  · exact calicoServe_answers
  · exact calicoServe_answers
  · exact execCalicoData_answers
  · exact execCalicoAtomic_answers
  · exact execCalicoAtomresp_answers
  · exact execCalicoAck_answers
  · exact execCalicoNak_answers

theorem execFrameReceive_answers {f} {s : State} : Answers (execFrameReceive f s) := by
  unfold execFrameReceive
  dsimp only
  split
  · exact .next _
  · refine .ite (.next _) ?_
    split
    · split
      · exact calicoPacket_answers
      · exact .next _
    · split <;> exact .next _

theorem execMatrixOpComplete_answers {t : Nat} {s : State} : Answers (execMatrixOpComplete t s) := by
  unfold execMatrixOpComplete
  extract_lets T
  cases T.mq with
  | nil => exact .next _
  | cons o r =>
    refine .ite (.next _) ?_
    split
    · refine .ite (.next _) ?_
      split
      · exact .next _
      · refine .ite (.next _) ?_
        split
        exact .next _
    · exact .next _

theorem exec_answers_of_event {s : State} (i : Instr) (hi : (Turn.event i).sound s = true) : Answers (exec i s) := by
  cases i with
  | hostMemoryWrite => exact hostOnly_answers (.ite (.next _) (.next _))
  | hostMemoryRead | hostRegisterWrite => exact hostOnly_answers (.next _)
  | framefmt fn => exact (command_answers : Answers (execFramefmt fn s))
  | partset fn => exact (command_answers : Answers (execPartset fn s))
  | partstop fn => exact (command_answers : Answers (execPartstop fn s))
  | partgo fn => exact (command_answers : Answers (execPartgo fn s))
  | pstate fn => exact (command_answers : Answers (execPstate fn s))
  | cstep fn => exact (command_answers : Answers (execCstep fn s))
  | powercap fn => exact (command_answers : Answers (execPowercap fn s))
  | fwload fn => exact (command_answers : Answers (execFwload fn s))
  | diereset fn => exact (command_answers : Answers (execDiereset fn s))
  | commandCompletion | powerMeasurement | commandLinkMessage | bundleStart | preemptWaitExpiry | teamRestore | teamComplete |
  bundleRetire | laneBlockStart | slotTakesWork | demandPageResolved | copyChunk | matrixOpStart | mmaAttemptDone | gauzeSignal |
  gauzeComplete | gauzeJoin | gauzeLeave | gauzeCreate | gauzeCreateReply | gauzeFree | gauzeLate | gauzeJoinReply |
  linkLevelRetry =>
    delta exec
    dsimp only [execCommandCompletion, execPowerMeasurement, execCommandLinkMessage, execBundleStart, execPreemptWaitExpiry,
      execTeamRestore, execTeamComplete, execBundleRetire, execLaneBlockStart, execSlotTakesWork, execDemandPageResolved,
      execCopyChunk, execMatrixOpStart, execMmaAttemptDone, execGauzeSignal, execGauzeComplete, execGauzeJoin, execGauzeLeave,
      execGauzeCreate, execGauzeCreateReply, execGauzeFree, execGauzeLate, execGauzeJoinReply, execLinkLevelRetry]
    repeat' split
    all_goals exact .next _
  | getVersion | getCapabilities | negotiateAlgorithms | getDigests | getCertificate | challenge | getMeasurements => exact spdmStep_answers
  | coldReset | thermalTrip | thermalTripEnd | thermalShutdown | translationReply | streamSlotAccept | gauzeBroken | gauzeCredit |
  gauzeReservedFlit | gauzePortLost | twillRead | twillWrite | twillAtomic | twillReservedPacket | ucieLinkFailure |
  twillPortFailure | keyInstallation | calicoBadPacket | messageRecordRelease | linkRepair | gauzeNodeFailure => exact .next _
  | powerLoss | watchdogExpiry | firmwareTablesRebuilt | mappingTick | teamPlace | shareWindowEnd | slotAdvertise | migrationSend
  | joinExpiry | regcacheFillDone | wayDisable | groupRetire | messageRecordAgeOut => exact .ite (.next _) (.next _)
  | clockStepChangeDone | sleepExpiry | qwaitTimeout | handlerGatherTimeout | loadDataReturn | copyComplete | valuePhaseTimeout |
  routeLostTimeout | calicoRetransmitTimeout | frameSent =>
    delta exec
    dsimp only [execClockStepChangeDone, execSleepExpiry, execQwaitTimeout, execHandlerGatherTimeout, execLoadDataReturn,
      execCopyComplete, execValuePhaseTimeout, execRouteLostTimeout, execCalicoRetransmitTimeout, execFrameSent]
    repeat' split
    all_goals exact .next _
  | watchdogKick => exact .ite (.next _) (.ite (.next _) (.next _))
  | matrixOpComplete => exact execMatrixOpComplete_answers
  | twillData p => exact (answered_answers : Answers (execTwillData p s))
  | twillAck p => exact (answered_answers : Answers (execTwillAck p s))
  | twillNak p => exact (answered_answers : Answers (execTwillNak p s))
  | calicoWrite grp p => exact (calicoServe_answers : Answers (execCalicoWrite grp p s))
  | calicoRead grp p => exact (calicoServe_answers : Answers (execCalicoRead grp p s))
  | calicoData => exact execCalicoData_answers
  | calicoAtomic => exact execCalicoAtomic_answers
  | calicoAtomresp => exact execCalicoAtomresp_answers
  | calicoAck => exact execCalicoAck_answers
  | calicoNak => exact execCalicoNak_answers
  | frameReceive => exact execFrameReceive_answers
  | _ => exact absurd hi Bool.false_ne_true

/-! ### A fetch leaves the issuing stream and the teams alone -/

/-- The issuing stream and the teams are the same in both states. -/
structure SameTeams (s s' : State) : Prop where
  cur : s'.cur = s.cur
  teams : s'.teams = s.teams

theorem SameTeams.trans {s s' s'' : State} (h : SameTeams s s') (g : SameTeams s' s'') : SameTeams s s'' :=
  ⟨g.cur.trans h.cur, g.teams.trans h.teams⟩

theorem SameStreams.sameTeams {s s' : State} (h : SameStreams s s') : SameTeams s s' := ⟨h.cur, h.teams⟩

theorem SameTeams.issuing_eq {s s' : State} (h : SameTeams s s') : s'.issuing = s.issuing := by
  simp only [State.issuing, State.warpLive, State.seqLive, State.warp, State.team, h.cur, h.teams]

theorem SameTeams.leads_eq {s s' : State} (h : SameTeams s s') (x : Stream) : s'.leads x = s.leads x := by
  unfold State.leads State.team
  rw [h.teams]

theorem sameTeams_translate (s : State) (space va : Nat) : SameTeams s (s.translate space va).2 := by
  unfold State.translate
  dsimp only
  split
  · exact ⟨rfl, rfl⟩
  · split
    · exact ⟨rfl, rfl⟩
    · dsimp only
      split <;> exact ⟨rfl, rfl⟩

theorem sameTeams_mapped (s : State) (d space va : Nat) (page : Page) (p : Nat) : SameTeams s (s.mapped d space va page p) := by
  unfold State.mapped
  dsimp only
  split <;> exact ⟨rfl, rfl⟩

theorem sameTeams_fillFetch (s : State) (die core space va pa : Nat) : SameTeams s (s.fillFetch die core space va pa) := ⟨rfl, rfl⟩

theorem sameTeams_wordAt (s : State) (t va : Nat) (page : Page) (pa : Nat) : SameTeams s (s.wordAt t va page pa).2 := by
  unfold State.wordAt
  dsimp only
  split
  · exact ⟨rfl, rfl⟩
  · split
    · exact ⟨rfl, rfl⟩
    · exact (sameStreams_choose s _).sameTeams

theorem sameTeams_fetchWord (s : State) (t va : Nat) : SameTeams s (s.fetchWord t va).2 := by
  unfold State.fetchWord
  dsimp only
  split
  · exact ⟨rfl, rfl⟩
  · have htr := sameTeams_translate s (s.team t).space va
    split
    · rename_i c s1 heq
      rw [heq] at htr
      split
      · exact htr.trans (sameTeams_wordAt ..)
      · exact htr
    · rename_i x s1 heq
      rw [heq] at htr
      split
      · exact htr.trans (sameTeams_wordAt ..)
      · split
        · exact htr
        · split
          · exact htr.trans (sameTeams_wordAt ..)
          · exact htr.trans ((sameTeams_mapped ..).trans ((sameTeams_fillFetch ..).trans (sameTeams_wordAt ..)))

theorem sameTeams_fetchWords (s : State) (t va n : Nat) : SameTeams s (s.fetchWords t va n).2 := by
  induction n with
  | zero => exact ⟨rfl, rfl⟩
  | succ n ih =>
    unfold State.fetchWords
    split
    · rename_i ws s1 heq
      rw [heq] at ih
      have hword := sameTeams_fetchWord s1 t (va + 4 * n)
      split
      all_goals rename_i heq'; rw [heq'] at hword
      · exact ih.trans hword
      · split <;> exact ih.trans hword
      · exact ih.trans hword
    · exact ih

theorem sameTeams_fetchNext (s : State) (x : Stream) : SameTeams s (s.fetchNext x).2 := by
  unfold State.fetchNext
  split
  · exact sameTeams_fetchWords ..
  · exact ⟨rfl, rfl⟩
  · have hfirst := sameTeams_fetchWords s s.me s.pc.toNat 1
    dsimp only
    split
    · rename_i w0 s1 heq
      rw [heq] at hfirst
      split
      · exact hfirst
      · have hword := sameTeams_fetchWord s1 s.me (s.pc.toNat + 4)
        split
        all_goals rename_i heq'; rw [heq'] at hword
        · exact hfirst.trans hword
        · split <;> exact hfirst.trans hword
        · exact hfirst.trans hword
    · exact hfirst

/-! ### Every coded instruction, and a stream that issues -/

theorem exec_answers_of_coded {s : State} (h : s.issuing = true) {i : Instr} (hi : i.coded = true) : Answers (exec i s) := by
  by_cases hlane : i.isLane = true
  · exact exec_answers_of_lane h i hlane
  · exact exec_answers_of_scalar h i (by simp [hi, hlane])

/-! ### A leader's stream (R428, R429) -/

theorem Answers.recorded {s : State} {x : Stream} {t w : Nat} {i : Instr} {e : Half} {r : Out} (h : Answers r) :
    Answers (s.recorded x t w i e r) := by
  obtain ⟨s', rfl⟩ := h
  exact .next _

theorem issuing_modWarp {s : State} {t w : Nat} {b : Bool} {f : Warp → Warp} (hcur : s.cur = .path t w b) (hlive : s.warpLive t w = true)
    (hpath : ¬ ((((s.modWarp t w f).warp t w).path b).isNone = true)) (hf : ∀ W, (f W).life = W.life) : (s.modWarp t w f).issuing = true := by
  rw [State.issuing, State.modWarp_cur, hcur, Bool.and_eq_true]
  exact ⟨warpLive_modWarp hlive hf, by simpa [Option.isSome_iff_ne_none] using hpath⟩

theorem Warp.life_leave (W : Warp) (b : Bool) (ls : Half) : (W.leave b ls).life = W.life := by
  unfold Warp.leave Warp.setPath
  split <;> rfl

theorem compared_answers {s : State} (h : s.issuing = true) {i : Instr} (hi : i.coded = true) (d : Half) (scalar : Bool) :
    Answers (s.compared s.cur i d scalar) := by
  have hexec := exec_answers_of_coded h hi
  unfold State.compared
  split
  · rename_i t w b hcur
    obtain ⟨hlive, -⟩ := live_of_issuing hcur h
    refine .ite hexec ?_
    dsimp only
    split
    · exact .next _
    · rename_i hpath
      obtain ⟨s', hs'⟩ := exec_answers_of_coded (issuing_modWarp hcur hlive hpath fun W => W.life_leave ..) hi
      rw [hs']
      exact .next _
  · exact .ite (.next _) hexec
  · exact hexec

theorem leadIssue_answers {s : State} (h : s.issuing = true) {i : Instr} (hi : i.coded = true) (t w : Nat) (e : Half) :
    Answers (s.leadIssue s.cur t w i e) := by
  unfold State.leadIssue
  dsimp only
  refine .ite (.next _) ?_
  split
  · exact .ite (compared_answers h hi ..).recorded (.next _)
  · exact .ite (.next _) (.ite (exec_answers_of_coded h hi).recorded (.next _))

theorem coded_of_decodeWords {ws : List Half} {i : Instr} (h : decodeWords ws = .ok i) : i.coded = true := by
  have hne : encode i ≠ [] := by
    unfold decodeWords at h
    split at h
    · split at h
      · rw [(encode_of_decodeScalar h).1]
        split <;> exact List.cons_ne_nil _ _
      · cases h
    · rw [(encode_of_decodeScalar h).1]
      split <;> exact List.cons_ne_nil _ _
    · rw [(encode_of_decodeLane h).1]
      exact List.cons_ne_nil _ _
    · cases h
  simpa [Instr.coded] using hne

theorem issue_answers {s : State} {x : Stream} (h : State.issuing { s with cur := x } = true) : Answers (s.issue x) := by
  have hsame := sameTeams_fetchNext { s with cur := x, ilen := 4 } x
  unfold State.issue
  cases hf : State.fetchNext { s with cur := x, ilen := 4 } x with
  | mk r s1 =>
  rw [hf] at hsame
  have hcur : s1.cur = x := hsame.cur
  have hissuing : State.issuing { s1 with ilen := fetchedLen r } = true := hsame.issuing_eq.trans h
  subst hcur
  simp only [hf]
  cases r with
  | words ws =>
    dsimp only
    split
    · rename_i i hdec
      split
      · exact exec_answers_of_coded hissuing (coded_of_decodeWords hdec)
      · exact leadIssue_answers hissuing (coded_of_decodeWords hdec) ..
    · exact execIllegalInstruction_answers hissuing
  | fail d a straddle => exact execFetchFault_answers hissuing
  | poison => exact execFetchFault_answers hissuing

theorem issuing_served (s : State) (x : Stream) : State.issuing { s.served x with cur := x } = State.issuing { s with cur := x } := by
  unfold State.served
  split <;> rfl

theorem move_answers {s : State} {x : Turn} (h : x.sound s = true) : Answers (s.move x) := by
  unfold State.move
  split
  · exact issue_answers ((issuing_served ..).trans h)
  · exact exec_answers_of_event _ h
  all_goals exact .next _

/-- Settles O59: each instruction's frame answers in a stream that issues, a fetch leaves the streams alone, and no event has a guard. -/
theorem noTurnStops : Obligations.NoTurnStops := by
  refine ⟨fun s x h => move_answers h, fun s x r hin h => ?_⟩
  have hturn : s.turn = State.move { s with inputs := r } x := by
    unfold State.turn
    rw [hin]
  have hsound : x.sound { s with inputs := r } = true := by
    cases x with
    | _ => exact h
  unfold step
  rw [hturn]
  exact after_answers (move_answers hsound)
end Sys2Proof.Machine

/-! PROOFS. A step runs the instruction that is fetched at the program counter (R38 to R41, R428, R429). -/

namespace Sys2Proof.Machine

/-! ### The contents of a code word -/

theorem natLE_rdBytes (m : List Host.Cell) (a n : Nat) :
    natLE (rdBytes m a n) = ((List.range n).map fun i => (Map.get m (a + i) 0).toNat * 2 ^ (8 * i)).sum := by
  induction n generalizing a with
  | zero => rfl
  | succ n ih =>
    have hshift : ∀ i, (Map.get m (a + 1 + i) 0).toNat * 2 ^ (8 * i) * 256 = (Map.get m (a + (i + 1)) 0).toNat * 2 ^ (8 * (i + 1)) := fun i => by
      rw [Nat.add_assoc a 1 i, Nat.add_comm 1 i, Nat.mul_assoc, Nat.mul_add, Nat.pow_add]
    simp only [rdBytes, natLE, ih, List.range_succ_eq_map, List.map_cons, List.map_map, List.sum_cons]
    rw [Nat.mul_comm 256, ← List.sum_map_mul_right]
    rw [Nat.mul_zero, Nat.pow_zero, Nat.mul_one, Nat.add_zero]
    exact congrArg (_ + List.sum ·) (List.map_congr_left fun i _ => hshift i)

theorem rd_eq_value (s : State) (d a n : Nat) : (s.die d).rd a n = s.value d a n := natLE_rdBytes ..

theorem mem_die_modDie (s : State) (d e : Nat) {f : Die → Die} (hf : ∀ D, (f D).mem = D.mem) : ((s.modDie d f).die e).mem = (s.die e).mem := by
  unfold State.die Map.get
  rw [State.find_modDie]
  split
  · cases s.dies.find e <;> simp [hf]
  · rfl

theorem mem_die_mapped (s : State) (d space va : Nat) (page : Page) (p e : Nat) : ((s.mapped d space va page p).die e).mem = (s.die e).mem := by
  unfold State.mapped
  dsimp only
  split
  · rfl
  · exact mem_die_modDie s d e fun _ => rfl

theorem mem_die_fillFetch (s : State) (die core space va pa e : Nat) : ((s.fillFetch die core space va pa).die e).mem = (s.die e).mem :=
  mem_die_modDie s die e fun D => by dsimp only; split <;> rfl

theorem wordAt_eq {s : State} {t va : Nat} {page : Page} {pa : Nat} (hold : (s.team t).old = [])
    (hpoison : (s.die (s.team t).origin).poisoned pa = false) (halias : (s.die (s.team t).origin).aliased (s.team t).space va page pa = false) :
    s.wordAt t va page pa = (.words [BitVec.ofNat 32 (s.value (s.team t).origin pa 4)], s) := by
  unfold State.wordAt
  simp [hold, hpoison, halias, rd_eq_value, State.choose, Map.get]

/-- The state that a fetch of a code word leaves: the mapping used is noted, and the instruction cache takes the line, but for a page with the A bit. -/
def State.wordFetched (s : State) (t va : Nat) (x : Trans) : State :=
  if x.page.a then s
  else (s.mapped (s.team t).origin (s.team t).space va x.page (x.pa va)).fillFetch (s.team t).die (s.team t).core (s.team t).space va (x.pa va)

theorem sameTeams_wordFetched (s : State) (t va : Nat) (x : Trans) : SameTeams s (s.wordFetched t va x) := by
  unfold State.wordFetched
  split
  · exact ⟨rfl, rfl⟩
  · exact (sameTeams_mapped ..).trans (sameTeams_fillFetch ..)

theorem team_wordFetched (s : State) (t va : Nat) (x : Trans) (u : Nat) : (s.wordFetched t va x).team u = s.team u := by
  unfold State.team
  rw [(sameTeams_wordFetched s t va x).teams]

theorem value_wordFetched (s : State) (t va : Nat) (x : Trans) (d a n : Nat) : (s.wordFetched t va x).value d a n = s.value d a n := by
  have hmem : ((s.wordFetched t va x).die d).mem = (s.die d).mem := by
    unfold State.wordFetched
    split
    · rfl
    · rw [mem_die_fillFetch, mem_die_mapped]
  simp only [State.value, State.byte, hmem]

theorem fetchWord_eq {s s1 : State} {t va : Nat} {x : Trans} (hva : va < 2 ^ 52) (hwin : isWindow va = false)
    (htr : s.translate (s.team t).space va = (.ok x, s1)) (hx : x.page.x = true) (htail : tailOk x va = true)
    (hheld : s.heldFetch t va = none) : s.fetchWord t va = (s1.wordFetched t va x).wordAt t va x.page (x.pa va) := by
  have hteams := sameTeams_translate s (s.team t).space va
  rw [htr] at hteams
  have hteam : s1.team t = s.team t := by unfold State.team; rw [hteams.teams]
  have hspace : (s.team t).space / 4096 = (s.team t).origin := by unfold Team.space; omega
  unfold State.fetchWord State.wordFetched
  have hlt : ¬ (va ≥ 2 ^ 52 ∨ isWindow va) := by simp [hwin]; omega
  simp only [htr, hlt, if_false, hheld, hx, htail, hteam, hspace, Option.any_none, Bool.false_and, Bool.not_true, Bool.or_false, Bool.false_eq_true]
  split <;> rfl

/-! ### What a stream fetches -/

section ScalarFetch
variable {s s1 s2 : State} {x : Stream}

theorem fetchWords_one_words {t va : Nat} {ws : List Half} (h : s.fetchWord t va = (.words ws, s1)) : s.fetchWords t va 1 = (.words ws, s1) := by
  simp [State.fetchWords, h]

theorem fetchWords_one_fail {t va d : Nat} {b : Bool} (h : s.fetchWord t va = (.fail d va b, s1)) : s.fetchWords t va 1 = (.fail d va false, s1) := by
  simp [State.fetchWords, h]

theorem fetchWords_one_poison {t va : Nat} (h : s.fetchWord t va = (.poison, s1)) : s.fetchWords t va 1 = (.poison, s1) := by
  simp [State.fetchWords, h]

/-- The issuing stream is a scalar or a matrix stream: its program counter is an address. -/
def Stream.isScalar (x : Stream) : Prop := x.ids.isSome ∧ ∀ t w b, x ≠ .path t w b

theorem Stream.isScalar_iff : x.isScalar ↔ (∃ t w, x = .warp t w) ∨ ∃ t, x = .seq t := by
  cases x <;> simp [Stream.isScalar, Stream.ids]

theorem fetchNext_one (hx : x.isScalar) {w0 : Half} (h : s.fetchWord s.me s.pc.toNat = (.words [w0], s1)) (hone : scalarWords w0 = 1) :
    s.fetchNext x = (.words [w0], s1) := by
  obtain ⟨t, w, rfl⟩ | ⟨t, rfl⟩ := Stream.isScalar_iff.1 hx <;> simp only [State.fetchNext, fetchWords_one_words h, hone, if_true]

theorem fetchNext_fail (hx : x.isScalar) {d : Nat} {b : Bool} (h : s.fetchWord s.me s.pc.toNat = (.fail d s.pc.toNat b, s1)) :
    s.fetchNext x = (.fail d s.pc.toNat false, s1) := by
  obtain ⟨t, w, rfl⟩ | ⟨t, rfl⟩ := Stream.isScalar_iff.1 hx <;> simp only [State.fetchNext, fetchWords_one_fail h]

theorem fetchNext_poison (hx : x.isScalar) (h : s.fetchWord s.me s.pc.toNat = (.poison, s1)) : s.fetchNext x = (.poison, s1) := by
  obtain ⟨t, w, rfl⟩ | ⟨t, rfl⟩ := Stream.isScalar_iff.1 hx <;> simp only [State.fetchNext, fetchWords_one_poison h]

theorem fetchNext_two_words (hx : x.isScalar) {w0 w1 : Half} (h : s.fetchWord s.me s.pc.toNat = (.words [w0], s1)) (htwo : scalarWords w0 = 2)
    (h' : s1.fetchWord s.me (s.pc.toNat + 4) = (.words [w1], s2)) : s.fetchNext x = (.words [w0, w1], s2) := by
  obtain ⟨t, w, rfl⟩ | ⟨t, rfl⟩ := Stream.isScalar_iff.1 hx <;>
    simp only [State.fetchNext, fetchWords_one_words h, htwo, OfNat.ofNat_ne_one, if_false, h']

theorem fetchNext_two_fail (hx : x.isScalar) {w0 : Half} (h : s.fetchWord s.me s.pc.toNat = (.words [w0], s1)) (htwo : scalarWords w0 = 2)
    {d a : Nat} {b : Bool} (h' : s1.fetchWord s.me (s.pc.toNat + 4) = (.fail d a b, s2)) :
    s.fetchNext x = (if a / 4096 = s.pc.toNat / 4096 then .fail d s.pc.toNat false else .fail d a true, s2) := by
  obtain ⟨t, w, rfl⟩ | ⟨t, rfl⟩ := Stream.isScalar_iff.1 hx <;>
    simp only [State.fetchNext, fetchWords_one_words h, htwo, OfNat.ofNat_ne_one, if_false, h'] <;> split <;> rfl

theorem fetchNext_two_poison (hx : x.isScalar) {w0 : Half} (h : s.fetchWord s.me s.pc.toNat = (.words [w0], s1)) (htwo : scalarWords w0 = 2)
    (h' : s1.fetchWord s.me (s.pc.toNat + 4) = (.poison, s2)) : s.fetchNext x = (.poison, s2) := by
  obtain ⟨t, w, rfl⟩ | ⟨t, rfl⟩ := Stream.isScalar_iff.1 hx <;>
    simp only [State.fetchNext, fetchWords_one_words h, htwo, OfNat.ofNat_ne_one, if_false, h']

end ScalarFetch

theorem fetchWords_three {s s1 s2 s3 : State} {t va : Nat} {w0 w1 w2 : Half} (h0 : s.fetchWord t va = (.words [w0], s1))
    (h1 : s1.fetchWord t (va + 4) = (.words [w1], s2)) (h2 : s2.fetchWord t (va + 8) = (.words [w2], s3)) :
    s.fetchWords t va 3 = (.words [w0, w1, w2], s3) := by
  simp [State.fetchWords, h0, h1, h2]

/-! ### What a stream does with what it has fetched -/

section Issued
variable {s s1 : State} {x : Stream} {r : List Turn} {f : Fetched}

theorem step_stream (hin : s.inputs = .stream x :: r) : step s = after ((State.served { s with inputs := r } x).issue x) := by
  unfold step State.turn
  rw [hin]
  rfl

theorem issue_ran {s0 : State} {ws : List Half} {i : Instr} (hf : State.fetchNext { s0 with cur := x, ilen := 4 } x = (.words ws, s1))
    (hdec : decodeWords ws = .ok i) (hleads : State.leads { s0 with cur := x, ilen := 4 } x = none) :
    s0.issue x = exec i { s1 with ilen := fetchedLen (.words ws) } := by
  have hsame := sameTeams_fetchNext { s0 with cur := x, ilen := 4 } x
  rw [hf] at hsame
  have hlead : State.leads { s1 with ilen := fetchedLen (.words ws) } x = none := (hsame.leads_eq x).trans hleads
  unfold State.issue
  simp only [hf, hdec, hlead]

theorem issue_led {s0 : State} {ws : List Half} {i : Instr} {u v : Nat} (hf : State.fetchNext { s0 with cur := x, ilen := 4 } x = (.words ws, s1))
    (hdec : decodeWords ws = .ok i) (hleads : State.leads { s0 with cur := x, ilen := 4 } x = some (u, v)) :
    ∃ e, s0.issue x = State.leadIssue { s1 with ilen := fetchedLen (.words ws) } x u v i e := by
  have hsame := sameTeams_fetchNext { s0 with cur := x, ilen := 4 } x
  rw [hf] at hsame
  have hlead : State.leads { s1 with ilen := fetchedLen (.words ws) } x = some (u, v) := (hsame.leads_eq x).trans hleads
  refine ⟨State.effOf { s1 with ilen := fetchedLen (.words ws) } x ws, ?_⟩
  unfold State.issue
  simp only [hf, hdec, hlead]

theorem issue_illegal {s0 : State} {ws : List Half} {e : Reject} (hf : State.fetchNext { s0 with cur := x, ilen := 4 } x = (.words ws, s1))
    (hdec : decodeWords ws = .error e) : s0.issue x = exec .illegalInstruction { s1 with ilen := fetchedLen (.words ws) } := by
  unfold State.issue
  simp only [hf, hdec]

theorem issue_failed {s0 : State} {d a : Nat} {b : Bool} (hf : State.fetchNext { s0 with cur := x, ilen := 4 } x = (.fail d a b, s1)) :
    s0.issue x = exec (.fetchFault 11 (BitVec.ofNat 8 d) a b) { s1 with ilen := 4 } := by
  unfold State.issue
  simp only [hf]
  rfl

theorem issue_poisoned {s0 : State} (hf : State.fetchNext { s0 with cur := x, ilen := 4 } x = (.poison, s1)) :
    s0.issue x = exec (.fetchFault 14 4 (State.fetchAddr { s0 with cur := x, ilen := 4 } x) false) { s1 with ilen := 4 } := by
  unfold State.issue
  simp only [hf]
  rfl

/-- What it means that the first turn of `s`, that of the stream `x`, runs the instruction: a leader's goes through its queues. -/
def State.turnRuns (s s0 : State) (x : Stream) (i : Instr) (s' : State) (n : Nat) : Prop :=
  (s0.leads x = none → step s = after (exec i { s' with ilen := n })) ∧
  ∀ u v, s0.leads x = some (u, v) → ∃ e, step s = after (State.leadIssue { s' with ilen := n } x u v i e)

theorem turnRuns_of_words (hin : s.inputs = .stream x :: r) {s0 : State} (hs0 : s0 = { State.served { s with inputs := r } x with cur := x, ilen := 4 })
    {ws : List Half} {i : Instr} {n : Nat} (hf : s0.fetchNext x = (.words ws, s1)) (hdec : decodeWords ws = .ok i)
    (hn : fetchedLen (.words ws) = n) : s.turnRuns s0 x i s1 n := by
  subst hs0 hn
  refine ⟨fun hleads => ?_, fun u v hleads => ?_⟩
  · rw [step_stream hin, issue_ran hf hdec hleads]
  · obtain ⟨e, he⟩ := issue_led hf hdec hleads
    exact ⟨e, by rw [step_stream hin, he]⟩

theorem step_of_undefined (hin : s.inputs = .stream x :: r) {s0 : State} (hs0 : s0 = { State.served { s with inputs := r } x with cur := x, ilen := 4 })
    {ws : List Half} {e : Reject} {n : Nat} (hf : s0.fetchNext x = (.words ws, s1)) (hdec : decodeWords ws = .error e)
    (hn : fetchedLen (.words ws) = n) : step s = after (exec .illegalInstruction { s1 with ilen := n }) := by
  subst hs0 hn
  rw [step_stream hin, issue_illegal hf hdec]

theorem step_of_fail (hin : s.inputs = .stream x :: r) {s0 : State} (hs0 : s0 = { State.served { s with inputs := r } x with cur := x, ilen := 4 })
    {d a : Nat} {b : Bool} (hf : s0.fetchNext x = (.fail d a b, s1)) :
    step s = after (exec (.fetchFault 11 (BitVec.ofNat 8 d) a b) { s1 with ilen := 4 }) := by
  subst hs0
  rw [step_stream hin, issue_failed hf]

theorem step_of_poison (hin : s.inputs = .stream x :: r) {s0 : State} (hs0 : s0 = { State.served { s with inputs := r } x with cur := x, ilen := 4 })
    (hf : s0.fetchNext x = (.poison, s1)) : step s = after (exec (.fetchFault 14 4 (s0.fetchAddr x) false) { s1 with ilen := 4 }) := by
  subst hs0
  rw [step_stream hin, issue_poisoned hf]

end Issued

theorem fetchAddr_of_isScalar (s : State) {x : Stream} (hx : x.isScalar) : s.fetchAddr x = s.pc.toNat := by
  obtain ⟨t, w, rfl⟩ | ⟨t, rfl⟩ := Stream.isScalar_iff.1 hx <;> rfl

theorem teams_served (s : State) (x : Stream) : (s.served x).teams = s.teams := by
  unfold State.served
  split <;> rfl

theorem decodeWords_one {w0 : Half} (hone : scalarWords w0 = 1) : decodeWords [w0] = decodeScalar w0 0 := by simp [decodeWords, hone]

theorem choose_ctr (s : State) (n : Nat) : ∃ c, (s.choose n).2 = { s with ctr := c } := by
  unfold State.choose
  split
  · exact ⟨s.ctr, rfl⟩
  · exact ⟨s.ctr + 1, rfl⟩

theorem step_no_input {s : State} (hin : s.inputs = []) :
    (∃ f ∈ s.moves, ∃ c, step s = after (f { s with ctr := c })) ∨
      ∃ n c, step s = after (.next (State.pass { s with ctr := c } n)) ∧ ∀ m, s.toDeadline = some m → n ≤ m := by
  obtain ⟨c, hc⟩ := choose_ctr s (s.moves.length + 1)
  unfold step State.turn
  split
  · rename_i hcons
    rw [hin] at hcons
    cases hcons
  dsimp only
  split
  · rename_i f hf
    exact .inl ⟨f, List.mem_of_getElem? hf, c, by rw [hc]⟩
  · have hdraw : ((s.choose (s.moves.length + 1)).2.draw 64).2 = { s with ctr := c + 1 } := by
      rw [hc]
      rfl
    rw [hdraw]
    refine .inr ⟨_, c + 1, rfl, fun m hm => ?_⟩
    have hdeadline : State.toDeadline { s with ctr := c + 1 } = some m := hm
    rw [hdeadline]
    exact min_le_right _ _
/-- Settles O56: what a code word holds (`fetchWord_eq`, `wordAt_eq`), what a stream fetches (`fetchNext_one` and the lemmas beside it), and what
a turn does with it (`turnRuns_of_words`, `step_of_undefined`, `step_of_fail`, `step_of_poison`). -/
theorem stepRunsInstruction : Obligations.StepRunsInstruction := by
  refine ⟨?_, ?_, ?_, ?_, fun s hin => step_no_input hin⟩
  · intro s t va x s1 hva hwin htr hx htail _ hold hheld o s2 hpoison halias
    have hteams := sameTeams_translate s (s.team t).space va
    rw [htr] at hteams
    have hteam : s1.team t = s.team t := by unfold State.team; rw [hteams.teams]
    have hs2 : s1.wordFetched t va x = s2 := by
      unfold State.wordFetched
      rw [hteam]
    have hteam2 : s2.team t = s.team t := by
      rw [← hs2, ← hteam]
      exact team_wordFetched ..
    have hvalue : s1.value o (x.pa va) 4 = s2.value o (x.pa va) 4 := by
      rw [← hs2]
      exact (value_wordFetched ..).symm
    rw [fetchWord_eq hva hwin htr hx htail hheld, hs2, hvalue]
    have hword := wordAt_eq (s := s2) (t := t) (va := va) (page := x.page) (pa := x.pa va)
    rw [hteam2] at hword
    exact hword hold hpoison halias
  · intro s x r hin s0 t runs raises
    refine ⟨fun hids hnopath => ?_, fun w b hpath => ?_⟩
    · have hx : x.isScalar := ⟨hids, hnopath⟩
      refine ⟨fun w0 s1 h0 => ⟨fun hone => ⟨fun i hdec => ?_, fun e hdec => ?_⟩, fun htwo => ⟨fun w1 s2 h1 => ⟨fun i hdec => ?_, fun e hdec => ?_⟩,
        fun d a b s2 h1 => ?_, fun s2 h1 => ?_⟩⟩, fun d a b s1 h0 ha => ?_, fun s1 h0 => ?_⟩
      · exact turnRuns_of_words (s0 := s0) hin rfl (fetchNext_one hx h0 hone) ((decodeWords_one hone).trans hdec) rfl
      · exact step_of_undefined (s0 := s0) hin rfl (fetchNext_one hx h0 hone) ((decodeWords_one hone).trans hdec) rfl
      · exact turnRuns_of_words (s0 := s0) hin rfl (fetchNext_two_words hx h0 htwo h1) hdec rfl
      · exact step_of_undefined (s0 := s0) hin rfl (fetchNext_two_words hx h0 htwo h1) hdec rfl
      · have hf := fetchNext_two_fail hx h0 htwo h1
        split
        · rename_i hpage
          rw [if_pos hpage] at hf
          exact step_of_fail (s0 := s0) hin rfl hf
        · rename_i hpage
          rw [if_neg hpage] at hf
          exact step_of_fail (s0 := s0) hin rfl hf
      · rw [← fetchAddr_of_isScalar s0 hx]
        exact step_of_poison (s0 := s0) hin rfl (fetchNext_two_poison hx h0 htwo h1)
      · subst ha
        exact step_of_fail (s0 := s0) hin rfl (fetchNext_fail hx h0)
      · rw [← fetchAddr_of_isScalar s0 hx]
        exact step_of_poison (s0 := s0) hin rfl (fetchNext_poison hx h0)
    · intro va
      have hteams : s0.teams = s.teams := teams_served { s with inputs := r } x
      have haddr : s0.fetchAddr x = va := by
        rw [hpath]
        simp only [State.fetchAddr, Team.laneAddr, State.path, State.warp, State.team, hteams, va]
      have hfetch : s0.fetchNext x = s0.fetchWords t va 3 := by
        rw [← haddr, hpath]
        rfl
      refine ⟨fun w0 w1 w2 s1 s2 s3 h0 h1 h2 => ⟨fun i hdec => ?_, fun e hdec => ?_⟩, fun d a c s1 hf => ?_, fun s1 hf => ?_⟩
      · exact turnRuns_of_words (s0 := s0) hin rfl (hfetch.trans (fetchWords_three h0 h1 h2)) hdec rfl
      · exact step_of_undefined (s0 := s0) hin rfl (hfetch.trans (fetchWords_three h0 h1 h2)) hdec rfl
      · exact step_of_fail (s0 := s0) hin rfl (hfetch.trans hf)
      · rw [← haddr]
        exact step_of_poison (s0 := s0) hin rfl (hfetch.trans hf)
  · intro s i r hin
    unfold step State.turn
    rw [hin]
    rfl
  · intro s n r hin
    unfold step State.turn
    rw [hin]
    rfl
end Sys2Proof.Machine

/-! PROOFS. Faults at the instruction of a scalar or matrix stream, and misaligned jumps (R38, R50, R410 to R412). -/

namespace Sys2Proof.Machine

/-! ### A fault of the scalar stream -/

/-- A fault at the instruction of a warp's scalar stream halts it with the report of R412. -/
theorem streamFault_halts {s : State} {t w : Nat} (h : s.onWarp t w) (code addr swcode : Nat) (straddle : Bool) :
    WarpHalted s (s.streamFault { code := code, addr := addr, swcode := swcode, straddle := straddle }) t w
      { s.warpReport t w (code / 256) (code % 256) addr swcode with straddle := straddle } := by
  obtain ⟨hcur, hlive, -⟩ := h
  unfold State.streamFault
  rw [hcur]
  exact warpFault_halts s t w _ (State.hasWarp_of_live hlive) (State.running_of_live hlive)

/-- An illegal instruction of the scalar stream halts its warp (R46, R50). -/
theorem illegal_halts {s : State} {t w : Nat} (h : s.onWarp t w) : WarpHalted s s.illegal t w (s.warpReport t w 7 0 0 0) := by
  have hill : s.illegal = s.streamFault { code := cILLEGAL } := by simp [State.illegal, h.1]
  rw [hill]
  exact streamFault_halts h cILLEGAL 0 0 false

/-! ### A fault of the matrix stream without a handler (R411) -/

theorem Team.space_mod (T : Team) : T.space % 4096 = T.asid % 4096 := by unfold Team.space; omega

theorem descWord_of_trapvec_zero {s : State} {t : Nat} (h : s.trapvec t = 0) : s.descWord t = (some 0, s) := by
  unfold State.trapvec at h
  unfold State.descWord
  dsimp only
  rw [Team.space_div, Team.space_mod, h]
  rfl

theorem seqRestart_of_trapvec_zero {s : State} {t : Nat} {x : Word × Word × Word} (hvec : s.trapvec t = 0) (hr : (s.team t).seq.restart = some x) :
    s.seqRestart t = s.modTeam t fun T => { T with faulted := true, seq := { T.seq with restart := none, wait := .none } } := by
  unfold State.seqRestart
  simp only [hr, descWord_of_trapvec_zero hvec]

/-- The team stands in the state. -/
theorem State.find_of_seqLive {s : State} {t : Nat} (h : s.seqLive t = true) : (s.teams.find t).isSome := by
  unfold State.seqLive at h
  cases hT : s.teams.find t with
  | none => simp [hT] at h
  | some T => rfl

theorem seqFault_stops {s : State} {t : Nat} (r : Raise) (hteam : (s.teams.find t).isSome) (hvec : s.trapvec t = 0) :
    SeqStopped s (s.seqFault t r) t (s.mkReport t none r) ∧ ((s.seqFault t r).team t).faulted = true := by
  obtain ⟨q, hq⟩ : ∃ q : Seq, q = { (s.team t).seq with
      life := .halted, wait := .none, asks := [], report := some (s.mkReport t none r),
      restart := some (BitVec.ofNat 64 r.disc, BitVec.ofNat 64 r.nxt, BitVec.ofNat 64 r.pc) } := ⟨_, rfl⟩
  obtain ⟨s1, hs1, hfaults, hteam1, hdies, hteams1⟩ : ∃ s1 : State, s.seqFault t r = s1.seqRestart t ∧ s1.faults = s.faults ++ [s.mkReport t none r] ∧
      s1.team t = { s.team t with seq := q } ∧ s1.dies = s.dies ∧ (s1.teams.find t).isSome = (s.teams.find t).isSome := by
    refine ⟨_, rfl, rfl, ?_, rfl, by simp [State.modSeq, Map.find_mod]⟩
    rw [hq]
    exact (State.team_modTeam s t t _ hteam).trans (if_pos rfl)
  have hvec1 : s1.trapvec t = 0 := by
    rw [← hvec]
    simp only [State.trapvec, State.die, hteam1, hdies]
  have hin1 : (s1.teams.find t).isSome := hteams1.trans hteam
  have hend : (s1.modTeam t fun T => { T with faulted := true, seq := { T.seq with restart := none, wait := .none } }).team t =
      { s.team t with faulted := true, seq := { q with restart := none, wait := .none } } := by
    rw [State.team_modTeam s1 t t _ hin1, if_pos rfl, hteam1]
  rw [hs1, seqRestart_of_trapvec_zero hvec1 (by rw [hteam1, hq])]
  constructor
  · constructor <;> simp only [hend, hq]
    exact hfaults
    all_goals simp
  · rw [hend]

/-- A fault at the instruction of a team's matrix stream stops its sequencer, where the address space has no handler. -/
theorem streamFault_stops {s : State} {t : Nat} (h : s.onSeq t) (hvec : s.trapvec t = 0) (code addr : Nat) (straddle : Bool) :
    SeqStopped s (s.streamFault { code := code, addr := addr, straddle := straddle }) t
      { s.seqReport t (code / 256) (code % 256) addr s.ilen with straddle := straddle } ∧
    ((s.streamFault { code := code, addr := addr, straddle := straddle }).team t).faulted = true := by
  obtain ⟨hcur, hlive, -, hops⟩ := h
  unfold State.streamFault
  rw [hcur]
  dsimp only
  rw [hops]
  exact seqFault_stops _ (State.find_of_seqLive hlive) hvec

/-- An illegal instruction of the matrix stream stops its sequencer (R46). -/
theorem illegal_stops {s : State} {t : Nat} (h : s.onSeq t) (hvec : s.trapvec t = 0) : SeqStopped s s.illegal t (s.seqReport t 7 0 0 s.ilen) := by
  have hill : s.illegal = s.streamFault { code := cILLEGAL } := by simp [State.illegal, h.1]
  rw [hill]
  exact (streamFault_stops h hvec cILLEGAL 0 false).1

/-- Poison met by the matrix stream stops its sequencer (R281). -/
theorem streamPoison_stops {s : State} {t : Nat} (h : s.onSeq t) (hvec : s.trapvec t = 0) (w q addr : Nat) :
    SeqStopped s (s.streamPoison w q addr) t (s.seqReport t ((0xE00 + q) / 256) ((0xE00 + q) % 256) addr s.ilen) := by
  obtain ⟨hcur, hlive, -, hops⟩ := h
  unfold State.streamPoison
  rw [hcur]
  dsimp only
  rw [hops]
  exact (seqFault_stops _ (State.find_of_seqLive hlive) hvec).1

/-! ### Misaligned jumps (O8) -/

theorem toNat_baseImm (s : State) (a : Reg) (imm : BitVec 14) : (s.baseImm a imm).toNat = (((s.reg a).toNat + imm.toInt) % 2 ^ 64).toNat := by
  have hofInt : s.baseImm a imm = BitVec.ofInt 64 ((s.reg a).toNat + imm.toInt) := by
    rw [BitVec.ofInt_add, BitVec.ofInt_natCast, BitVec.ofNat_toNat, BitVec.setWidth_eq]
    rfl
  rw [hofInt, BitVec.toNat_ofInt]
  norm_num

theorem transfer_misaligned {s k : State} {x : Word} (h : x.toNat % 4 ≠ 0) : transfer s x k = .next (s.streamFault { code := cALIGN, addr := x.toNat }) :=
  if_neg h

theorem jrTarget_misaligned {s : State} {a : Reg} {imm : BitVec 14} (h : ((s.reg a).toNat + imm.toInt) % 2 ^ 64 % 4 ≠ 0) :
    (s.baseImm a imm).toNat % 4 ≠ 0 := by
  rw [toNat_baseImm]
  omega

theorem State.onWarp.ready {s : State} {t w : Nat} (h : s.onWarp t w) (fields : List Reg) : s.ready fields := by
  obtain ⟨hcur, hlive, hbad⟩ := h
  simp [State.ready, hcur, hlive, hbad]

theorem transferMisaligned : Claims.TransferMisaligned := by
  intro s t w h d a imm target hmis
  refine ⟨_, (scalar_ready [a.toNat] _ (h.ready [d, a]) (by simp)).trans (transfer_misaligned (jrTarget_misaligned hmis)), ?_⟩
  rw [toNat_baseImm]
  exact streamFault_halts h cALIGN target.toNat 0 false

theorem sequencerFaultStops : Claims.SequencerFaultStops := by
  intro s t h hlen hvec d a imm hd ha target hmis
  refine ⟨_, (seqOnly_ready true [d, a] [a.toNat] _ h (by simp [hd, ha])).trans (transfer_misaligned (jrTarget_misaligned hmis)), ?_⟩
  rw [toNat_baseImm, ← hlen]
  exact streamFault_stops h hvec cALIGN target.toNat false

/-- Settles O8: a misaligned target is a fault at the instruction (`transfer_misaligned`), which halts a warp and stops a sequencer. -/
theorem transfersStop : Obligations.TransfersStop := ⟨transferMisaligned, sequencerFaultStops⟩

end Sys2Proof.Machine

/-! PROOFS. Traps, undefined words and failed fetches of the scalar, matrix and lane streams (R41, R46, R62, R98, R158, R161, R409, R411, R414, R417). -/

namespace Sys2Proof.Machine

/-! ### What the end of a cycle and deaths leave of a warp's lanes -/

theorem Warp.lanes_setMask (W : Warp) (k : Nat) (ls val : Half) : (W.setMask k ls val).dead = W.dead ∧ (W.setMask k ls val).deaths = W.deaths := by
  unfold Warp.setMask
  split <;> exact ⟨rfl, rfl⟩

theorem Warp.lanes_place (W : Warp) (p : Path) (f rest : List Entry) : (W.place p f rest).dead = W.dead ∧ (W.place p f rest).deaths = W.deaths := by
  unfold Warp.place
  split
  · exact ⟨rfl, rfl⟩
  · split
    · exact ⟨rfl, rfl⟩
    · split <;> exact ⟨rfl, rfl⟩

theorem Warp.lanes_joinsDone (W : Warp) (n : Nat) : (W.joinsDone n).dead = W.dead ∧ (W.joinsDone n).deaths = W.deaths := by
  induction n generalizing W with
  | zero => exact ⟨rfl, rfl⟩
  | succ n ih =>
    unfold Warp.joinsDone
    split
    · exact ⟨rfl, rfl⟩
    · rename_i a j ar outer k r _
      obtain ⟨hdead, hdeaths⟩ := ih ((W.setMask k ar 0).place { pc := j + 1, m0 := ar, mem := ar, join := outer } a r)
      obtain ⟨hdead', hdeaths'⟩ := (W.setMask k ar 0).lanes_place { pc := j + 1, m0 := ar, mem := ar, join := outer } a r
      obtain ⟨hdead'', hdeaths''⟩ := W.lanes_setMask k ar 0
      exact ⟨hdead.trans (hdead'.trans hdead''), hdeaths.trans (hdeaths'.trans hdeaths'')⟩

theorem Warp.lanes_setS (W : Warp) (r : Nat) (x : Word) : (W.setS r x).dead = W.dead ∧ (W.setS r x).deaths = W.deaths := by
  unfold Warp.setS
  split <;> exact ⟨rfl, rfl⟩

theorem Warp.lanes_copyBack (W : Warp) (b : Block) : (W.copyBack b).dead = W.dead ∧ (W.copyBack b).deaths = W.deaths := by
  unfold Warp.copyBack
  generalize lanesOf b.written = l
  induction l generalizing W with
  | nil => exact ⟨rfl, rfl⟩
  | cons i l ih =>
    obtain ⟨hdead, hdeaths⟩ := W.lanes_setS (32 + i) (b.snap.get (32 + i) 0)
    exact ⟨(ih _).1.trans hdead, (ih _).2.trans hdeaths⟩

theorem Warp.lanes_blockDone (W : Warp) : W.blockDone.dead = W.dead ∧ W.blockDone.deaths = W.deaths := by
  unfold Warp.blockDone
  split
  · split
    · exact W.lanes_copyBack _
    · exact ⟨rfl, rfl⟩
  · exact ⟨rfl, rfl⟩

/-- The end of a cycle decides no lane. -/
theorem Warp.lanes_settle (W : Warp) : W.settle.dead = W.dead ∧ W.settle.deaths = W.deaths := by
  unfold Warp.settle
  split
  · obtain ⟨hdead, hdeaths⟩ := W.lanes_joinsDone (W.stack.length + 1)
    obtain ⟨hdead', hdeaths'⟩ := (W.joinsDone (W.stack.length + 1)).lanes_blockDone
    exact ⟨hdead'.trans hdead, hdeaths'.trans hdeaths⟩
  · exact ⟨rfl, rfl⟩

/-- The warp has an empty stack and no path in the slot. -/
def Warp.slotEmpty (b : Bool) (W : Warp) : Prop := W.stack = [] ∧ W.path b = none

/-- With an empty stack the end of a cycle brings no path. -/
theorem Warp.slotEmpty.settle {W : Warp} {b : Bool} (h : W.slotEmpty b) : W.settle.slotEmpty b := by
  have hjoins : W.joinsDone (W.stack.length + 1) = W := by simp [Warp.joinsDone, h.1, splitComplete]
  unfold Warp.settle
  split
  · rw [hjoins]
    unfold Warp.blockDone
    split
    · split
      · cases b <;> exact ⟨rfl, rfl⟩
      · exact h
    · exact h
  · exact h

/-- The paths of a warp after barrier `n` has completed (R164). -/
def Warp.released (n : Nat) (W : Warp) : Warp := { W with a := W.a.map (Path.release n), b := W.b.map (Path.release n) }

/-- A change of every warp of a team. -/
theorem Team.warp_each {T T' : Team} {w : Nat} {f : Warp → Warp} {P : Warp → Prop} (hT : T'.warps = T.warps.each fun _ W => f W)
    (hf : ∀ W, P W → P (f W)) (h : P (T.warp w)) : P (T'.warp w) := by
  unfold Team.warp Map.get at h ⊢
  rw [hT, Map.find_each]
  cases hW : T.warps.find w with
  | none => rw [hW] at h; exact h
  | some W => rw [hW] at h; exact hf _ h

theorem Warp.slotEmpty.released {W : Warp} {b : Bool} (h : W.slotEmpty b) (n : Nat) : (W.released n).slotEmpty b := by
  refine ⟨h.1, ?_⟩
  have hpath : (W.released n).path b = (W.path b).map (Path.release n) := by cases b <;> rfl
  rw [hpath, h.2]
  rfl

/-- What holds of every warp at rest, and stands when a cycle ends for it and when a barrier releases its paths, stands at the end of a cycle. -/
theorem warp_settle {s : State} {t w u : Nat} {P : Warp → Prop} (hsettle : ∀ W, P W → P W.settle) (hrel : ∀ n W, P W → P (W.released n))
    (h : P (s.warp t w)) : P ((s.settle u).warp t w) := by
  have hbarriers : ∀ T : Team, P (T.warp w) → P (T.barriersDone.warp w) := by
    intro T hT
    unfold Team.barriersDone
    generalize T.barriers = l
    induction l generalizing T with
    | nil => exact hT
    | cons x l ih =>
      refine ih _ ?_
      dsimp only
      split
      · exact hT
      · exact T.warp_each (f := Warp.released x.1) rfl (hrel _) hT
  unfold State.settle State.warp State.team Map.get
  rw [State.find_modTeam]
  by_cases hu : t = u
  · rw [if_pos hu]
    unfold State.warp State.team Map.get at h
    cases hT : s.teams.find t with
    | none => rw [hT] at h; exact h
    | some T =>
      rw [hT] at h
      refine hbarriers _ ?_
      exact T.warp_each (f := Warp.settle) rfl hsettle h
  · rw [if_neg hu]
    exact h

theorem lanes_settle (s : State) (t w u : Nat) :
    ((s.settle u).warp t w).dead = (s.warp t w).dead ∧ ((s.settle u).warp t w).deaths = (s.warp t w).deaths :=
  warp_settle (P := fun W => W.dead = (s.warp t w).dead ∧ W.deaths = (s.warp t w).deaths)
    (fun W h => ⟨W.lanes_settle.1.trans h.1, W.lanes_settle.2.trans h.2⟩) (fun _ _ h => h) ⟨rfl, rfl⟩

/-- What stands of every warp when one of them changes. -/
theorem warp_modWarp_pred {s : State} {t w u v : Nat} {f : Warp → Warp} {P : Warp → Prop} (hf : ∀ W, P W → P (f W)) (h : P (s.warp t w)) :
    P ((s.modWarp u v f).warp t w) := by
  unfold State.warp State.team Map.get Team.warp Map.get at h ⊢
  unfold State.modWarp
  rw [State.find_modTeam]
  by_cases hu : t = u
  · rw [if_pos hu]
    cases hT : s.teams.find t with
    | none => rw [hT] at h; exact h
    | some T =>
      rw [hT] at h
      change P (((T.modWarp v f).warps.find w).getD {})
      change P ((T.warps.find w).getD {}) at h
      rw [Team.find_modWarp]
      by_cases hv : w = v
      · rw [if_pos hv]
        cases hW : T.warps.find w with
        | none => rw [hW] at h; exact h
        | some W => rw [hW] at h; exact hf _ h
      · rw [if_neg hv]
        exact h
  · rw [if_neg hu]
    exact h

/-- Every lane of the warp is dead. -/
def State.allDead (s : State) (t w : Nat) : Prop := (s.warp t w).dead = ~~~0

/-- The warp has stopped. -/
def State.stopped (s : State) (t w : Nat) : Prop := (s.warp t w).life ≠ .running

theorem warp_modTeam_of_warps {s : State} {t w u : Nat} {f : Team → Team} (hf : ∀ T, (f T).warps = T.warps) :
    (s.modTeam u f).warp t w = s.warp t w := by
  unfold State.warp State.team Map.get Team.warp Map.get
  rw [State.find_modTeam]
  by_cases hu : t = u
  · rw [if_pos hu]
    cases hT : s.teams.find t with
    | none => rfl
    | some T => exact congrArg (fun m => (Map.find m w).getD {}) (hf T)
  · rw [if_neg hu]

theorem hasWarp_modTeam {s : State} {t w u : Nat} {f : Team → Team} (hf : ∀ T, ((f T).warps.find w).isSome = (T.warps.find w).isSome) :
    (s.modTeam u f).hasWarp t w = s.hasWarp t w := by
  unfold State.hasWarp State.team Map.get
  rw [State.find_modTeam]
  by_cases hu : t = u
  · rw [if_pos hu]
    cases hT : s.teams.find t with
    | none => rfl
    | some T => exact hf T
  · rw [if_neg hu]

theorem hasWarp_settle (s : State) (t w u : Nat) : (s.settle u).hasWarp t w = s.hasWarp t w := by
  refine hasWarp_modTeam fun T => ?_
  have hbarriers : ∀ T : Team, (T.barriersDone.warps.find w).isSome = (T.warps.find w).isSome := by
    intro T
    unfold Team.barriersDone
    generalize T.barriers = l
    induction l generalizing T with
    | nil => rfl
    | cons x l ih =>
      refine (ih _).trans ?_
      dsimp only
      split
      · rfl
      · rw [Map.find_each, Option.isSome_map]
  refine (hbarriers _).trans ?_
  rw [Map.find_each, Option.isSome_map]

/-! ### What the ends of warps, lanes and cycles keep -/

/-- A change of a warp by which it and its lanes at most end. -/
structure Warp.Ends (f : Warp → Warp) : Prop where
  life : ∀ W, W.life ≠ .running → (f W).life ≠ .running
  dead : ∀ W, W.dead = ~~~0 → (f W).dead = ~~~0

theorem Warp.ends_of_same {f : Warp → Warp} (hlife : ∀ W, (f W).life = W.life) (hdead : ∀ W, (f W).dead = W.dead) : Warp.Ends f :=
  ⟨fun W h => by rwa [hlife W], fun W h => by rwa [hdead W]⟩

theorem Warp.ends_kill (ls : Half) (c : Nat) : Warp.Ends (·.kill ls c) :=
  ⟨fun _ h => h, fun W h => by change W.dead ||| ls = ~~~0; rw [h]; exact BitVec.allOnes_or⟩

theorem Warp.ends_halt : Warp.Ends fun W => { W with life := .halted, wait := .none, asks := [] } :=
  ⟨fun _ _ => by simp, fun _ h => h⟩

/-- A property of states that holds on while warps, lanes and cycles end. -/
structure KeptByEnds (P : State → Prop) : Prop where
  modWarp : ∀ {s u v f}, Warp.Ends f → P s → P (s.modWarp u v f)
  modTeam : ∀ {s u} {f : Team → Team}, (∀ T, (f T).warps = T.warps) → P s → P (s.modTeam u f)
  frags : ∀ {s} l, P s → P { s with frags := l }
  settle : ∀ {s} u, P s → P (s.settle u)

section KeptByEnds
variable {P : State → Prop} {s : State}

theorem KeptByEnds.killLanes (k : KeptByEnds P) (h : P s) (u v : Nat) (ls : Half) (c : Nat) : P (s.killLanes u v ls c) :=
  k.frags _ (k.modWarp (Warp.ends_kill ls c) h)

theorem KeptByEnds.resolveFrag (k : KeptByEnds P) (h : P s) (f : Nat) : P (s.resolveFrag f) := by
  unfold State.resolveFrag
  split
  · exact h
  · rename_i F hF
    extract_lets live pt rs p mix kil left out s0 s1 s2 s3
    split
    · exact h
    · have h1 : P s1 := by
        simp only [s1]
        split
        · exact k.frags _ h
        · split
          · have h0 : P s0 := k.modWarp (Warp.ends_of_same (fun _ => rfl) fun _ => rfl) h
            split <;> exact k.frags _ h0
          · exact k.frags _ h
      have h2 : P s2 := by
        simp only [s2]
        split
        · exact h1
        · exact k.killLanes h1 ..
      have h3 : P s3 := by
        simp only [s3]
        split
        · exact h2
        · exact k.killLanes h2 ..
      exact k.settle _ h3

theorem KeptByEnds.killOrigins (k : KeptByEnds P) (h : P s) (u v : Nat) (ls : List Nat) (c : Nat) : P (s.killOrigins u v ls c) := by
  unfold State.killOrigins
  dsimp only
  refine List.foldlRecOn (motive := P) ls _ (k.modWarp (Warp.ends_of_same (fun _ => rfl) fun _ => rfl) h) fun s' hs' l _ => ?_
  split
  · exact hs'
  · split
    · exact hs'
    · exact k.settle _ (k.resolveFrag (k.killLanes hs' ..) _)

/-- What holds of the state whose warp has just halted holds when the halting is done. -/
theorem KeptByEnds.haltWarp_of_halted (k : KeptByEnds P) {u v : Nat} (h : P (s.modWarp u v fun W => { W with life := .halted, wait := .none, asks := [] })) :
    P (s.haltWarp u v) := by
  unfold State.haltWarp
  refine k.settle u (k.modTeam ?_ ?_)
  · exact fun _ => rfl
  · split
    · exact k.killOrigins h ..
    · exact h

theorem KeptByEnds.haltWarp (k : KeptByEnds P) (h : P s) (u v : Nat) : P (s.haltWarp u v) :=
  k.haltWarp_of_halted (k.modWarp Warp.ends_halt h)

end KeptByEnds

theorem keptByEnds_allDead (t w : Nat) : KeptByEnds (·.allDead t w) where
  modWarp hf h := warp_modWarp_pred (P := fun W => W.dead = ~~~0) hf.dead h
  modTeam hf h := by unfold State.allDead; rwa [warp_modTeam_of_warps hf]
  frags _ h := h
  settle {s} u h := (lanes_settle s t w u).1.trans h

theorem keptByEnds_stopped (t w : Nat) : KeptByEnds (·.stopped t w) where
  modWarp hf h := warp_modWarp_pred (P := fun W => W.life ≠ .running) hf.life h
  modTeam hf h := by unfold State.stopped; rwa [warp_modTeam_of_warps hf]
  frags _ h := h
  settle {s} u h := by unfold State.stopped; rwa [(settle_stands s t w u h).life]

theorem keptByEnds_hasWarp (t w : Nat) : KeptByEnds (·.hasWarp t w = true) where
  modWarp _ h := by rwa [State.hasWarp_modWarp]
  modTeam hf h := by rwa [hasWarp_modTeam fun T => by rw [hf T]]
  frags _ h := h
  settle _ h := by rwa [hasWarp_settle]

theorem State.allDead.warpFault {s : State} {t w : Nat} (h : s.allDead t w) (u v : Nat) (r : Raise) : (s.warpFault u v r).allDead t w := by
  unfold State.warpFault
  split
  · exact h
  · have hreport : (s.modWarp u v fun W => { W with report := some (s.mkReport u (some v) r) }).allDead t w :=
      (keptByEnds_allDead t w).modWarp (Warp.ends_of_same (fun _ => rfl) fun _ => rfl) h
    refine (keptByEnds_allDead t w).haltWarp ?_ u v
    exact hreport

theorem allDead_killLanes (s : State) {t w : Nat} (hw : s.hasWarp t w = true) (c : Nat) : (s.killLanes t w (~~~(s.warp t w).dead) c).allDead t w := by
  unfold State.allDead
  change ((s.modWarp t w (·.kill (~~~(s.warp t w).dead) c)).warp t w).dead = _
  rw [State.warp_modWarp_self _ _ _ _ hw]
  change (s.warp t w).dead ||| ~~~(s.warp t w).dead = _
  exact BitVec.or_not_self _

/-- A warp that dies halts with cause POISON, and every lane of it is dead (R414). -/
theorem warpDeath_halts {s : State} {t w : Nat} (r : Raise) (hw : s.hasWarp t w = true) (hr : (s.warp t w).life = .running) :
    ((s.warpDeath t w r).warp t w).life = .halted ∧ (s.warpDeath t w r).allDead t w ∧
    ((s.warpDeath t w r).warp t w).report.map (fun R => (R.cause, R.detail, R.addr)) = some (14, r.code % 256, r.addr) := by
  have hstands := killLanes_stands s t w t w (~~~(s.warp t w).dead) 7
  have hw' : (s.killLanes t w (~~~(s.warp t w).dead) 7).hasWarp t w = true := by
    change (s.modWarp t w _).hasWarp t w = true
    rw [State.hasWarp_modWarp, hw]
  have hhalted := warpFault_halts _ t w { r with code := 0xE00 + r.code % 256 } hw' (hstands.life.trans hr)
  refine ⟨hhalted.life, (allDead_killLanes s hw 7).warpFault t w _, ?_⟩
  unfold State.warpDeath
  rw [hhalted.report]
  simp [State.mkReport]
  omega

/-! ### Traps and failed fetches of the scalar and matrix streams -/

theorem exec_fetchFault (cause detail : BitVec 8) (addr : Nat) (straddle : Bool) (s : State) :
    exec (.fetchFault cause detail addr straddle) s = execFetchFault cause detail addr straddle s := rfl

theorem execFetchFault_scalar {s : State} {t w : Nat} (h : s.onWarp t w ∨ s.onSeq t) (cause detail : BitVec 8) (addr : Nat) (straddle : Bool) :
    execFetchFault cause detail addr straddle s =
      (if cause = 14 then .next (s.streamPoison 4 4 addr)
       else if cause.toNat * 256 + detail.toNat = cFETCHABSENT then .next (s.setWait (.absent (s.team t).space (addr / 4096)))
       else .next (s.streamFault { code := cause.toNat * 256 + detail.toNat, addr := addr, straddle := straddle })) := by
  obtain ⟨hcur, hlive, -⟩ | ⟨hcur, hlive, -⟩ := h <;> simp [execFetchFault, hcur, hlive]

section ScalarFetchFault
variable {s : State} {t w : Nat} (h : s.onWarp t w ∨ s.onSeq t) (addr : Nat) (straddle : Bool)
include h

theorem exec_fetchAbsent : exec (.fetchFault 11 1 addr straddle) s = .next (s.setWait (.absent (s.team t).space (addr / 4096))) := by
  rw [exec_fetchFault, execFetchFault_scalar h, if_neg (by decide), if_pos (by decide)]

theorem exec_fetchNotexec :
    exec (.fetchFault 11 2 addr straddle) s = .next (s.streamFault { code := 0xB02, addr := addr, straddle := straddle }) := by
  rw [exec_fetchFault, execFetchFault_scalar h, if_neg (by decide), if_neg (by decide)]
  rfl

theorem exec_fetchPoison : exec (.fetchFault 14 4 addr straddle) s = .next (s.streamPoison 4 4 addr) := by
  rw [exec_fetchFault, execFetchFault_scalar h, if_pos rfl]

theorem exec_illegal_scalar : exec .illegalInstruction s = .next s.illegal := by
  change execIllegalInstruction s = .next s.illegal
  unfold execIllegalInstruction
  obtain ⟨hcur, hlive, -⟩ | ⟨hcur, hlive, -⟩ := h <;> simp [hcur, hlive]

end ScalarFetchFault

theorem scalarTraps : Claims.ScalarTraps := by
  intro s t w h a
  refine ⟨⟨_, warpOnly_ready [a] [a.toNat] _ h, ?_⟩, ⟨_, warpOnly_ready [] [] _ h, ?_⟩, s.illegal, exec_illegal_scalar (.inl h), illegal_halts h⟩
  · exact streamFault_halts h cSWTRAP 0 _ false
  · exact streamFault_halts h cBREAK 0 0 false

theorem fetchFaults : Claims.FetchFaults := by
  intro s t w h addr straddle
  refine ⟨⟨_, exec_fetchAbsent (.inl h) addr straddle, ?_⟩, ⟨_, exec_fetchNotexec (.inl h) addr straddle, ?_⟩,
    ⟨_, exec_fetchPoison (.inl h) addr straddle, ?_⟩⟩
  · simp [State.setWait, h.1]
  · exact streamFault_halts h 0xB02 addr 0 straddle
  · obtain ⟨hcur, hlive, -⟩ := h
    have hpoison : s.streamPoison 4 4 addr = s.warpDeath t w { code := 4, addr := addr, pc := (s.warp t w).spc.toNat } := by
      simp [State.streamPoison, hcur]
    rw [hpoison]
    exact warpDeath_halts _ (State.hasWarp_of_live hlive) (State.running_of_live hlive)

theorem matrixFetchFaults : Claims.MatrixFetchFaults := by
  intro s t h addr straddle
  have hseq : s.onWarp t 0 ∨ s.onSeq t := .inr h
  refine ⟨⟨_, exec_fetchAbsent hseq addr straddle, ?_⟩, fun hvec => ⟨⟨_, exec_fetchNotexec hseq addr straddle, ?_⟩,
    ⟨_, exec_fetchPoison hseq addr straddle, ?_⟩, s.illegal, exec_illegal_scalar hseq, illegal_stops h hvec⟩⟩
  · simp [State.setWait, h.1]
  · exact (streamFault_stops h hvec 0xB02 addr straddle).1
  · exact streamPoison_stops h hvec 4 4 addr

/-! ### Lanes that die where they stand, and lanes that park -/

theorem get_foldl_ins (m : Map Nat) (ls : List Nat) (c l : Nat) (hl : l ∈ ls) : (ls.foldl (fun m l => m.ins l c) m).get l 0 = c := by
  have hget : ∀ (ls : List Nat) (m : Map Nat), l ∈ ls ∨ m.get l 0 = c → (ls.foldl (fun m l => m.ins l c) m).get l 0 = c := by
    intro ls
    induction ls with
    | nil => exact fun m h => h.resolve_left (List.not_mem_nil)
    | cons x ls ih =>
      intro m h
      refine ih _ ?_
      unfold Map.get at h ⊢
      rw [Map.find_ins]
      by_cases hx : l = x
      · exact .inr (by rw [if_pos hx]; rfl)
      · rw [if_neg hx]
        exact h.imp_left fun hmem => (List.mem_cons.1 hmem).resolve_left hx
  exact hget ls m (.inl hl)

/-- The lanes `ls` of a warp have died with the cause, those of them that lived. -/
def State.lanesDied (s s' : State) (t w : Nat) (ls : Half) (cause : Nat) : Prop :=
  (s'.warp t w).dead = (s.warp t w).dead ||| ls ∧
    ∀ l < 32, ls.getLsbD l = true → (s.warp t w).dead.getLsbD l = false → (s'.warp t w).deaths.get l 0 = cause

theorem lanesDied_killLanes {s : State} {t w : Nat} (hw : s.hasWarp t w = true) (ls : Half) (c : Nat) :
    s.lanesDied (s.killLanes t w ls c) t w ls c := by
  have hwarp : (s.killLanes t w ls c).warp t w = (s.warp t w).kill ls c := State.warp_modWarp_self s t w (·.kill ls c) hw
  unfold State.lanesDied
  rw [hwarp]
  refine ⟨rfl, fun l hl hls hdead => get_foldl_ins _ _ _ _ ((mem_lanesOf _ _).2 ⟨hl, ?_⟩)⟩
  rw [BitVec.getLsbD_and, BitVec.getLsbD_not, hls, hdead]
  simp [hl]

theorem State.lanesDied.settle {s s' : State} {t w : Nat} {ls : Half} {c : Nat} (h : s.lanesDied s' t w ls c) (u : Nat) :
    s.lanesDied (s'.settle u) t w ls c := by
  obtain ⟨hdead, hdeaths⟩ := lanes_settle s' t w u
  unfold State.lanesDied at h ⊢
  rwa [hdead, hdeaths]

theorem laneDeath_of_team {s : State} {t w : Nat} (h : (s.team t).handler = false) (ls : Half) (c : Nat) :
    s.laneDeath t w ls c = s.killLanes t w ls c := by
  have hkill := (killLanes_stands s t w t w ls c).handler t
  unfold State.laneDeath
  dsimp only
  rw [if_neg (by rw [hkill, h]; exact Bool.false_ne_true)]

theorem groupFails_same {n : Nat} {x : Fail} {r : List Fail} (h : ∀ y ∈ r, x.same y = true) : groupFails (n + 1) (x :: r) = [x :: r] := by
  have hall : r.filter x.same = r := List.filter_eq_self.2 h
  have hnone : (r.filter fun y => !x.same y) = [] := List.filter_eq_nil_iff.2 fun y hy => by simp [h y hy]
  have hnil : groupFails n [] = [] := by cases n <;> rfl
  simp [groupFails, hall, hnone, hnil]

theorem maskOf_lanesOf (m : Half) : maskOf (lanesOf m) = m := by
  apply BitVec.eq_of_getLsbD_eq
  intro l hl
  rw [getLsbD_maskOf _ l hl fun k hk => ((mem_lanesOf _ _).1 hk).1]
  simp [mem_lanesOf, hl]

theorem lanesOf_ne_nil {m : Half} (h : m ≠ 0) : lanesOf m ≠ [] := by
  intro hnil
  apply h
  rw [← maskOf_lanesOf m, hnil]
  rfl

/-- The fragment that a group of failing lanes of a path makes in entry `k` of the table (R158). -/
def State.fragOf (s : State) (t w : Nat) (p : Path) (g : List Fail) (idle : Half) (k : Nat) : Frag :=
  let x := g.head?.getD ⟨0, 0, 0, false⟩
  { team := t, warp := w, entry := some k, pc := p.pc, mask := maskOf (g.map (·.lane)), idle := idle, cause := x.code / 256, detail := x.code % 256,
    straddle := x.straddle, addr := x.addr, join := p.join, at_ := s.now }

theorem choose_lt (s : State) {n : Nat} (hn : 0 < n) : (s.choose n).1 < n := by
  unfold State.choose
  split
  · exact hn
  · exact Nat.mod_lt _ hn

/-- A group parks where an entry is free, and the address space has a handler or the page is absent. -/
theorem parkGroup_parks {s : State} {t w : Nat} {p : Path} {g : List Fail} {idle : Half} (hteam : (s.team t).handler = false)
    (hfree : s.freeFrags (s.team t).die (s.team t).core ≠ [])
    (hcode : s.noHandler t = false ∨ (g.head?.getD ⟨0, 0, 0, false⟩).code = cFETCHABSENT) :
    ∃ k ∈ s.freeFrags (s.team t).die (s.team t).core, ∃ s' : State, s.parkGroup t w p g idle = some s' ∧
      s'.frags = s.frags.ins (s.uid + 1) (s.fragOf t w p g idle k) ∧
      s'.teams = (s.modWarp t w (·.part (maskOf (g.map (·.lane))))).teams := by
  have hgo : (s.noHandler t && (g.head?.getD ⟨0, 0, 0, false⟩).code != cABSENT && (g.head?.getD ⟨0, 0, 0, false⟩).code != cFETCHABSENT) = false := by
    obtain h | h := hcode <;> simp [h]
  unfold State.parkGroup
  dsimp only
  rw [if_neg (by rw [hteam]; exact Bool.false_ne_true), hgo]
  generalize hlist : s.freeFrags (s.team t).die (s.team t).core = free at hfree ⊢
  obtain ⟨c, hc⟩ := choose_ctr s free.length
  have hlt := choose_lt s (List.length_pos_iff.2 hfree)
  rw [if_neg (by rw [List.isEmpty_iff]; exact hfree), hc]
  refine ⟨free.getD (s.choose free.length).1 0, ?_, _, rfl, rfl, rfl⟩
  rw [List.getD_eq_getElem _ _ hlt]
  exact List.getElem_mem _

/-- Where the address space has no handler the group's lanes die, cause NOHANDLER (R417). -/
theorem parkGroup_dies {s : State} {t w : Nat} {p : Path} {g : List Fail} {idle : Half} (hteam : (s.team t).handler = false)
    (hfree : s.freeFrags (s.team t).die (s.team t).core ≠ []) (hvec : s.noHandler t = true)
    (habsent : (g.head?.getD ⟨0, 0, 0, false⟩).code ≠ cABSENT) (hfetch : (g.head?.getD ⟨0, 0, 0, false⟩).code ≠ cFETCHABSENT) :
    s.parkGroup t w p g idle = some (s.killLanes t w (maskOf (g.map (·.lane))) 6) := by
  have hne : (s.freeFrags (s.team t).die (s.team t).core).isEmpty = false := List.isEmpty_eq_false_iff.2 hfree
  unfold State.parkGroup
  simp [hteam, hne, hvec, habsent, hfetch]

theorem parkAll_one {s s' : State} {t w : Nat} {p : Path} {g : List Fail} {idle : Half} (h : s.parkGroup t w p g idle = some s') :
    s.parkAll t w p [g] idle = (s', []) := by
  unfold State.parkAll
  rw [h]
  rfl

theorem noHandler_eq (s : State) (t : Nat) : s.noHandler t = (s.trapvec t == 0) := by
  unfold State.noHandler State.trapvec
  dsimp only
  rw [Team.space_div, Team.space_mod]

/-- The lanes `ls` of a path with an empty stack park together as the fragment `F`, which the rest of its fields describe. -/
def State.pathParks (s s' : State) (t w : Nat) (b : Bool) (F : Frag) : Prop :=
  (∃ k ∈ s.freeFrags (s.team t).die (s.team t).core, s'.frags.find (s.uid + 1) = some
    { F with team := t, warp := w, entry := some k, pc := (s.path t w b).pc, join := (s.path t w b).join, at_ := s.now, state := .parked }) ∧
  (F.mask = (s.path t w b).mem → (s'.warp t w).path b = none) ∧ (s'.warp t w).dead = (s.warp t w).dead

theorem warp_of_teams {s s' : State} (h : s'.teams = s.teams) (t w : Nat) : s'.warp t w = s.warp t w := by
  unfold State.warp State.team
  rw [h]

theorem Path.without_mem (p : Path) : p.without p.mem = none := by
  unfold Path.without
  rw [if_pos (BitVec.and_not_self ..)]

theorem Warp.path_part (W : Warp) (b : Bool) (ls : Half) : (W.part ls).path b = (W.path b).bind (Path.without ls) := by
  cases b <;> rfl

/-- One group of failing lanes of a path in a warp with an empty stack parks, and the cycle ends. -/
theorem settle_parkAll_parks {s : State} {t w : Nat} {b : Bool} (h : s.onPath t w b) {g : List Fail} {idle : Half}
    (hteam : (s.team t).handler = false) (hstack : (s.warp t w).stack = []) (hfree : s.freeFrags (s.team t).die (s.team t).core ≠ [])
    (hcode : s.noHandler t = false ∨ (g.head?.getD ⟨0, 0, 0, false⟩).code = cFETCHABSENT) :
    s.pathParks ((s.parkAll t w (s.path t w b) [g] idle).1.settle t) t w b (s.fragOf t w (s.path t w b) g idle 0) := by
  obtain ⟨hcur, hlive, hpath, -⟩ := h
  obtain ⟨k, hk, s', hpark, hfrags, hteams⟩ := parkGroup_parks (w := w) (p := s.path t w b) (g := g) (idle := idle) hteam hfree hcode
  rw [parkAll_one hpark]
  have hwarp : s'.warp t w = (s.warp t w).part (maskOf (g.map (·.lane))) := by
    rw [warp_of_teams hteams, State.warp_modWarp_self _ _ _ _ (State.hasWarp_of_live hlive)]
  refine ⟨⟨k, hk, ?_⟩, fun hmask => ?_, ?_⟩
  · change s'.frags.find (s.uid + 1) = _
    rw [hfrags, Map.find_ins_self]
    rfl
  · have hpart : (s'.warp t w).slotEmpty b := by
      rw [hwarp]
      refine ⟨by simp [Warp.part, hstack], ?_⟩
      obtain ⟨q, hq⟩ := Option.isSome_iff_exists.1 hpath
      have hp : s.path t w b = q := by simp [State.path, hq]
      have hls : maskOf (g.map (·.lane)) = q.mem := hp ▸ hmask
      rw [Warp.path_part, hq, hls]
      exact q.without_mem
    exact (warp_settle (P := Warp.slotEmpty b) (fun W hW => hW.settle) (fun n W hW => hW.released n) hpart).2
  · rw [(lanes_settle s' t w t).1, hwarp]
    rfl

/-- One group of failing lanes of a path dies where the address space has no handler, and the cycle ends. -/
theorem settle_parkAll_dies {s : State} {t w : Nat} {b : Bool} (h : s.onPath t w b) {g : List Fail} {idle : Half}
    (hteam : (s.team t).handler = false) (hfree : s.freeFrags (s.team t).die (s.team t).core ≠ []) (hvec : s.noHandler t = true)
    (habsent : (g.head?.getD ⟨0, 0, 0, false⟩).code ≠ cABSENT) (hfetch : (g.head?.getD ⟨0, 0, 0, false⟩).code ≠ cFETCHABSENT) :
    s.lanesDied ((s.parkAll t w (s.path t w b) [g] idle).1.settle t) t w (maskOf (g.map (·.lane))) 6 := by
  rw [parkAll_one (parkGroup_dies hteam hfree hvec habsent hfetch)]
  exact (lanesDied_killLanes (State.hasWarp_of_live h.2.1) _ 6).settle t

/-! ### Failed fetches and undefined words of a lane path -/

/-- The failing lanes of a mask, which all have one cause and one address. -/
def failsAt (ls : Half) (code addr : Nat) (straddle : Bool) : List Fail := (lanesOf ls).map fun l => ⟨l, code, addr, straddle⟩

theorem maskOf_failsAt (ls : Half) (code addr : Nat) (straddle : Bool) : maskOf ((failsAt ls code addr straddle).map (·.lane)) = ls := by
  unfold failsAt
  rw [List.map_map]
  exact (congrArg maskOf (List.map_id _)).trans (maskOf_lanesOf ls)

theorem head_failsAt {ls : Half} (h : ls ≠ 0) (code addr : Nat) (straddle : Bool) :
    ∃ l, (failsAt ls code addr straddle).head?.getD ⟨0, 0, 0, false⟩ = ⟨l, code, addr, straddle⟩ := by
  unfold failsAt
  cases hl : lanesOf ls with
  | nil => exact absurd hl (lanesOf_ne_nil h)
  | cons l r => exact ⟨l, rfl⟩

theorem groupFails_failsAt {ls : Half} (h : ls ≠ 0) (code addr : Nat) (straddle : Bool) :
    groupFails 32 (failsAt ls code addr straddle) = [failsAt ls code addr straddle] := by
  unfold failsAt
  cases hl : lanesOf ls with
  | nil => exact absurd hl (lanesOf_ne_nil h)
  | cons l r =>
    refine groupFails_same fun y hy => ?_
    obtain ⟨k, -, rfl⟩ := List.mem_map.1 hy
    simp [Fail.same]

theorem fragOf_failsAt {s : State} {t w : Nat} {p : Path} {ls idle : Half} (h : ls ≠ 0) (code addr : Nat) (straddle : Bool) (k : Nat) :
    s.fragOf t w p (failsAt ls code addr straddle) idle k =
      { team := t, warp := w, entry := some k, pc := p.pc, mask := ls, idle := idle, cause := code / 256, detail := code % 256,
        straddle := straddle, addr := addr, join := p.join, at_ := s.now } := by
  obtain ⟨l, hl⟩ := head_failsAt h code addr straddle
  unfold State.fragOf
  rw [hl, maskOf_failsAt]

section LaneFetchFault
variable {s : State} {t w : Nat} {b : Bool} (h : s.onPath t w b) (addr : Nat) (straddle : Bool)
include h

theorem exec_fetchFault_onPath (cause detail : BitVec 8) (hc : cause ≠ 14) : exec (.fetchFault cause detail addr straddle) s =
    .next ((s.parkAll t w (s.path t w b) [failsAt (s.path t w b).mem (cause.toNat * 256 + detail.toNat) addr straddle]
      ((s.path t w b).mem &&& ~~~(s.path t w b).m0)).1.settle t) := by
  obtain ⟨hcur, hlive, hpath, -⟩ := h
  rw [exec_fetchFault]
  unfold execFetchFault failsAt
  simp only [hcur, pathLive_of_live hlive hpath, hc, Bool.not_true, Bool.false_eq_true, if_false]

theorem exec_fetchPoison_onPath :
    exec (.fetchFault 14 4 addr straddle) s = .next ((s.laneDeath t w (s.path t w b).mem 1).settle t) := by
  obtain ⟨hcur, hlive, hpath, -⟩ := h
  rw [exec_fetchFault]
  unfold execFetchFault
  simp only [hcur, pathLive_of_live hlive hpath, Bool.not_true, Bool.false_eq_true, if_false, if_true]

theorem exec_illegal_onPath : exec .illegalInstruction s = .next (s.laneIllegal t w b) := by
  obtain ⟨hcur, hlive, hpath, -⟩ := h
  change execIllegalInstruction s = _
  unfold execIllegalInstruction
  simp only [hcur, pathLive_of_live hlive hpath, State.illegal, Bool.not_true, Bool.false_eq_true, if_false]

end LaneFetchFault

theorem laneIllegal_of_members {s : State} {t w : Nat} {b : Bool} (hm : (s.path t w b).m0 ≠ 0) :
    s.laneIllegal t w b = (s.parkAll t w (s.path t w b) [failsAt (s.path t w b).m0 cILLEGAL 0 false] 0).1.settle t := by
  unfold State.laneIllegal State.park
  rw [← groupFails_failsAt hm]
  exact if_neg hm

theorem laneFetchFaults : Claims.LaneFetchFaults := by
  intro s t w b h addr straddle p W T die_ parks hteam hstack hfree hmem
  have hparks : ∀ (ls : Half) (code a : Nat) (st : Bool) (idle : Half), ls ≠ 0 → s.noHandler t = false ∨ code = cFETCHABSENT →
      s.pathParks ((s.parkAll t w p [failsAt ls code a st] idle).1.settle t) t w b
        { mask := ls, idle := idle, cause := code / 256, detail := code % 256, addr := a, straddle := st } := by
    intro ls code a st idle hls hcode
    obtain ⟨l, hl⟩ := head_failsAt hls code a st
    have hgo := settle_parkAll_parks h (g := failsAt ls code a st) (idle := idle) hteam hstack hfree (by rw [hl]; exact hcode)
    rw [fragOf_failsAt hls] at hgo
    exact hgo
  have hdies : ∀ (ls : Half) (code a : Nat) (st : Bool) (idle : Half), ls ≠ 0 → s.noHandler t = true → code ≠ cABSENT → code ≠ cFETCHABSENT →
      s.lanesDied ((s.parkAll t w p [failsAt ls code a st] idle).1.settle t) t w ls 6 := by
    intro ls code a st idle hls hvec habsent hfetch
    obtain ⟨l, hl⟩ := head_failsAt hls code a st
    have hgo := settle_parkAll_dies h (g := failsAt ls code a st) (idle := idle) hteam hfree hvec (by rw [hl]; exact habsent) (by rw [hl]; exact hfetch)
    rw [maskOf_failsAt] at hgo
    exact hgo
  refine ⟨⟨_, exec_fetchFault_onPath h addr straddle 11 1 (by decide), hparks _ 0xB01 _ _ _ hmem (.inr rfl)⟩,
    ⟨_, exec_fetchPoison_onPath h addr straddle, ?_⟩,
    fun hvec => ⟨⟨_, exec_fetchFault_onPath h addr straddle 11 2 (by decide), ?_⟩, fun hm => ⟨_, exec_illegal_onPath h, ?_⟩⟩,
    fun hvec => ⟨⟨_, exec_fetchFault_onPath h addr straddle 11 2 (by decide), ?_⟩, fun hm => ⟨_, exec_illegal_onPath h, ?_⟩⟩,
    fun hm hgoes => ⟨_, exec_illegal_onPath h, ?_⟩⟩
  · rw [laneDeath_of_team hteam]
    exact (lanesDied_killLanes (State.hasWarp_of_live h.2.1) p.mem 1).settle t
  · exact hparks _ 0xB02 _ _ _ hmem (.inl (by rw [noHandler_eq]; simpa using hvec))
  · rw [laneIllegal_of_members hm]
    exact hparks _ cILLEGAL _ _ _ hm (.inl (by rw [noHandler_eq]; simpa using hvec))
  · exact hdies _ 0xB02 _ _ _ hmem (by rw [noHandler_eq]; simpa using hvec) (by decide) (by decide)
  · rw [laneIllegal_of_members hm]
    exact hdies _ cILLEGAL _ _ _ hm (by rw [noHandler_eq]; simpa using hvec) (by decide) (by decide)
  · have hnext : s.laneIllegal t w b = s.nextIdx t w b := if_pos hm
    rw [hnext]
    exact nextIdx_steps h hgoes

/-- Settles O9: traps, undefined words and failed fetches, stream by stream. -/
theorem trapsAndFetchFaults : Obligations.TrapsAndFetchFaults := ⟨scalarTraps, fetchFaults, matrixFetchFaults, laneFetchFaults⟩

end Sys2Proof.Machine

/-! PROOFS. The PRIV family (R49, R435 to R440). -/

namespace Sys2Proof.Machine

/-! ### Its frame -/

theorem exec_fragrd (d a b : Reg) (s : State) : exec (.fragrd d a b) s = execFragrd d a b s := rfl
theorem exec_pinv (a b : Reg) (s : State) : exec (.pinv a b) s = rangeOp a b s fun d r s => s.modDie d (·.pinv r) := rfl
theorem exec_cwb (a b : Reg) (s : State) : exec (.cwb a b) s = rangeOp a b s fun d r s => s.cwb d r := rfl
theorem exec_cinv (a b : Reg) (s : State) : exec (.cinv a b) s = rangeOp a b s fun d r s => s.cinv d r := rfl
theorem exec_dirtyget (d a b : Reg) (s : State) : exec (.dirtyget d a b) s = execDirtyget d a b s := rfl
theorem exec_teamhalt (d a : Reg) (s : State) : exec (.teamhalt d a) s = execTeamhalt d a s := rfl

section Frame
variable {s : State} {t w : Nat}

theorem State.onWarp.mayPriv_eq (h : s.onWarp t w) : s.mayPriv = ((s.team t).pmgr || (s.team t).handler) := by
  simp [State.mayPriv, h.1]

theorem priv_denied (h : s.onWarp t w) (hp : (s.team t).pmgr = false) (hh : (s.team t).handler = false) (fields : List Reg) (reads : List Nat) (k : Out) :
    priv fields reads s k = .next s.illegal := by
  unfold priv
  rw [warpOnly_ready _ _ _ h, h.mayPriv_eq, hp, hh]
  rfl

theorem priv_allowed (h : s.onWarp t w) (hp : (s.team t).pmgr = true ∨ (s.team t).handler = true) (fields : List Reg) (reads : List Nat) (k : Out) :
    priv fields reads s k = k := by
  unfold priv
  rw [warpOnly_ready _ _ _ h, if_pos (by rw [h.mayPriv_eq]; simpa using hp)]

/-- An operand of another partition halts the warp with PERMISSION, detail PARTITION (R435, R443). -/
theorem foreign_halts (h : s.onWarp t w) :
    ∃ s1 addr, s1 = { s with ctr := s1.ctr } ∧ WarpHalted s1 s.foreign t w (s1.warpReport t w 2 7 addr 0) :=
  ⟨(s.draw 64).2, (s.draw 64).1, rfl, streamFault_halts ((sameStreams_draw s 64).onWarp h) cPARTITION _ 0 false⟩

end Frame

theorem bits_low (x n : Nat) : bits x n 0 = x % 2 ^ (n + 1) := by simp [bits]

/-! ### FRAGRD (R437) -/

/-- The fragment that FRAGRD's operand names. -/
def State.fragHit (s : State) (d x : Nat) : Option (Nat × Frag) :=
  s.frags.find? fun (_, F) => (s.team F.team).die == d && (s.team F.team).core == x / 2 ^ 26 % 64 && F.entry == some (x / 2 ^ 15 % 32) &&
    ((s.team F.team).warp F.warp).slot == x / 2 ^ 20 % 64 && F.mask.getLsbD (x / 2 ^ 10 % 32) && F.cause == x % 256

section Instructions
variable {s : State} {t w : Nat} (h : s.onWarp t w) (hp : (s.team t).pmgr = true ∨ (s.team t).handler = true)
include h hp

theorem exec_fragrd_allowed (d a b : Reg) : exec (.fragrd d a b) s =
    if (s.reg a).toNat / 2 ^ 26 % 64 / 8 ≠ (s.team t).core / 8 then .next s.foreign
    else .next (s.result d (match s.fragHit (s.team t).die (s.reg a).toNat with
      | some (_, F) => BitVec.ofNat 64 (s.fragWord F ((s.reg b).toNat % 4))
      | none => 0)) := by
  obtain rfl := h.me_eq
  rw [exec_fragrd]
  unfold execFragrd State.fragHit
  rw [priv_allowed h hp]
  simp only [bits, pow_zero, Nat.div_one]
  rfl

/-! ### PINV, CWB and CINV (R438) -/

/-- The range that an instruction's operands name. -/
def PageRange.of (x y : Nat) : PageRange := ⟨y / 2 ^ 32 % 4096, x / 4096 * 4096, if y % 2 ^ 32 = 0 then none else some (y % 2 ^ 32 * 4096)⟩

theorem rangeOp_own (a b : Reg) (k : Nat → PageRange → State → State)
    (hown : ∀ p, s.partitionOf (s.team t).die ((s.reg b).toNat / 2 ^ 32 % 4096) = some p → p.1 = (s.team t).partition) :
    rangeOp a b s k = .next ((k (s.team t).die (PageRange.of (s.reg a).toNat (s.reg b).toNat) s).advance 4) := by
  obtain rfl := h.me_eq
  unfold rangeOp
  rw [priv_allowed h hp]
  simp only [bits_low]
  cases hq : s.partitionOf (s.team s.me).die (bits (s.reg b).toNat 43 32) with
  | none => rfl
  | some p => exact if_neg (not_not.mpr (hown p hq))

theorem rangeOp_foreign (a b : Reg) (k : Nat → PageRange → State → State)
    (hforeign : ∃ p, s.partitionOf (s.team t).die ((s.reg b).toNat / 2 ^ 32 % 4096) = some p ∧ p.1 ≠ (s.team t).partition) :
    rangeOp a b s k = .next s.foreign := by
  obtain rfl := h.me_eq
  obtain ⟨p, hq, hne⟩ := hforeign
  unfold rangeOp
  rw [priv_allowed h hp]
  change (match s.partitionOf (s.team s.me).die (bits (s.reg b).toNat 43 32) with | some (p, _) => _ | none => _) = _
  rw [show s.partitionOf (s.team s.me).die (bits (s.reg b).toNat 43 32) = some p from hq]
  exact if_pos hne

/-! ### DIRTYGET (R439) -/

/-- The dirty regions of DIRTYGET's block, and its result. -/
def State.dirtyHits (s : State) (d base : Nat) : List Nat := (s.die d).dirty.filter fun g => decide (base ≤ g) && decide (g < base + 64)

def dirtyWord (base : Nat) (hits : List Nat) : Word := BitVec.ofNat 64 (hits.map fun g => 2 ^ (g - base)).sum

theorem exec_dirtyget_allowed (d a b : Reg) (hx : (s.reg a).toNat < 192 * 2 ^ 30) : exec (.dirtyget d a b) s =
    let x := (s.reg a).toNat
    let die := (s.team t).die
    let hits := s.dirtyHits die (x / 2 ^ 22 * 64)
    if s.frameForeign die (s.team t).partition (x / 2 ^ 22 * 2) || s.frameForeign die (s.team t).partition (x / 2 ^ 22 * 2 + 1) then .next s.foreign
    else .next ((if (s.reg b).getLsbD 0 then s else s.modDie die fun D => { D with dirty := D.dirty.filter fun g => !hits.contains g }).result d
      (dirtyWord (x / 2 ^ 22 * 64) hits)) := by
  obtain rfl := h.me_eq
  rw [exec_dirtyget]
  unfold execDirtyget
  rw [priv_allowed h hp]
  exact if_neg (Nat.not_le.mpr hx)

/-! ### TEAMHALT (R440) -/

/-- The team of a die's queues that a reference names. -/
def State.teamOfRef (s : State) (d x : Nat) : Option (Nat × Team) := s.teams.find? fun (_, U) => U.origin == d && U.ref == some (x % 2 ^ 32)

theorem exec_teamhalt_allowed (d a : Reg) : exec (.teamhalt d a) s =
    match s.teamOfRef (s.team t).die (s.reg a).toNat with
    | none => .next (s.result d 1)
    | some (u, U) => if U.partition ≠ (s.team t).partition then .next s.foreign else .next ((s.result d 0).haltTeam u) := by
  obtain rfl := h.me_eq
  rw [exec_teamhalt]
  unfold execTeamhalt
  rw [priv_allowed h hp]
  rfl

end Instructions

/-- With its bit set, DIRTYGET's operand asks that the bits stand. -/
theorem getLsbD_zero_eq (x : Word) : x.getLsbD 0 = decide (x.toNat % 2 = 1) := by
  rw [BitVec.getLsbD, Nat.testBit_zero]

/-- Clearing the hits leaves the other regions of the map. -/
theorem mem_clearDirty (l : List Nat) (base g : Nat) :
    g ∈ l.filter (fun g => !(l.filter fun g => decide (base ≤ g) && decide (g < base + 64)).contains g) ↔ g ∈ l ∧ ¬ (base ≤ g ∧ g < base + 64) := by
  simp only [List.mem_filter, List.contains_eq_mem, Bool.not_eq_true', decide_eq_false_iff_not, Bool.and_eq_true, decide_eq_true_eq]
  tauto

theorem haltWarp_stops {s : State} {u v : Nat} (h : s.hasWarp u v = true) : (s.haltWarp u v).stopped u v := by
  refine (keptByEnds_stopped u v).haltWarp_of_halted ?_
  unfold State.stopped
  rw [State.warp_modWarp_self _ _ _ _ h]
  simp

/-- The running warps of a list, all of which are there, have stopped when each has been halted. -/
theorem stopped_of_foldl_haltWarp {u v : Nat} : ∀ (l : List Nat) (s : State), s.hasWarp u v = true → (v ∈ l ∨ s.stopped u v) →
    (l.foldl (fun s w => s.haltWarp u w) s).stopped u v
  | [], _, _, hv => hv.resolve_left (by simp)
  | x :: l, s, hw, hv => by
    refine stopped_of_foldl_haltWarp l (s.haltWarp u x) ((keptByEnds_hasWarp u v).haltWarp hw u x) ?_
    rcases hv with hv | hv
    · rcases List.mem_cons.mp hv with rfl | hv
      · exact .inr (haltWarp_stops hw)
      · exact .inl hv
    · exact .inr ((keptByEnds_stopped u v).haltWarp hv u x)

theorem keptByEnds_faults (l : List Report) : KeptByEnds (·.faults = l) := ⟨fun _ h => h, fun _ h => h, fun _ h => h, fun _ h => h⟩

theorem hasTeam_modTeam (s : State) (t u : Nat) (f : Team → Team) : ((s.modTeam t f).teams.find u).isSome = (s.teams.find u).isSome := by
  rw [State.find_modTeam]
  split <;> simp

theorem keptByEnds_hasTeam (u : Nat) : KeptByEnds fun s => (s.teams.find u).isSome where
  modWarp _ h := (hasTeam_modTeam ..).trans h
  modTeam _ h := (hasTeam_modTeam ..).trans h
  frags _ h := h
  settle _ h := (hasTeam_modTeam ..).trans h

theorem KeptByEnds.foldl_haltWarp {P : State → Prop} (k : KeptByEnds P) (u : Nat) (l : List Nat) {s : State} (h : P s) :
    P (l.foldl (fun s w => s.haltWarp u w) s) :=
  List.foldlRecOn (motive := P) l _ h fun _ hs w _ => k.haltWarp hs u w

theorem Map.mem_of_find {α : Type} {m : Map α} {k : Nat} {v : α} (h : m.find k = some v) : (k, v) ∈ m := by
  induction m with
  | nil => simp at h
  | cons x r ih =>
    obtain ⟨j, y⟩ := x
    rw [Map.find_cons] at h
    split at h
    · next hj => simp_all
    · exact List.mem_cons_of_mem _ (ih h)

/-- The warps of a team that run, which TEAMHALT halts. -/
def State.runningWarps (s : State) (u : Nat) : List Nat := Map.keys ((s.team u).warps.filter fun (_, W) => W.life == .running)

theorem mem_runningWarps {s : State} {u v : Nat} (h : s.hasWarp u v = true) : v ∈ s.runningWarps u ∨ s.stopped u v := by
  obtain ⟨-, hv⟩ := Bool.and_eq_true_iff.mp h
  obtain ⟨W, hW⟩ := Option.isSome_iff_exists.mp hv
  by_cases hlife : W.life = .running
  · exact .inl (List.mem_map.mpr ⟨(v, W), List.mem_filter.mpr ⟨Map.mem_of_find hW, by simp [hlife]⟩, rfl⟩)
  · refine .inr ?_
    unfold State.stopped State.warp Team.warp Map.get
    rwa [hW]

/-- What TEAMHALT makes of a team (R440). -/
structure TeamHalted (s s' : State) (u : Nat) : Prop where
  halt : (s'.team u).halt = true
  faulted : (s'.team u).faulted = true
  warps : ∀ v, s.hasWarp u v = true → s'.stopped u v
  seq : (s'.team u).seq.life ≠ .running
  faults : s'.faults = s.faults

theorem haltTeam_halts {s : State} {u : Nat} (h : (s.teams.find u).isSome) : TeamHalted s (s.haltTeam u) u := by
  obtain ⟨s1, hs1⟩ : ∃ s1, s1 = (s.runningWarps u).foldl (fun s w => s.haltWarp u w) s := ⟨_, rfl⟩
  have hteam : (s1.teams.find u).isSome := hs1 ▸ (keptByEnds_hasTeam u).foldl_haltWarp u _ h
  have hfaults : s1.faults = s.faults := hs1 ▸ (keptByEnds_faults s.faults).foldl_haltWarp u _ rfl
  have hstopped : ∀ v, s.hasWarp u v = true → s1.stopped u v := fun v hv => hs1 ▸ stopped_of_foldl_haltWarp _ s hv (mem_runningWarps hv)
  unfold State.haltTeam
  change TeamHalted s (((s.runningWarps u).foldl (fun s w => s.haltWarp u w) s).modTeam u _) u
  rw [← hs1]
  constructor
  · rw [State.team_modTeam _ _ _ _ hteam, if_pos rfl]
  · rw [State.team_modTeam _ _ _ _ hteam, if_pos rfl]
  · intro v hv
    unfold State.stopped
    rw [warp_modTeam_of_warps (by exact fun _ => rfl)]
    exact hstopped v hv
  · rw [State.team_modTeam _ _ _ _ hteam, if_pos rfl]
    dsimp only
    split <;> simp_all
  · exact hfaults

/-- A result changes no team but by the issuing warp's registers. -/
theorem hasWarp_result {s : State} {t w : Nat} (h : s.onWarp t w) (d : Reg) (x : Word) (u v : Nat) : (s.result d x).hasWarp u v = s.hasWarp u v := by
  simp [State.result, State.setReg, State.setSreg, State.advance, h.1]

theorem hasTeam_result {s : State} {t w : Nat} (h : s.onWarp t w) (d : Reg) (x : Word) (u : Nat) :
    ((s.result d x).teams.find u).isSome = (s.teams.find u).isSome := by
  simp only [State.result, State.setReg, State.setSreg, State.advance, h.1, State.modWarp_cur]
  exact (hasTeam_modTeam ..).trans (hasTeam_modTeam ..)

theorem faults_result {s : State} {t w : Nat} (h : s.onWarp t w) (d : Reg) (x : Word) : (s.result d x).faults = s.faults := by
  simp only [State.result, State.setReg, State.setSreg, State.advance, h.1, State.modWarp_cur]
  rfl

/-! ### The obligation -/

section Settle
variable {s : State} {t w : Nat}

/-- An instruction that ends as an operand of another partition does takes its fault. -/
theorem runs_foreign (h : s.onWarp t w) {i : Instr} (he : exec i s = .next s.foreign) : Runs i s fun s' =>
    ∃ s1 addr, s1 = { s with ctr := s1.ctr } ∧ WarpHalted s1 s' t w (s1.warpReport t w 2 7 addr 0) :=
  ⟨_, he, foreign_halts h⟩

theorem modDie_result_wrote (h : s.onWarp t w) (e : Nat) (f : Die → Die) (d : Reg) (x : Word) :
    (d ≠ 0 → ((s.modDie e f).result d x).reg d = x) ∧ ((s.modDie e f).result d x).pc = s.pc + 4 := by
  have hmod : (s.modDie e f).onWarp t w := h
  have hres := result_wrote hmod.ready_nil d x
  exact ⟨hres.reg_eq, hres.pc⟩

variable (h : s.onWarp t w) (hp : (s.team t).pmgr = true ∨ (s.team t).handler = true)
include h hp

theorem exec_dirtyget_own (d a b : Reg) (hx : (s.reg a).toNat < 192 * 2 ^ 30)
    (h0 : s.frameForeign (s.team t).die (s.team t).partition ((s.reg a).toNat / 2 ^ 22 * 2) = false)
    (h1 : s.frameForeign (s.team t).die (s.team t).partition ((s.reg a).toNat / 2 ^ 22 * 2 + 1) = false) :
    exec (.dirtyget d a b) s = .next ((if (s.reg b).getLsbD 0 then s
      else s.modDie (s.team t).die fun D =>
        { D with dirty := D.dirty.filter fun g => !(s.dirtyHits (s.team t).die ((s.reg a).toNat / 2 ^ 22 * 64)).contains g }).result d
      (dirtyWord ((s.reg a).toNat / 2 ^ 22 * 64) (s.dirtyHits (s.team t).die ((s.reg a).toNat / 2 ^ 22 * 64)))) :=
  (exec_dirtyget_allowed h hp d a b hx).trans (if_neg (by rw [h0, h1]; decide))

theorem dirtyget_reads (d a b : Reg) (hx : (s.reg a).toNat < 192 * 2 ^ 30)
    (h0 : s.frameForeign (s.team t).die (s.team t).partition ((s.reg a).toNat / 2 ^ 22 * 2) = false)
    (h1 : s.frameForeign (s.team t).die (s.team t).partition ((s.reg a).toNat / 2 ^ 22 * 2 + 1) = false) (hy : (s.reg b).toNat % 2 = 1) :
    Runs (.dirtyget d a b) s fun s' => Result s s' d (dirtyWord ((s.reg a).toNat / 2 ^ 22 * 64) (s.dirtyHits (s.team t).die ((s.reg a).toNat / 2 ^ 22 * 64))) := by
  have hbit : (s.reg b).getLsbD 0 = true := by rw [getLsbD_zero_eq, hy]; rfl
  refine ⟨_, (exec_dirtyget_own h hp d a b hx h0 h1).trans (by rw [if_pos hbit]), ?_⟩
  exact result_wrote h.ready_nil d _

theorem dirtyget_clears (d a b : Reg) (hx : (s.reg a).toNat < 192 * 2 ^ 30)
    (h0 : s.frameForeign (s.team t).die (s.team t).partition ((s.reg a).toNat / 2 ^ 22 * 2) = false)
    (h1 : s.frameForeign (s.team t).die (s.team t).partition ((s.reg a).toNat / 2 ^ 22 * 2 + 1) = false) (hy : (s.reg b).toNat % 2 = 0)
    (hdie : (s.dies.find (s.team t).die).isSome) :
    Runs (.dirtyget d a b) s fun s' =>
      (d ≠ 0 → s'.reg d = dirtyWord ((s.reg a).toNat / 2 ^ 22 * 64) (s.dirtyHits (s.team t).die ((s.reg a).toNat / 2 ^ 22 * 64))) ∧ s'.pc = s.pc + 4 ∧
      ∀ g, g ∈ (s'.die (s.team t).die).dirty ↔
        g ∈ (s.die (s.team t).die).dirty ∧ ¬ ((s.reg a).toNat / 2 ^ 22 * 64 ≤ g ∧ g < (s.reg a).toNat / 2 ^ 22 * 64 + 64) := by
  have hbit : ¬ (s.reg b).getLsbD 0 = true := by rw [getLsbD_zero_eq, hy]; decide
  refine ⟨_, (exec_dirtyget_own h hp d a b hx h0 h1).trans (by rw [if_neg hbit]), ?_⟩
  refine ⟨(modDie_result_wrote h ..).1, (modDie_result_wrote h ..).2, fun g => ?_⟩
  rw [State.die_result, State.die_modDie _ _ _ _ hdie, if_pos rfl]
  exact mem_clearDirty ..

theorem teamhalt_absent (d a : Reg) (hnone : ∀ u ∈ s.teams, u.2.origin ≠ (s.team t).die ∨ u.2.ref ≠ some ((s.reg a).toNat % 2 ^ 32)) :
    Runs (.teamhalt d a) s fun s' => Result s s' d 1 := by
  have hfind : s.teamOfRef (s.team t).die (s.reg a).toNat = none := by
    refine List.find?_eq_none.mpr fun u hu => ?_
    have := hnone u hu
    simp only [Bool.and_eq_true, beq_iff_eq]
    tauto
  exact ⟨_, (exec_teamhalt_allowed h hp d a).trans (by rw [hfind]), result_wrote h.ready_nil d 1⟩

theorem teamhalt_halts (d a : Reg) {u : Nat} {U : Team} (hfind : s.teamOfRef (s.team t).die (s.reg a).toNat = some (u, U))
    (hpart : U.partition = (s.team t).partition) (hu : s.teams.find u = some U) :
    Runs (.teamhalt d a) s fun s' => (s'.team u).halt = true ∧ (s'.team u).faulted = true ∧
      (∀ v, (s'.warp u v).life = .running → U.warps.find v = none) ∧ (s'.team u).seq.life ≠ .running ∧ s'.faults = s.faults := by
  have hteam : ((s.result d 0).teams.find u).isSome := by rw [hasTeam_result h, hu]; rfl
  have hhalted := haltTeam_halts hteam
  refine ⟨_, (exec_teamhalt_allowed h hp d a).trans ?_, hhalted.halt, hhalted.faulted, fun v hv => ?_, hhalted.seq,
    hhalted.faults.trans (faults_result h d 0)⟩
  · rw [hfind]
    exact if_neg (not_not.mpr hpart)
  · by_contra hfound
    refine hhalted.warps v ?_ hv
    rw [hasWarp_result h]
    simpa [State.hasWarp, State.team, Map.get, hu, Option.isSome_iff_ne_none] using hfound

end Settle

/-- Settles O24: `priv` lets the instructions run for a PMGR queue's team or a handler's, and each then has its equation. -/
theorem privilegedInstructions : Obligations.PrivilegedInstructions := by
  intro s t w h d a b T x y stops stopsForeign
  refine ⟨fun hpmgr hhandler => ?_, fun hp => ?_⟩
  · have hstops {i : Instr} (he : exec i s = .next s.illegal) : stops i := ⟨_, he, illegal_halts h⟩
    have hdenied := priv_denied h hpmgr hhandler
    exact ⟨hstops ((exec_fragrd ..).trans (hdenied ..)), hstops ((exec_pinv ..).trans (hdenied ..)), hstops ((exec_cwb ..).trans (hdenied ..)),
      hstops ((exec_cinv ..).trans (hdenied ..)), hstops ((exec_dirtyget ..).trans (hdenied ..)), hstops ((exec_teamhalt ..).trans (hdenied ..))⟩
  · refine ⟨fun hcore => ?_, fun hown => ?_, fun hforeign => ?_, fun hcore => ?_, fun hx hframe => ?_, fun u U hfind hpart => ?_, fun hx h0 h1 => ?_,
      teamhalt_absent h hp d a, fun u U hfind hpart hu => teamhalt_halts h hp d a hfind hpart hu⟩
    · exact ⟨_, (exec_fragrd_allowed h hp d a b).trans (if_neg (not_not.mpr hcore)), result_wrote h.ready_nil d _⟩
    · have hrange := rangeOp_own h hp a b (hown := hown)
      exact ⟨⟨_, (exec_pinv ..).trans (hrange _), rfl⟩, ⟨_, (exec_cwb ..).trans (hrange _), rfl⟩, ⟨_, (exec_cinv ..).trans (hrange _), rfl⟩⟩
    · have hrange := rangeOp_foreign h hp a b (hforeign := hforeign)
      exact ⟨runs_foreign h ((exec_pinv ..).trans (hrange _)), runs_foreign h ((exec_cwb ..).trans (hrange _)),
        runs_foreign h ((exec_cinv ..).trans (hrange _))⟩
    · exact runs_foreign h ((exec_fragrd_allowed h hp d a b).trans (if_pos hcore))
    · exact runs_foreign h ((exec_dirtyget_allowed h hp d a b hx).trans (if_pos (Bool.or_eq_true_iff.mpr hframe)))
    · refine runs_foreign h ((exec_teamhalt_allowed h hp d a).trans ?_)
      rw [show s.teamOfRef (s.team t).die (s.reg a).toNat = some (u, U) from hfind]
      exact if_pos hpart
    · exact ⟨dirtyget_reads h hp d a b hx h0 h1, dirtyget_clears h hp d a b hx h0 h1⟩

end Sys2Proof.Machine

/-! PROOFS. The integer lane instructions (R111 to R122). -/

namespace Sys2Proof.Machine

/-! ### Types and elements -/

theorem tyBits_eq (ty : BitVec 4) : tyBits ty = widthTy ty := by revert ty; decide
theorem tySigned_eq (ty : BitVec 4) : tySigned ty = signedTy ty := by revert ty; decide
theorem packed_iff (ty : BitVec 4) : packed ty = true ↔ ty = 6 ∨ ty = 7 ∨ ty = 8 := by revert ty; decide
theorem tyBits_le (ty : BitVec 4) : 0 < tyBits ty ∧ tyBits ty ≤ 64 := by revert ty; decide

/-- The two's-complement value of the low bits (R65). -/
theorem sext_eq_toInt (x n : Nat) : sext x n = (BitVec.ofNat n x).toInt := by
  simp only [sext, BitVec.toInt, BitVec.toNat_ofNat]
  push_cast
  rfl

theorem readTy_eq_tyRead (ty : BitVec 4) (x : Nat) : readTy ty x = tyRead ty x := by
  unfold readTy tyRead
  rw [tyBits_eq, tySigned_eq, sext_eq_toInt, BitVec.toNat_ofNat]
  rfl

theorem fit_eq_tyFit (ty : BitVec 4) (sat : Bool) (x : Int) : fit ty sat x = tyFit ty sat x := by
  simp only [fit, tyFit, wrap, tySigned_eq, tyBits_eq]

theorem perElement_eq_elem3 (ty : BitVec 4) (g : Nat → Nat → Nat → Nat) (a b c : Nat) : perElement ty g a b c = elem3 ty g a b c := by
  unfold perElement elem3
  by_cases h : packed ty = true
  · rw [if_pos h, if_pos ((packed_iff ty).mp h)]
  · rw [if_neg h, if_neg (mt (packed_iff ty).mpr h)]

/-- The integer types of the lane instructions (R117). -/
def intTys : List (BitVec 4) := [0, 1, 2, 3, 8]

/-- Under an integer type an operand that is not packed has the element's width. -/
theorem operand_width {ty : BitVec 4} (hty : ty ∈ intTys) (h : packed ty = false) : (if Lane.wide ty then 64 else 32) = tyBits ty := by
  revert ty; decide

theorem packed_width {ty : BitVec 4} (hty : ty ∈ intTys) (h : packed ty = true) : tyBits ty = 16 := by
  revert ty; decide

theorem Warp.vval_lt (W : Warp) (wide : Bool) (r l : Nat) : W.vval wide r l < 2 ^ (if wide then 64 else 32) := by
  have h0 := (W.vw r l).isLt
  have h1 := (W.vw (r + 1) l).isLt
  cases wide <;> simp [Warp.vval] <;> omega

theorem Warp.shared_lt (W : Warp) (wide : Bool) (r : BitVec 8) : W.shared wide r < 2 ^ (if wide then 64 else 32) := by
  have h0 := (W.snap (32 + r.toNat % 32)).isLt
  cases wide
  · simp [Warp.shared]; omega
  · simpa [Warp.shared] using h0

theorem Warp.opa_lt (W : Warp) (f : LaneWord) (wide : Bool) (l : Nat) : W.opa f wide l < 2 ^ (if wide then 64 else 32) := W.vval_lt ..

theorem Warp.opb_lt (W : Warp) (f : LaneWord) (wide : Bool) (l : Nat) : W.opb f wide l < 2 ^ (if wide then 64 else 32) := by
  unfold Warp.opb
  split
  · exact W.shared_lt ..
  · exact W.vval_lt ..

theorem Warp.opc_lt (W : Warp) (f : LaneWord) (wide : Bool) (l : Nat) : W.opc f wide l < 2 ^ (if wide then 64 else 32) := by
  unfold Warp.opc
  split
  · exact W.shared_lt ..
  · exact W.vval_lt ..

/-- Functions that agree on elements of the type's width give the same words. -/
theorem elem3_congr {ty : BitVec 4} (hty : ty ∈ intTys) {g g' : Nat → Nat → Nat → Nat}
    (hg : ∀ x y z, x < 2 ^ tyBits ty → y < 2 ^ tyBits ty → z < 2 ^ tyBits ty → g x y z = g' x y z) {a b c : Nat}
    (ha : a < 2 ^ (if Lane.wide ty then 64 else 32)) (hb : b < 2 ^ (if Lane.wide ty then 64 else 32))
    (hc : c < 2 ^ (if Lane.wide ty then 64 else 32)) : elem3 ty g a b c = elem3 ty g' a b c := by
  unfold elem3
  cases hp : packed ty with
  | true =>
    rw [packed_width hty hp] at hg
    have hlt (x : Nat) : x % 2 ^ 16 < 2 ^ 16 := Nat.mod_lt _ (by norm_num)
    rw [if_pos rfl, if_pos rfl, hg _ _ _ (hlt _) (hlt _) (hlt _), hg _ _ _ (hlt _) (hlt _) (hlt _)]
  | false =>
    rw [operand_width hty hp] at ha hb hc
    exact hg a b c ha hb hc

/-! ### Instructions that work element by element -/

/-- Each lane with effect takes the function of its operands, element by element. -/
def LaneElems (s : State) (t w : Nat) (b : Bool) (f : LaneWord) (i : Instr) (g : Nat → Nat → Nat → Nat) : Prop :=
  Runs i s fun s' => LaneResult s s' t w b f (Lane.wide f.ty) fun l =>
    perElement f.ty g ((s.warp t w).opa f (Lane.wide f.ty) l) ((s.warp t w).opb f (Lane.wide f.ty) l) ((s.warp t w).opc f (Lane.wide f.ty) l)

section Frames
variable {s : State} {t w : Nat} {b : Bool} {f : LaneWord} {i : Instr} {reads : List Nat} (h : s.onPath t w b) (hgo : s.goesOn t w b)
  (hty : f.ty ∈ intTys)
include h hgo hty

theorem laneElem_runs {g g' : Nat → Nat → Nat → Nat} (he : exec i s = laneElem f reads g s)
    (hg : ∀ x y z, x < 2 ^ tyBits f.ty → y < 2 ^ tyBits f.ty → z < 2 ^ tyBits f.ty → g x y z = g' x y z) : LaneElems s t w b f i g' := by
  obtain ⟨s', hrun, hres⟩ := laneWrites_result h hgo f reads (Lane.wide f.ty) fun W l =>
    elem3 f.ty g (W.opa f (Lane.wide f.ty) l) (W.opb f (Lane.wide f.ty) l) (W.opc f (Lane.wide f.ty) l)
  refine ⟨s', he.trans hrun, ?_⟩
  have hvals : (fun l => perElement f.ty g' ((s.warp t w).opa f (Lane.wide f.ty) l) ((s.warp t w).opb f (Lane.wide f.ty) l)
      ((s.warp t w).opc f (Lane.wide f.ty) l)) = fun l => elem3 f.ty g ((s.warp t w).opa f (Lane.wide f.ty) l)
      ((s.warp t w).opb f (Lane.wide f.ty) l) ((s.warp t w).opc f (Lane.wide f.ty) l) := by
    funext l
    rw [perElement_eq_elem3]
    exact (elem3_congr hty hg (Warp.opa_lt ..) (Warp.opb_lt ..) (Warp.opc_lt ..)).symm
  rw [hvals]
  exact hres

/-- The exact results of an integer instruction, fitted (R115). -/
theorem laneInt_runs {g : Int → Int → Int → Int} (he : exec i s = laneInt f reads g s) :
    LaneElems s t w b f i fun x y z => tyFit f.ty f.sat (g (tyRead f.ty x) (tyRead f.ty y) (tyRead f.ty z)) :=
  laneElem_runs h hgo hty he fun x y z _ _ _ => by simp only [fit_eq_tyFit, readTy_eq_tyRead]

/-- The low bits of what an instruction on bits gives. -/
theorem laneBits_runs {g g' : Nat → Nat → Nat → Nat} (he : exec i s = laneBits f reads g s)
    (hg : ∀ x y z, x < 2 ^ tyBits f.ty → y < 2 ^ tyBits f.ty → z < 2 ^ tyBits f.ty → g x y z % 2 ^ tyBits f.ty = g' x y z) :
    LaneElems s t w b f i g' :=
  laneElem_runs h hgo hty he fun x y z hx hy hz => by rw [← tyBits_eq]; exact hg x y z hx hy hz

end Frames

/-! ### Shifts (R117): a distance above 64 does what 64 does -/

theorem div_two_pow_min {x : Nat} (h : x < 2 ^ 64) (y : Nat) : x / 2 ^ min y 64 = x / 2 ^ y := by
  rcases Nat.le_total y 64 with hy | hy
  · rw [Nat.min_eq_left hy]
  · rw [Nat.min_eq_right hy, Nat.div_eq_of_lt h, Nat.div_eq_of_lt (h.trans_le (Nat.pow_le_pow_right (by norm_num) hy))]

theorem int_div_two_pow_min {x : Int} (hlo : -2 ^ 64 ≤ x) (hhi : x < 2 ^ 64) (y : Nat) : x / 2 ^ min y 64 = x / 2 ^ y := by
  rcases Nat.le_total y 64 with hy | hy
  · rw [Nat.min_eq_left hy]
  · have hpow : (2 : Int) ^ 64 ≤ 2 ^ y := pow_le_pow_right₀ (by norm_num) hy
    rw [Nat.min_eq_right hy]
    rcases lt_or_ge x 0 with hx | hx
    · rw [Int.ediv_eq_neg_one_of_neg_of_le hx (by linarith), Int.ediv_eq_neg_one_of_neg_of_le hx (by linarith)]
    · rw [Int.ediv_eq_zero_of_lt hx hhi, Int.ediv_eq_zero_of_lt hx (by linarith)]

theorem toInt_bounds {n : Nat} (hn : n ≤ 64) (x : BitVec n) : -2 ^ 64 ≤ x.toInt ∧ x.toInt < 2 ^ 64 := by
  have hpow : (2 : Int) ^ n ≤ 2 ^ 64 := pow_le_pow_right₀ (by norm_num) hn
  have hlt : (x.toNat : Int) < 2 ^ n := by exact_mod_cast x.isLt
  have hnonneg := Int.natCast_nonneg x.toNat
  rw [BitVec.toInt_eq_toNat_cond]
  push_cast
  split <;> constructor <;> linarith

/-- A product that leaves the range is clamped alike whatever its factor. -/
theorem clamp_scaled {lo hi v M M' : Int} (hlo : -M ≤ lo) (hhi : hi ≤ M) (hM : 0 ≤ M) (hMM' : M ≤ M') :
    max lo (min (v * M) hi) = max lo (min (v * M') hi) := by
  rcases lt_trichotomy v 0 with hv | rfl | hv
  · have hbelow {N : Int} (hN : M ≤ N) : v * N ≤ lo := by nlinarith
    rw [max_eq_left ((min_le_left ..).trans (hbelow le_rfl)), max_eq_left ((min_le_left ..).trans (hbelow hMM'))]
  · simp
  · have habove {N : Int} (hN : M ≤ N) : hi ≤ v * N := by nlinarith
    rw [min_eq_right (habove le_rfl), min_eq_right (habove hMM')]

theorem tyRead_shl_fit (ty : BitVec 4) (sat : Bool) (v : Int) (y : Nat) : tyFit ty sat (v * 2 ^ min y 64) = tyFit ty sat (v * 2 ^ y) := by
  rcases Nat.le_total y 64 with hy | hy
  · rw [Nat.min_eq_left hy]
  · rw [Nat.min_eq_right hy]
    obtain ⟨k, rfl⟩ := Nat.exists_eq_add_of_le hy
    obtain ⟨hn, hn64⟩ := tyBits_le ty
    have hk : (1 : Int) ≤ 2 ^ k := one_le_pow₀ (by norm_num)
    have hpow : (2 : Int) ^ (64 + k) = 2 ^ 64 * 2 ^ k := pow_add ..
    have hdvd : (2 : Int) ^ tyBits ty ∣ 2 ^ 64 := pow_dvd_pow 2 hn64
    have hhi : (2 : Int) ^ tyBits ty ≤ 2 ^ 64 := pow_le_pow_right₀ (by norm_num) hn64
    have hhalf : (2 : Int) ^ (tyBits ty - 1) ≤ 2 ^ tyBits ty := pow_le_pow_right₀ (by norm_num) (by omega)
    have hpos : (1 : Int) ≤ 2 ^ (tyBits ty - 1) := one_le_pow₀ (by norm_num)
    unfold tyFit
    cases sat with
    | false =>
      have hzero (j : Int) : v * (2 ^ 64 * j) % 2 ^ tyBits ty = 0 := Int.emod_eq_zero_of_dvd (Dvd.dvd.mul_left (Dvd.dvd.mul_right hdvd j) v)
      have h1 := hzero 1
      rw [mul_one] at h1
      simp only [Bool.false_eq_true, if_false, hpow, hzero, h1]
    | true =>
      simp only [if_true, hpow]
      rw [clamp_scaled (M := 2 ^ 64) (M' := 2 ^ 64 * 2 ^ k) (by split <;> linarith) (by split <;> linarith) (by norm_num) (by linarith)]

/-! ### Counts and fields (R117, R119) -/

/-- The length of the run at the start of a range. -/
theorem length_takeWhile_range {p : Nat → Bool} {n k : Nat} (hk : k ≤ n) (hrun : ∀ i < k, p i = true) (hend : k < n → p k = false) :
    ((List.range n).takeWhile p).length = k := by
  obtain ⟨m, rfl⟩ := Nat.exists_eq_add_of_le hk
  rw [List.range_add, List.takeWhile_append_of_pos fun i hi => hrun i (List.mem_range.mp hi), List.length_append, List.length_range]
  cases m with
  | zero => simp
  | succ m => simp [List.range_succ_eq_map, hend]

theorem clzNat_eq {n x : Nat} (hx : x < 2 ^ n) : clzNat n x = ((List.range n).takeWhile fun i => !x.testBit (n - 1 - i)).length := by
  unfold clzNat
  split
  · next h =>
    subst h
    exact (length_takeWhile_range le_rfl (by simp) (by omega)).symm
  · next h =>
    have hlog : x.log2 < n := (Nat.log2_lt h).mpr hx
    refine (length_takeWhile_range (by omega) (fun i hi => ?_) fun _ => ?_).symm
    · rw [Bool.not_eq_true', Nat.testBit_lt_two_pow]
      exact Nat.lt_log2_self.trans_le (Nat.pow_le_pow_right (by norm_num) (by omega))
    · rw [Bool.not_eq_false', show n - 1 - (n - 1 - x.log2) = x.log2 by omega]
      exact Nat.testBit_log2 h

theorem popNat_eq (n x : Nat) : popNat n x = ((List.range n).filter fun i => x.testBit i).length := by
  simp only [popNat, bitOf_eq_testBit]

theorem clzNat_lt {n x : Nat} : clzNat n x < 2 ^ n := by
  have := Nat.lt_two_pow_self (n := n)
  unfold clzNat
  split <;> omega

theorem popNat_lt {n x : Nat} : popNat n x < 2 ^ n := by
  refine lt_of_le_of_lt ?_ (Nat.lt_two_pow_self (n := n))
  exact (List.length_filter_le ..).trans_eq (List.length_range ..)

/-- R119: the field at bit `p` of `q` bits is replaced. -/
theorem insertField_eq {z x p q : Nat} (hz : z < 2 ^ 128) (hpq : p + q ≤ 128) :
    insertField z x p q = (z &&& ((2 ^ 128 - 1) ^^^ ((2 ^ q - 1) * 2 ^ p))) ||| (x % 2 ^ q * 2 ^ p) := by
  have hparts : insertField z x p q = 2 ^ p * (2 ^ q * (z / 2 ^ p / 2 ^ q) + x % 2 ^ q) + z % 2 ^ p := by
    have hmid := Nat.div_add_mod (z / 2 ^ p) (2 ^ q)
    have hlow := Nat.div_add_mod z (2 ^ p)
    generalize z / 2 ^ p / 2 ^ q = hi at *
    unfold insertField
    generalize z / 2 ^ p % 2 ^ q = mid at *
    generalize z % 2 ^ p = lo at *
    rw [← hlow, ← hmid]
    have hsplit : 2 ^ p * (2 ^ q * hi + mid) + lo = 2 ^ p * (2 ^ q * hi) + lo + mid * 2 ^ p := by ring
    rw [hsplit, Nat.add_sub_cancel]
    ring
  rw [hparts]
  refine Nat.eq_of_testBit_eq fun j => ?_
  rw [Nat.testBit_two_pow_mul_add _ (Nat.mod_lt _ (by positivity)), Nat.testBit_two_pow_mul_add _ (Nat.mod_lt _ (by positivity))]
  simp only [Nat.testBit_or, Nat.testBit_and, Nat.testBit_xor, Nat.testBit_two_pow_sub_one, Nat.testBit_mul_two_pow, Nat.testBit_mod_two_pow,
    Nat.testBit_div_two_pow]
  by_cases hp : j < p
  · simp [hp, show j < 128 by omega, show ¬ p ≤ j by omega]
  · by_cases hq : j - p < q
    · simp [hp, hq, show j < 128 by omega, show p ≤ j by omega]
    · have hj : j - p - q + q + p = j := by omega
      by_cases h128 : j < 128
      · simp [hp, hq, hj, h128]
      · have hout : z.testBit j = false := Nat.testBit_lt_two_pow (hz.trans_le (Nat.pow_le_pow_right (by norm_num) (by omega)))
        simp [hp, hq, hj, hout]

/-! ### Quotients (R122): the quotient that overflows wraps by itself -/

theorem divInt_fit (ty : BitVec 4) (a b : Int) :
    tyFit ty false (divInt (tySigned ty) (tyBits ty) a b) = tyFit ty false (if b = 0 then (if tySigned ty then -1 else 2 ^ tyBits ty - 1)
      else if tySigned ty ∧ a = -2 ^ (tyBits ty - 1) ∧ b = -1 then -2 ^ (tyBits ty - 1) else a.tdiv b) := by
  obtain ⟨hn, -⟩ := tyBits_le ty
  unfold divInt
  by_cases hb : b = 0
  · rw [if_pos hb, if_pos hb]
  · rw [if_neg hb, if_neg hb]
    split
    · next hover =>
      obtain ⟨-, rfl, rfl⟩ := hover
      have hpow : (2 : Int) ^ tyBits ty = 2 * 2 ^ (tyBits ty - 1) := by rw [← pow_succ', Nat.sub_add_cancel hn]
      unfold tyFit
      simp only [Bool.false_eq_true, if_false, hpow]
      congr 1
      rw [Int.tdiv_neg, Int.tdiv_one, neg_neg, Int.emod_eq_emod_iff_emod_sub_eq_zero]
      exact Int.emod_eq_zero_of_dvd ⟨1, by ring⟩
    · rfl

theorem remInt_eq (sg : Prop) [Decidable sg] (m a b : Int) :
    remInt a b = if b = 0 then a else if sg ∧ a = -m ∧ b = -1 then 0 else a - b * a.tdiv b := by
  unfold remInt
  split
  · rfl
  · split
    · next hover =>
      obtain ⟨-, rfl, rfl⟩ := hover
      simp
    · rfl

theorem sum_map_range_four (g : Nat → Int) : ((List.range 4).map g).sum = g 0 + g 1 + g 2 + g 3 := by
  change g 0 + (g 1 + (g 2 + (g 3 + 0))) = _
  ring

/-! ### The obligation -/

section Settle
variable {s : State} {t w : Nat} {b : Bool} {f : LaneWord} (h : s.onPath t w b) (hgo : s.goesOn t w b) (hty : f.ty ∈ intTys)
include h hgo hty

theorem vshl_runs : LaneElems s t w b f (.vshl f) fun x y _ => tyFit f.ty f.sat (tyRead f.ty x * 2 ^ y) :=
  laneElem_runs h hgo hty (reads := rdAB f) (g := fun a b _ => fit f.ty f.sat (readTy f.ty a * 2 ^ min b 64)) rfl fun x y _ _ _ _ => by
    rw [fit_eq_tyFit, readTy_eq_tyRead, tyRead_shl_fit]

theorem vshr_runs : LaneElems s t w b f (.vshr f) fun x y _ => x / 2 ^ y % 2 ^ tyBits f.ty :=
  laneBits_runs h hgo hty (reads := rdAB f) (g := fun a b _ => a / 2 ^ min b 64) rfl fun x y _ hx _ _ => by
    rw [div_two_pow_min (hx.trans_le (Nat.pow_le_pow_right (by norm_num) (tyBits_le f.ty).2))]

theorem vsar_runs : LaneElems s t w b f (.vsar f) fun x y _ => ((BitVec.ofNat (tyBits f.ty) x).toInt / 2 ^ y % 2 ^ tyBits f.ty).toNat :=
  laneElem_runs h hgo hty (reads := rdAB f) (g := fun a b _ => wrap (sext a (widthTy f.ty) / 2 ^ min b 64) (widthTy f.ty)) rfl fun x y _ _ _ _ => by
    have hlt := toInt_bounds (tyBits_le f.ty).2 (BitVec.ofNat (tyBits f.ty) x)
    rw [← tyBits_eq, sext_eq_toInt, int_div_two_pow_min hlt.1 hlt.2]
    rfl

/-- The count of leading zeros, and of ones, fits any element. -/
theorem vclz_runs : LaneElems s t w b f (.vclz f) fun x _ _ => ((List.range (tyBits f.ty)).takeWhile fun i => !x.testBit (tyBits f.ty - 1 - i)).length :=
  laneBits_runs h hgo hty (reads := rdA f) (g := fun a _ _ => clzNat (widthTy f.ty) a) rfl fun x _ _ hx _ _ => by
    rw [← tyBits_eq, Nat.mod_eq_of_lt clzNat_lt, clzNat_eq hx]

theorem vpopc_runs : LaneElems s t w b f (.vpopc f) fun x _ _ => ((List.range (tyBits f.ty)).filter fun i => x.testBit i).length :=
  laneBits_runs h hgo hty (reads := rdA f) (g := fun a _ _ => popNat (widthTy f.ty) a) rfl fun x _ _ _ _ _ => by
    rw [← tyBits_eq, Nat.mod_eq_of_lt popNat_lt, popNat_eq]

theorem vbfx_runs : LaneElems s t w b f (.vbfx f) fun x y _ =>
    let q := y / 2 ^ 8 % 2 ^ 6
    let v := x / 2 ^ (y % 2 ^ 6) % 2 ^ q
    if tySigned f.ty ∧ q ≠ 0 then ((BitVec.ofNat q v).toInt % 2 ^ tyBits f.ty).toNat else v % 2 ^ tyBits f.ty :=
  laneElem_runs h hgo hty (reads := rdALow f) (g := fun a b _ =>
    let q := bits b 13 8
    let x := a / 2 ^ bits b 5 0 % 2 ^ q
    if signedTy f.ty && q != 0 then wrap (sext x q) (widthTy f.ty) else x % 2 ^ widthTy f.ty) rfl fun x y _ _ _ _ => by
    dsimp only
    rw [bits_low, ← tyBits_eq, ← tySigned_eq, sext_eq_toInt]
    simp only [bits, wrap, Bool.and_eq_true, bne_iff_ne]

theorem vbfi_runs : LaneElems s t w b f (.vbfi f) fun x y z =>
    let p := y % 2 ^ 6
    let q := y / 2 ^ 8 % 2 ^ 6
    ((z &&& ((2 ^ 128 - 1) ^^^ ((2 ^ q - 1) * 2 ^ p))) ||| (x % 2 ^ q * 2 ^ p)) % 2 ^ tyBits f.ty :=
  laneBits_runs h hgo hty (reads := rdALow f ++ regsC f (Lane.wide f.ty)) (g := fun a b c => insertField c a (bits b 5 0) (bits b 13 8)) rfl
    fun x y z _ _ hz => by
    have hp : y % 2 ^ 6 < 64 := Nat.mod_lt _ (by norm_num)
    have hq : bits y 13 8 < 64 := Nat.mod_lt _ (by norm_num)
    have hz128 : z < 2 ^ 128 := hz.trans_le (Nat.pow_le_pow_right (by norm_num) ((tyBits_le f.ty).2.trans (by norm_num)))
    dsimp only
    rw [bits_low]
    exact congrArg (· % 2 ^ tyBits f.ty) (insertField_eq hz128 (by omega))

theorem vdiv_runs (hsat : f.sat = false) : LaneElems s t w b f (.vdiv f) fun x y _ => tyFit f.ty f.sat
    (if tyRead f.ty y = 0 then (if tySigned f.ty then -1 else 2 ^ tyBits f.ty - 1)
      else if tySigned f.ty ∧ tyRead f.ty x = -2 ^ (tyBits f.ty - 1) ∧ tyRead f.ty y = -1 then -2 ^ (tyBits f.ty - 1)
      else (tyRead f.ty x).tdiv (tyRead f.ty y)) := by
  have hruns := laneInt_runs h hgo hty (i := .vdiv f) (reads := rdAB f) (g := fun a b _ => divInt (signedTy f.ty) (widthTy f.ty) a b) rfl
  rw [hsat, ← tyBits_eq, ← tySigned_eq] at hruns
  simp only [divInt_fit] at hruns
  rw [hsat]
  exact hruns

theorem vrem_runs : LaneElems s t w b f (.vrem f) fun x y _ => tyFit f.ty f.sat
    (if tyRead f.ty y = 0 then tyRead f.ty x
      else if tySigned f.ty ∧ tyRead f.ty x = -2 ^ (tyBits f.ty - 1) ∧ tyRead f.ty y = -1 then 0
      else tyRead f.ty x - tyRead f.ty y * (tyRead f.ty x).tdiv (tyRead f.ty y)) := by
  have hruns := laneInt_runs h hgo hty (i := .vrem f) (reads := rdAB f) (g := fun a b _ => remInt a b) rfl
  simp only [remInt_eq (tySigned f.ty = true) (2 ^ (tyBits f.ty - 1))] at hruns
  exact hruns

theorem vsad_runs : LaneElems s t w b f (.vsad f) fun x y z => tyFit f.ty f.sat (tyRead f.ty z +
    (|((byteOf x 0 : Nat) : Int) - byteOf y 0| + |((byteOf x 1 : Nat) : Int) - byteOf y 1| + |((byteOf x 2 : Nat) : Int) - byteOf y 2| +
      |((byteOf x 3 : Nat) : Int) - byteOf y 3|)) :=
  laneElem_runs h hgo hty (reads := rdABC f) (g := fun a b c => fit f.ty f.sat (readTy f.ty c +
    ((List.range 4).map fun j => |((byteOf a j : Nat) : Int) - (byteOf b j : Nat)|).sum)) rfl fun x y z _ _ _ => by
    rw [fit_eq_tyFit, readTy_eq_tyRead, sum_map_range_four]

theorem vdot4_runs : LaneElems s t w b f (.vdot4 f) fun x y z =>
    let e (v : Nat) : Int := if tySigned f.ty then (BitVec.ofNat 8 v).toInt else v
    tyFit f.ty f.sat (tyRead f.ty z + (e (byteOf x 0) * e (byteOf y 0) + e (byteOf x 1) * e (byteOf y 1) + e (byteOf x 2) * e (byteOf y 2) +
      e (byteOf x 3) * e (byteOf y 3))) :=
  laneElem_runs h hgo hty (reads := rdABC f) (g := fun a b c =>
    let g (x j : Nat) : Int := if signedTy f.ty then sext (byteOf x j) 8 else (byteOf x j : Nat)
    fit f.ty f.sat (readTy f.ty c + ((List.range 4).map fun j => g a j * g b j).sum)) rfl fun x y z _ _ _ => by
    dsimp only
    rw [fit_eq_tyFit, readTy_eq_tyRead, sum_map_range_four, ← tySigned_eq]
    simp only [sext_eq_toInt]

end Settle

/-- Settles O29: the frame of element-wise instructions runs each (`laneElem_runs`); what is left is arithmetic on elements of the type's width. -/
theorem laneIntegerResults : Obligations.LaneIntegerResults := by
  intro s t w b h hgo f hty W wide n R bitsOf fits low bytes sum
  have hfits {i : Instr} {reads : List Nat} (g : Int → Int → Int → Int) (he : exec i s = laneInt f reads g s) : fits i fun x y z => g (R x) (R y) (R z) :=
    laneInt_runs h hgo hty he
  have hbits {i : Instr} {reads : List Nat} (g : Nat → Nat → Nat → Nat) (he : exec i s = laneBits f reads g s) : bitsOf i fun x y z => low (g x y z) :=
    laneBits_runs h hgo hty he fun _ _ _ _ _ _ => rfl
  refine ⟨hfits (reads := rdAB f) (fun a b _ => a + b) rfl, hfits (reads := rdAB f) (fun a b _ => a - b) rfl,
    hfits (reads := rdAB f) (fun a b _ => a * b) rfl, ?_,
    hfits (reads := rdABC f) (fun a b c => a * b + c) rfl, hbits (reads := rdAB f) (fun a b _ => a &&& b) rfl,
    hbits (reads := rdAB f) (fun a b _ => a ||| b) rfl, hbits (reads := rdAB f) (fun a b _ => a ^^^ b) rfl,
    vshl_runs h hgo hty, vshr_runs h hgo hty, vsar_runs h hgo hty,
    hfits (reads := rdAB f) (fun a b _ => min a b) rfl, hfits (reads := rdAB f) (fun a b _ => max a b) rfl, hfits (reads := rdA f) (fun a _ _ => |a|) rfl,
    fun _ => ⟨vclz_runs h hgo hty, vpopc_runs h hgo hty, vbfx_runs h hgo hty, vbfi_runs h hgo hty,
      fun hsat => ⟨vdiv_runs h hgo hty hsat, vrem_runs h hgo hty⟩⟩,
    fun _ => vsad_runs h hgo hty, fun h01 => ?_⟩
  · have hmulh := hfits (i := .vmulh f) (reads := rdAB f) (fun a b _ => a * b / 2 ^ widthTy f.ty) rfl
    rw [← tyBits_eq] at hmulh
    exact hmulh
  · have hsigned : tySigned f.ty = true ↔ f.ty = 0 := by rcases h01 with h01 | h01 <;> rw [h01] <;> decide
    have hdot := vdot4_runs h hgo hty
    simp only [hsigned] at hdot
    exact hdot

end Sys2Proof.Machine

/-! PROOFS. Lane accesses of the scratchpad (R60, R201, R204, R213). -/

namespace Sys2Proof.Machine

/-! ### Sizes and data -/

theorem sizeOf_eq_sizeBytes : ∀ k < 7, sizeOf' k = sizeBytes k := by decide

theorem loadRegs_eq_loaded (k vd v : Nat) : loadRegs k vd v = loaded k vd v := by
  have hsext (n : Nat) : BitVec.ofInt 32 (sext v n) = (BitVec.ofNat n v).signExtend 32 := by rw [sext_eq_toInt]; rfl
  unfold loadRegs loaded
  split
  · rw [if_pos rfl, hsext]
  · rw [if_neg (by decide), if_pos rfl, hsext]
  · rw [if_neg (by decide), if_neg (by decide), if_pos rfl]
  · rw [if_neg (by decide), if_neg (by decide), if_neg (by decide), if_pos rfl]
  · next h0 h2 h5 h6 => rw [if_neg h0, if_neg h2, if_neg h5, if_neg h6]

theorem getElem?_bytesLE (n x i : Nat) : (bytesLE n x)[i]? = if i < n then some (BitVec.ofNat 8 (x / 2 ^ (8 * i))) else none := by
  induction n generalizing x i with
  | zero => simp [bytesLE]
  | succ n ih =>
    cases i with
    | zero => simp [bytesLE]
    | succ i =>
      rw [bytesLE, List.getElem?_cons_succ, ih, Nat.div_div_eq_div_mul, Nat.mul_succ, Nat.pow_add, Nat.mul_comm (2 ^ (8 * i))]
      simp

theorem length_bytesLE (n x : Nat) : (bytesLE n x).length = n := by
  induction n generalizing x with
  | zero => rfl
  | succ n ih => rw [bytesLE, List.length_cons, ih]

theorem bytesLE_add (m n x : Nat) : bytesLE (m + n) x = bytesLE m x ++ bytesLE n (x / 256 ^ m) := by
  induction m generalizing x with
  | zero => simp [bytesLE]
  | succ m ih =>
    rw [Nat.succ_add, bytesLE, bytesLE, ih, List.cons_append, Nat.div_div_eq_div_mul, Nat.pow_succ']

theorem bytesLE_add_mul (n x y : Nat) : bytesLE n (x + 256 ^ n * y) = bytesLE n x := by
  induction n generalizing x with
  | zero => rfl
  | succ n ih =>
    have hdiv : (x + 256 ^ (n + 1) * y) / 256 = x / 256 + 256 ^ n * y := by
      rw [Nat.pow_succ', Nat.mul_assoc, Nat.add_mul_div_left _ _ (by norm_num)]
    have hlow : BitVec.ofNat 8 (x + 256 ^ (n + 1) * y) = BitVec.ofNat 8 x := by
      refine BitVec.eq_of_toNat_eq ?_
      rw [BitVec.toNat_ofNat, BitVec.toNat_ofNat, Nat.pow_succ', Nat.mul_assoc]
      exact Nat.add_mul_mod_self_left ..
    rw [bytesLE, bytesLE, hdiv, hlow, ih]

/-- Four bytes of a value whose low word is given, and those of the rest. -/
theorem bytesLE_word (n : Nat) (x : Half) (y : Nat) : bytesLE (4 + n) (x.toNat + 2 ^ 32 * y) = bytesLE 4 x.toNat ++ bytesLE n y := by
  have hhigh : (x.toNat + 2 ^ 32 * y) / 256 ^ 4 = y := by have := x.isLt; omega
  rw [bytesLE_add, hhigh, show (2 : Nat) ^ 32 = 256 ^ 4 by norm_num, bytesLE_add_mul]

/-- The bytes that a lane stores are those of its data (R201). -/
theorem storeBytes_eq {k : Nat} (hk : k < 7) (W : Warp) (vd l : Nat) : W.storeBytes vd (sizeBytes k) l = bytesLE (sizeBytes k) (storeData W vd l) := by
  have hdata : storeData W vd l = (W.vw vd l).toNat + 2 ^ 32 * ((W.vw (vd + 1) l).toNat + 2 ^ 32 * ((W.vw (vd + 2) l).toNat +
      2 ^ 32 * ((W.vw (vd + 3) l).toNat + 2 ^ 32 * 0))) := by unfold storeData; ring
  have hsmall {n : Nat} (hn : n ≤ 4) : W.storeBytes vd n l = bytesLE n (storeData W vd l) := by
    have hpow : (2 : Nat) ^ 32 = 256 ^ n * 256 ^ (4 - n) := by rw [← Nat.pow_add, Nat.add_sub_cancel' hn]; norm_num
    unfold Warp.storeBytes
    rw [if_pos hn, hdata, hpow, Nat.mul_assoc (256 ^ n), bytesLE_add_mul]
  have hcases : sizeBytes k ≤ 4 ∨ sizeBytes k = 8 ∨ sizeBytes k = 16 := by revert k; decide
  rcases hcases with hn | hn | hn
  · exact hsmall hn
  · rw [hn, hdata, bytesLE_word 4, bytesLE_word 0]
    rfl
  · rw [hn, hdata, bytesLE_word 12, bytesLE_word 8, bytesLE_word 4, bytesLE_word 0]
    rfl

/-! ### Reads and writes of a scratchpad without errors and without matrix operations -/

section Scratchpad
variable {s : State} {t : Nat}

theorem Team.races_of_mOps_nil {T : Team} (h : T.mOps = []) (sp : Bool) (d a n : Nat) (write : Bool) : T.races sp d a n write = [] := by
  unfold Team.races
  rw [h]
  rfl

theorem Team.spPoison_of_spBad_nil {T : Team} (h : T.spBad = []) (off n : Nat) : T.spPoison off n = false := by
  unfold Team.spPoison
  rw [h]
  rfl

theorem spRead_quiet (hbad : (s.team t).spBad = []) (hops : (s.team t).mOps = []) (off n : Nat) : s.spRead t off n = (some (s.spValue t off n), s) := by
  have hpoison := Team.spPoison_of_spBad_nil hbad off n
  unfold State.spRead State.spGet
  rw [Team.races_of_mOps_nil hops, hpoison, natLE_rdBytes]
  rfl

/-- Nothing but the contents of the team's scratchpad, and the older ones kept for the matrix engine, differs. -/
def SpWritten (s s1 : State) (t : Nat) : Prop := s1 = s.modTeam t fun T => { T with sp := (s1.team t).sp, spOld := (s1.team t).spOld }

theorem SpWritten.refl (s : State) (t : Nat) : SpWritten s s t := by
  unfold SpWritten
  rw [State.modTeam_congr s t _ (fun T => T) rfl, State.modTeam_eq_self _ _ _ fun _ => rfl]

theorem SpWritten.warp_eq {s1 : State} (h : SpWritten s s1 t) (u v : Nat) : s1.warp u v = s.warp u v := by
  rw [h]
  exact warp_modTeam_of_warps fun _ => rfl

theorem SpWritten.team_eq {s1 : State} (h : SpWritten s s1 t) (ht : (s.teams.find t).isSome) :
    s1.team t = { s.team t with sp := (s1.team t).sp, spOld := (s1.team t).spOld } := by
  conv_lhs => rw [h]
  rw [State.team_modTeam _ _ _ _ ht, if_pos rfl]

/-- A store to the scratchpad of a team without errors and matrix operations (R175). -/
theorem spWrite_quiet (hbad : (s.team t).spBad = []) (hops : (s.team t).mOps = []) (off : Nat) (bs : List Byte) :
    ∃ old, s.spWrite t off bs = s.modTeam t fun T => { T with sp := wrBytes T.sp off bs, spOld := old } := by
  refine ⟨keepSp (s.team t).spOld (s.team t).sp off bs.length, ?_⟩
  have hraces : ((s.team t).races true 0 off bs.length true).isEmpty = true := by rw [Team.races_of_mOps_nil hops]; rfl
  unfold State.spWrite
  refine (if_pos hraces).trans ((State.modTeam_modTeam ..).trans (State.modTeam_congr _ _ _ _ ?_))
  simp only [hbad, List.filter_nil]

theorem spByte_wrBytes {T : Team} (hT : s.team t = T) {off : Nat} {bs : List Byte} {m : List Host.Cell} (hsp : T.sp = wrBytes m off bs) (y : Nat) :
    s.spByte t y = if off ≤ y ∧ y < off + bs.length then bs[y - off]?.getD 0 else Map.get m y 0 := by
  unfold State.spByte
  rw [hT, hsp]
  split
  · next hin =>
    have hlt : y - off < bs.length := by omega
    rw [List.getElem?_eq_getElem hlt, Option.getD_some, ← get_wrBytes_in bs m off (y - off) hlt, Nat.add_sub_cancel' hin.1]
  · next hout => exact get_wrBytes_out _ _ _ _ (by omega)

/-- A store: its bytes, and every other byte as before. -/
theorem SpWritten.spWrite {s1 : State} (h : SpWritten s s1 t) (ht : (s.teams.find t).isSome) (hbad : (s.team t).spBad = []) (hops : (s.team t).mOps = [])
    (off : Nat) (bs : List Byte) : SpWritten s (s1.spWrite t off bs) t ∧
      ∀ y, (s1.spWrite t off bs).spByte t y = if off ≤ y ∧ y < off + bs.length then bs[y - off]?.getD 0 else s1.spByte t y := by
  have hteam := h.team_eq ht
  have hbad1 : (s1.team t).spBad = [] := by rw [hteam]; exact hbad
  have hops1 : (s1.team t).mOps = [] := by rw [hteam]; exact hops
  obtain ⟨old, hwrite⟩ := spWrite_quiet hbad1 hops1 off bs
  have ht1 : (s1.teams.find t).isSome := by rw [h, hasTeam_modTeam]; exact ht
  have hteam1 : (s1.spWrite t off bs).team t = { s1.team t with sp := wrBytes (s1.team t).sp off bs, spOld := old } := by
    rw [hwrite, State.team_modTeam _ _ _ _ ht1, if_pos rfl]
  refine ⟨?_, fun y => spByte_wrBytes hteam1 rfl y⟩
  unfold SpWritten
  rw [hteam1, hwrite]
  conv_lhs => rw [h]
  refine (State.modTeam_modTeam ..).trans (State.modTeam_congr _ _ _ _ ?_)
  rfl

/-- Byte `y` of a scratchpad after the stores of some lanes, in their order: that of the last lane whose access covers it (R201). -/
def State.spAfter (s : State) (t : Nat) (x : Nat → Nat) (n : Nat) (data : Nat → Nat) (ls : List Nat) (y : Nat) : Byte :=
  match ls.reverse.find? fun l => decide (x l ≤ y) && decide (y < x l + n) with
  | some l => BitVec.ofNat 8 (data l / 2 ^ (8 * (y - x l)))
  | none => s.spByte t y

theorem State.spAfter_concat (s : State) (t : Nat) (x : Nat → Nat) (n : Nat) (data : Nat → Nat) (ls : List Nat) (l y : Nat) :
    s.spAfter t x n data (ls ++ [l]) y =
      if x l ≤ y ∧ y < x l + n then BitVec.ofNat 8 (data l / 2 ^ (8 * (y - x l))) else s.spAfter t x n data ls y := by
  unfold State.spAfter
  rw [List.reverse_append, List.reverse_singleton, List.singleton_append, List.find?_cons]
  by_cases hin : x l ≤ y ∧ y < x l + n
  · simp [hin]
  · have hout : (decide (x l ≤ y) && decide (y < x l + n)) = false := by simpa using hin
    rw [hout, if_neg hin]

/-- The stores of lanes, in their order. -/
theorem foldl_spWrite (ht : (s.teams.find t).isSome) (hbad : (s.team t).spBad = []) (hops : (s.team t).mOps = []) (x : Nat → Nat) (n : Nat)
    (data : Nat → Nat) (ls : List Nat) :
    SpWritten s (ls.foldl (fun s l => s.spWrite t (x l) (bytesLE n (data l))) s) t ∧
      ∀ y, (ls.foldl (fun s l => s.spWrite t (x l) (bytesLE n (data l))) s).spByte t y = s.spAfter t x n data ls y := by
  induction ls using List.reverseRecOn with
  | nil => exact ⟨.refl s t, fun _ => rfl⟩
  | append_singleton ls l ih =>
    obtain ⟨honly, hbytes⟩ := ih
    rw [List.foldl_append, List.foldl_cons, List.foldl_nil]
    obtain ⟨honly', hbytes'⟩ := honly.spWrite ht hbad hops (x l) (bytesLE n (data l))
    refine ⟨honly', fun y => ?_⟩
    rw [hbytes', length_bytesLE, State.spAfter_concat, hbytes]
    split
    · rw [getElem?_bytesLE, if_pos (by omega), Option.getD_some]
    · rfl

end Scratchpad

/-! ### The frame of scratchpad accesses -/

/-- The access passes the checks of the scratchpad (R183). -/
def Team.spGood (T : Team) (n x : Nat) : Bool := x % n == 0 && decide (x + n ≤ T.spad)

/-- The failure of a lane's access that does not. -/
def spFail (x : Nat → Nat) (n l : Nat) : Fail := { lane := l, code := if x l % n ≠ 0 then 0x500 else 0x203, addr := x l }

theorem spCheck_eq (T : Team) (x n : Nat) : T.spCheck x n = if T.spGood n x then none else some (if x % n ≠ 0 then 0x500 else 0x203) := by
  unfold Team.spCheck Team.spGood
  by_cases halign : x % n = 0
  · by_cases hin : x + n ≤ T.spad
    · simp [halign, hin]
    · simp [halign, hin, cSPAD]
  · simp [halign, cALIGN]

/-- The lanes that failed park, and the path goes on when an entry was found for each (R158, R204). -/
def State.parkedEnd (s : State) (t w : Nat) (b : Bool) (fs : List Fail) : State :=
  if (s.park t w b fs).2 then ((s.park t w b fs).1.nextIdx t w b).settle t else (s.park t w b fs).1

theorem parkedEnd_nil (s : State) (t w : Nat) (b : Bool) : s.parkedEnd t w b [] = (s.nextIdx t w b).settle t := rfl

theorem filterMap_spCheck (T : Team) (n : Nat) (x : Nat → Nat) (ls : List Nat) :
    (ls.map fun l => (l, x l)).filterMap (fun (l, a) => (T.spCheck a n).map fun c => (⟨l, c, a, false⟩ : Fail)) =
      (ls.filter fun l => !T.spGood n (x l)).map (spFail x n) := by
  induction ls with
  | nil => rfl
  | cons l ls ih =>
    rw [List.map_cons, List.filterMap_cons, List.filter_cons, ih]
    dsimp only
    rw [spCheck_eq]
    cases T.spGood n (x l) <;> rfl

theorem accessEnd_zero (s : State) (t w : Nat) (b : Bool) (fs : List Fail) : s.accessEnd t w b fs 0 = s.parkedEnd t w b fs := rfl

/-- R213: what waits is a store's release. -/
theorem releases_iff (f : LaneWord) (k : Acc) : releases f k = true ↔ k ≠ .read ∧ f.nb = true := by
  unfold releases Lane.order
  cases f.nb <;> cases f.abs <;> simp

theorem unperformed_iff (s : State) (t w : Nat) (b : Bool) (f : LaneWord) :
    s.unperformed t w (s.eff t w b f) = true ↔ ∃ l ∈ s.acting t w b f, s.writesBefore (.lane t w l) ≠ [] := by
  unfold State.unperformed
  rw [lanesOf_eff]
  simp

section Frame
variable {s : State} {t w : Nat} {b : Bool} (h : s.onPath t w b) (f : LaneWord)
include h

/-- The frame of a scratchpad access on a path that reads no uncorrectable word: a release waits, else the lanes that pass act in ascending order and
the others park. -/
theorem laneScratch_onPath (reads : List Nat) (n : Nat) (k : Acc) (act : Nat → Nat → Bool → Nat → Nat → State → State) :
    laneScratch f reads n k act s =
      if releases f k && s.unperformed t w (s.eff t w b f) then .next s
      else .next ((((s.acting t w b f).filter fun l => (s.team t).spGood n ((s.warp t w).saddr f l)).foldl
        (fun s' l => act t w b l ((s.warp t w).saddr f l) s') s).parkedEnd t w b
        (((s.acting t w b f).filter fun l => !(s.team t).spGood n ((s.warp t w).saddr f l)).map (spFail ((s.warp t w).saddr f) n))) := by
  have hisNone (x : Nat) : ((s.team t).spCheck x n).isNone = (s.team t).spGood n x := by
    rw [spCheck_eq]
    cases (s.team t).spGood n x <;> rfl
  unfold laneScratch
  rw [lane_onPath _ h]
  simp only [Warp.badLanes_nil _ _ _ h.2.2.2, and_not_zero, lanesOf_eff, filterMap_spCheck, List.foldl_map, hisNone, accessEnd_zero, ← List.foldl_filter, stay]

theorem laneScratch_runs (reads : List Nat) (n : Nat) (k : Acc) (act : Nat → Nat → Bool → Nat → Nat → State → State)
    (hgo : k = .read ∨ ¬ releaseWaits s t w b f) : laneScratch f reads n k act s =
      .next ((((s.acting t w b f).filter fun l => (s.team t).spGood n ((s.warp t w).saddr f l)).foldl
        (fun s' l => act t w b l ((s.warp t w).saddr f l) s') s).parkedEnd t w b
        (((s.acting t w b f).filter fun l => !(s.team t).spGood n ((s.warp t w).saddr f l)).map (spFail ((s.warp t w).saddr f) n))) := by
  refine (laneScratch_onPath h f reads n k act).trans (if_neg ?_)
  rw [Bool.and_eq_true, releases_iff, unperformed_iff]
  rintro ⟨⟨hread, hrel⟩, hlate⟩
  rcases hgo with hk | hlate'
  · exact hread hk
  · exact hlate' ⟨hrel, hlate⟩

theorem laneScratch_waits (reads : List Nat) (n : Nat) (act : Nat → Nat → Bool → Nat → Nat → State → State) (hwait : releaseWaits s t w b f) :
    laneScratch f reads n .write act s = .next s := by
  refine (laneScratch_onPath h f reads n .write act).trans (if_pos ?_)
  rw [Bool.and_eq_true, releases_iff, unperformed_iff]
  exact ⟨⟨by decide, hwait.1⟩, hwait.2⟩

end Frame

/-! ### Loads -/

section Loads
variable {s : State} {t w : Nat} {b : Bool}

theorem State.modPath_eq_self (s : State) (t w : Nat) (b : Bool) {g : Path → Path} (hg : ∀ P, g P = P) : s.modPath t w b g = s := by
  have hid : g = id := funext hg
  have hpath (W : Warp) : W.setPath b ((W.path b).map g) = W := by rw [hid, Option.map_id]; cases b <;> rfl
  unfold State.modPath State.modWarp
  refine State.modTeam_eq_self _ _ _ fun T => ?_
  unfold Team.modWarp
  rw [Map.mod_eq_self _ _ _ hpath]

theorem State.modPath_modPath (s : State) (t w : Nat) (b : Bool) (g k : Path → Path) : (s.modPath t w b g).modPath t w b k = s.modPath t w b fun P => k (g P) := by
  refine (State.modWarp_modWarp ..).trans (State.modWarp_congr _ _ _ _ _ ?_)
  cases b <;> simp [Warp.path, Warp.setPath, Function.comp_def]

/-- The path with these loads on its scoreboard. -/
def Path.boards (xs : List Load) (P : Path) : Path := { P with board := P.board ++ xs }

theorem team_modPath (s : State) (t w : Nat) (b : Bool) (g : Path → Path) (u : Nat) :
    ((s.modPath t w b g).team u).sp = (s.team u).sp ∧ ((s.modPath t w b g).team u).spBad = (s.team u).spBad ∧
      ((s.modPath t w b g).team u).mOps = (s.team u).mOps := by
  unfold State.modPath State.modWarp State.team Map.get
  rw [State.find_modTeam]
  split
  · cases s.teams.find u <;> exact ⟨rfl, rfl, rfl⟩
  · exact ⟨rfl, rfl, rfl⟩

theorem spValue_modPath (s : State) (t w : Nat) (b : Bool) (g : Path → Path) (u a n : Nat) : (s.modPath t w b g).spValue u a n = s.spValue u a n := by
  unfold State.spValue State.spByte
  rw [(team_modPath s t w b g u).1]

/-- A lane's load from the scratchpad goes to the scoreboard (R201). -/
def State.spLoad (s : State) (t w : Nat) (b : Bool) (k vd l x : Nat) : State :=
  match s.spRead t x (sizeOf' k) with
  | (some v, s) => s.board t w b { lane := l, regs := loadRegs k vd v }
  | (none, s) => s.laneDeath t w (maskOf [l]) 1

theorem spLoad_quiet (hbad : (s.team t).spBad = []) (hops : (s.team t).mOps = []) (k vd l x : Nat) :
    s.spLoad t w b k vd l x = s.modPath t w b (Path.boards [{ lane := l, regs := loaded k vd (s.spValue t x (sizeOf' k)) }]) := by
  unfold State.spLoad
  rw [spRead_quiet hbad hops, ← loadRegs_eq_loaded]
  rfl

/-- The loads of lanes go to the scoreboard in their order. -/
theorem foldl_spLoad (hbad : (s.team t).spBad = []) (hops : (s.team t).mOps = []) (x : Nat → Nat) (k vd : Nat) (ls : List Nat) :
    ls.foldl (fun s l => s.spLoad t w b k vd l (x l)) s =
    s.modPath t w b (Path.boards (ls.map fun l => { lane := l, regs := loaded k vd (s.spValue t (x l) (sizeOf' k)) })) := by
  induction ls using List.reverseRecOn with
  | nil => exact (State.modPath_eq_self _ _ _ _ fun P => by simp [Path.boards]).symm
  | append_singleton ls l ih =>
    rw [List.foldl_append, List.foldl_cons, List.foldl_nil, ih, List.map_append]
    generalize (ls.map fun l => ({ lane := l, regs := loaded k vd (s.spValue t (x l) (sizeOf' k)) } : Load)) = xs
    obtain ⟨-, hbad1, hops1⟩ := team_modPath s t w b (Path.boards xs) t
    rw [spLoad_quiet (hbad1.trans hbad) (hops1.trans hops), spValue_modPath, State.modPath_modPath]
    exact congrArg (s.modPath t w b) (funext fun P => by simp [Path.boards])

/-- The next index of a path that has put loads on its scoreboard. -/
theorem boards_nextIdx (h : s.onPath t w b) (hgo : s.goesOn t w b) (xs : List Load) :
    ((s.modPath t w b (Path.boards xs)).nextIdx t w b).settle t = loadsWait s t w b xs := by
  obtain ⟨-, hlive, hpath, -⟩ := h
  have hboards : ((s.warp t w).setPath b (((s.warp t w).path b).map (Path.boards xs))).path b = some (Path.boards xs (s.path t w b)) := by
    rw [Warp.path_setPath, State.path_eq hpath]
    rfl
  have hnext := modWarp_nextIdx' (State.hasWarp_of_live hlive) (fun W => W.setPath b ((W.path b).map (Path.boards xs))) _ hboards hgo
  unfold State.modPath loadsWait
  rw [hnext]
  simp only [Warp.setPath_setPath]
  rfl

end Loads

/-! ### Stores -/

section Stores
variable {s : State} {t w : Nat} {b : Bool}

/-- The stores of lanes are of the data that the warp holds before the instruction. -/
theorem foldl_storeBytes (ht : (s.teams.find t).isSome) (hbad : (s.team t).spBad = []) (hops : (s.team t).mOps = []) (x : Nat → Nat) {k : Nat} (hk : k < 7)
    (vd : Nat) (ls : List Nat) : ls.foldl (fun s l => s.spWrite t (x l) ((s.warp t w).storeBytes vd (sizeBytes k) l)) s =
      ls.foldl (fun s' l => s'.spWrite t (x l) (bytesLE (sizeBytes k) (storeData (s.warp t w) vd l))) s := by
  induction ls using List.reverseRecOn with
  | nil => rfl
  | append_singleton ls l ih =>
    rw [List.foldl_append, List.foldl_append, ih, List.foldl_cons, List.foldl_nil, List.foldl_cons, List.foldl_nil,
      (foldl_spWrite ht hbad hops x (sizeBytes k) (storeData (s.warp t w) vd) ls).1.warp_eq, storeBytes_eq hk]

theorem Team.barriersDone_sp (T : Team) : T.barriersDone.sp = T.sp ∧ T.barriersDone.spOld = T.spOld := by
  unfold Team.barriersDone
  generalize T.barriers = l
  induction l generalizing T with
  | nil => exact ⟨rfl, rfl⟩
  | cons y l ih =>
    rw [List.foldl_cons]
    refine ⟨(ih _).1.trans ?_, (ih _).2.trans ?_⟩ <;>
    · dsimp only
      split <;> rfl

/-- The end of a cycle, and a change of a warp, leave the scratchpad. -/
theorem sp_modWarp_settle (ht : (s.teams.find t).isSome) (f : Warp → Warp) :
    (((s.modWarp t w f).settle t).team t).sp = (s.team t).sp ∧ (((s.modWarp t w f).settle t).team t).spOld = (s.team t).spOld := by
  unfold State.settle
  rw [State.modWarp, State.modTeam_modTeam, State.team_modTeam _ _ _ _ ht, if_pos rfl]
  exact ⟨(Team.barriersDone_sp _).1, (Team.barriersDone_sp _).2⟩

/-- The path goes on after the stores of its lanes. -/
theorem stores_nextIdx (h : s.onPath t w b) (hgo : s.goesOn t w b) (ht : (s.teams.find t).isSome) {s1 s' : State} (h1 : SpWritten s s1 t)
    (hs' : s' = (s1.nextIdx t w b).settle t) :
    s' = ((s.modTeam t fun T => { T with sp := (s'.team t).sp, spOld := (s'.team t).spOld }).modWarp t w fun W =>
      W.setPath b (some ((s.path t w b).stepped s.now))).settle t ∧ ∀ y, s'.spByte t y = s1.spByte t y := by
  have hpath1 : s1.path t w b = s.path t w b := by unfold State.path; rw [h1.warp_eq]
  have hnow : s1.now = s.now := by rw [h1]; rfl
  have hnext : s1.nextIdx t w b = s1.modWarp t w fun W => W.setPath b (some ((s.path t w b).stepped s.now)) := by
    rw [nextIdx_goes (by rw [h1.warp_eq]; exact h.2.2.1) (by unfold State.goesOn; rw [hpath1]; exact hgo), hpath1, hnow]
  have ht1 : (s1.teams.find t).isSome := by rw [h1, hasTeam_modTeam]; exact ht
  rw [hnext] at hs'
  obtain ⟨hsp, hold⟩ := sp_modWarp_settle (w := w) ht1 fun W => W.setPath b (some ((s.path t w b).stepped s.now))
  rw [← hs'] at hsp hold
  refine ⟨?_, fun y => by unfold State.spByte; rw [hsp]⟩
  rw [hsp, hold, ← h1]
  exact hs'

end Stores

/-! ### The obligation -/

section Settle
variable {s : State} {t w : Nat} {b : Bool} (h : s.onPath t w b) (f : LaneWord)

/-- The team of a path that runs stands in the state. -/
theorem State.onPath.hasTeam (h : s.onPath t w b) : (s.teams.find t).isSome := by
  obtain ⟨-, hlive, -⟩ := h
  exact (Bool.and_eq_true_iff.mp (State.hasWarp_of_live hlive)).1

/-- Lanes with effect whose access of size code `k` passes the checks, and those whose access fails (R183). -/
def State.spOks (s : State) (t w : Nat) (b : Bool) (f : LaneWord) (n : Nat) : List Nat :=
  (s.acting t w b f).filter fun l => (s.team t).spGood n ((s.warp t w).saddr f l)
def State.spFails (s : State) (t w : Nat) (b : Bool) (f : LaneWord) (n : Nat) : List Fail :=
  ((s.acting t w b f).filter fun l => !(s.team t).spGood n ((s.warp t w).saddr f l)).map (spFail ((s.warp t w).saddr f) n)

/-- The stores of the lanes that pass. -/
def State.spStores (s : State) (t w : Nat) (b : Bool) (f : LaneWord) (n : Nat) : State :=
  (s.spOks t w b f n).foldl (fun s' l => s'.spWrite t ((s.warp t w).saddr f l) (bytesLE n (storeData (s.warp t w) f.vd.toNat l))) s

theorem spOks_of_all {n : Nat} (hall : ∀ l ∈ s.acting t w b f, (s.team t).spGood n ((s.warp t w).saddr f l) = true) :
    s.spOks t w b f n = s.acting t w b f ∧ s.spFails t w b f n = [] := by
  refine ⟨List.filter_eq_self.mpr hall, ?_⟩
  unfold State.spFails
  rw [List.filter_eq_nil_iff.mpr fun l hl => by simp [hall l hl]]
  rfl

theorem spOks_of_none {n : Nat} (hnone : ∀ l ∈ s.acting t w b f, (s.team t).spGood n ((s.warp t w).saddr f l) = false) :
    s.spOks t w b f n = [] ∧ s.spFails t w b f n = (s.acting t w b f).map (spFail ((s.warp t w).saddr f) n) := by
  refine ⟨List.filter_eq_nil_iff.mpr fun l hl => by simp [hnone l hl], ?_⟩
  unfold State.spFails
  rw [List.filter_eq_self.mpr fun l hl => by simp [hnone l hl]]

theorem exec_vldp (f : LaneWord) (s : State) : exec (.vldp f) s =
    laneScratch f [f.va.toNat] (sizeOf' (bits f.sub.toNat 2 0)) .read (fun t w b l x s => s.spLoad t w b (bits f.sub.toNat 2 0) f.vd.toNat l x) s := rfl

theorem exec_vstp (f : LaneWord) (s : State) : exec (.vstp f) s =
    laneScratch f (f.va.toNat :: dataRegs (bits f.sub.toNat 2 0) f.vd.toNat) (sizeOf' (bits f.sub.toNat 2 0)) .write
      (fun t w _ l x s => s.spWrite t x ((s.warp t w).storeBytes f.vd.toNat (sizeOf' (bits f.sub.toNat 2 0)) l)) s := rfl

variable (hk : f.sub.toNat % 8 < 7) (hbad : (s.team t).spBad = []) (hops : (s.team t).mOps = [])
include h hk hbad hops

theorem exec_vldp_onPath : exec (.vldp f) s = .next ((s.modPath t w b (Path.boards ((s.spOks t w b f (sizeBytes (f.sub.toNat % 8))).map fun l =>
    { lane := l, regs := loaded (f.sub.toNat % 8) f.vd.toNat (s.spValue t ((s.warp t w).saddr f l) (sizeBytes (f.sub.toNat % 8))) }))).parkedEnd t w b
      (s.spFails t w b f (sizeBytes (f.sub.toNat % 8)))) := by
  have hcode : bits f.sub.toNat 2 0 = f.sub.toNat % 8 := bits_low ..
  rw [exec_vldp, hcode, laneScratch_runs h f _ _ _ _ (.inl rfl), foldl_spLoad hbad hops, sizeOf_eq_sizeBytes _ hk]
  rfl

theorem exec_vstp_onPath (hlate : ¬ releaseWaits s t w b f) : exec (.vstp f) s =
    .next ((s.spStores t w b f (sizeBytes (f.sub.toNat % 8))).parkedEnd t w b (s.spFails t w b f (sizeBytes (f.sub.toNat % 8)))) := by
  have hcode : bits f.sub.toNat 2 0 = f.sub.toNat % 8 := bits_low ..
  rw [exec_vstp, hcode, laneScratch_runs h f _ _ _ _ (.inr hlate), sizeOf_eq_sizeBytes _ hk, foldl_storeBytes h.hasTeam hbad hops _ hk]
  rfl

end Settle

/-- Settles O38: the frame of scratchpad accesses (`laneScratch_onPath`) with the loads (`foldl_spLoad`) or the stores (`foldl_spWrite`) of the lanes
that pass; when all pass the path goes on, when none does the state before them is parked. -/
theorem laneScratchpad : Obligations.LaneScratchpad := by
  intro s t w b h hgo f W T k n x ls good late hk hbad hops
  have hload := exec_vldp_onPath h f hk hbad hops
  have hstore := exec_vstp_onPath h f hk hbad hops
  obtain ⟨hwritten, hbytes⟩ := foldl_spWrite h.hasTeam hbad hops x n (storeData W f.vd.toNat) (s.spOks t w b f n)
  refine ⟨fun hall => ?_, fun hlate => ?_, fun hlate hall => ?_, fun hnone hlate i hi => ?_, ?_, fun hlate => ?_⟩
  · obtain ⟨hoks, hfails⟩ := spOks_of_all f hall
    rw [hoks, hfails, parkedEnd_nil, boards_nextIdx h hgo] at hload
    exact ⟨_, hload, rfl⟩
  · exact ⟨_, (exec_vstp f s).trans (laneScratch_waits h f _ _ _ hlate), rfl⟩
  · obtain ⟨hoks, hfails⟩ := spOks_of_all f hall
    have hrun := hstore hlate
    rw [hfails, parkedEnd_nil] at hrun
    obtain ⟨hframe, hsame⟩ := stores_nextIdx h hgo h.hasTeam hwritten rfl
    refine ⟨_, hrun, hframe, fun y => (hsame y).trans ((hbytes y).trans ?_)⟩
    rw [hoks]
    rfl
  · obtain ⟨hoks, hfails⟩ := spOks_of_none f hnone
    rcases List.mem_pair.mp hi with rfl | rfl
    · rw [hoks, hfails, List.map_nil, State.modPath_eq_self _ _ _ _ fun P => by simp [Path.boards]] at hload
      exact ⟨_, hload, rfl⟩
    · have hrun := hstore hlate
      rw [hfails, State.spStores, hoks] at hrun
      exact ⟨_, hrun, rfl⟩
  · exact ⟨_, hload, rfl⟩
  · exact ⟨_, hstore hlate, _, hwritten, hbytes, rfl⟩

end Sys2Proof.Machine

/-! PROOFS. The ALU family, immediates and two-word immediates of the scalar and matrix streams (R85 to R88). -/

namespace Sys2Proof.Machine

/-! ### The frames of the ALU family -/

theorem awaits_subset {T : Team} {rs rs' : List Nat} (hsub : ∀ r ∈ rs', r ∈ rs) (h : T.awaits rs = false) : T.awaits rs' = false := by
  unfold Team.awaits at h ⊢
  rw [List.any_eq_false] at h ⊢
  intro o ho
  have := h o ho
  simp only [Bool.and_eq_true, not_and, List.contains_eq_mem, decide_eq_true_eq] at this ⊢
  exact fun hd hm => this hd (hsub _ hm)

/-- A stream that can run with some fields can run with fewer. -/
theorem State.ready.subset {s : State} {fields fields' : List Reg} (h : s.ready fields) (hsub : ∀ r ∈ fields', r ∈ fields) : s.ready fields' := by
  unfold State.ready at h ⊢
  split at h
  · next hc =>
    obtain ⟨hlive, hgood⟩ := h
    exact ⟨hlive, fun r hr => hgood r (hsub r hr)⟩
  · next hc =>
    obtain ⟨hlive, hgood, hfree⟩ := h
    refine ⟨hlive, fun r hr => hgood r (hsub r hr), awaits_subset (fun n hn => ?_) hfree⟩
    obtain ⟨r, hr, rfl⟩ := List.mem_map.1 hn
    exact List.mem_map_of_mem (hsub r hr)
  · exact h

theorem Runs.of_eq {i : Instr} {s s' : State} {P : State → Prop} (he : exec i s = .next s') (h : P s') : Runs i s P := ⟨s', he, h⟩

section Frames
variable {s : State} {d a b : Reg} {i : Instr} {v : Word}

/-- An instruction of the scalar frame that ends with a result (R85). -/
theorem scalar_gives {fields : List Reg} {reads : List Nat} {x : Word} (h : s.ready fields) (hr : ∀ n ∈ reads, ∃ r ∈ fields, r.toNat = n)
    (he : exec i s = scalar true true fields reads s (.next (s.result d x))) (hv : x = v) : Runs i s fun t => Result s t d v :=
  .of_eq (he.trans (scalar_ready reads _ h hr)) (hv ▸ result_wrote h d x)

theorem aluR_gives {g : Word → Word → Word} (h : s.ready [d, a, b]) (he : exec i s = aluR d a b g s) (hv : g (s.reg a) (s.reg b) = v) :
    Runs i s fun t => Result s t d v :=
  scalar_gives (reads := [a.toNat, b.toNat]) h (by simp) he hv

theorem alu1_gives {g : Word → Word} (h : s.ready [d, a]) (he : exec i s = alu1 d a g s) (hv : g (s.reg a) = v) :
    Runs i s fun t => Result s t d v :=
  scalar_gives (reads := [a.toNat]) h (by simp) he hv

theorem aluI_gives {imm : BitVec 14} {g : Word → BitVec 14 → Word} (h : s.ready [d, a]) (he : exec i s = aluI d a imm g s)
    (hv : g (s.reg a) imm = v) : Runs i s fun t => Result s t d v :=
  scalar_gives (reads := [a.toNat]) h (by simp) he hv

end Frames

/-! ### Results of the table as numbers (R85, R86) -/

theorem word_of_toNat {x : Word} {n : Nat} (h : x.toNat = n) : x = BitVec.ofNat 64 n := by rw [← h, BitVec.ofNat_toNat, BitVec.setWidth_eq]

theorem word_of_toInt {x : Word} {n : Int} (h : x.toInt = n) : x = BitVec.ofInt 64 n := by rw [← h, BitVec.ofInt_toInt]

theorem b2w_eq {p q : Bool} (h : p = q) : b2w p = if q = true then (1 : Word) else 0 := by rw [h]; rfl

section Words
variable (x y : Word)

theorem word_eq_zero_iff : x = 0 ↔ x.toNat = 0 := by rw [← BitVec.toNat_inj]; rfl

theorem word_sub : x - y = BitVec.ofInt 64 ((x.toNat : Int) - y.toNat) := by
  refine BitVec.eq_of_toNat_eq ?_
  rw [BitVec.toNat_sub, BitVec.toNat_ofInt]
  omega

theorem word_andn : x &&& ~~~y = BitVec.ofNat 64 (x.toNat &&& (2 ^ 64 - 1 - y.toNat)) :=
  word_of_toNat (by rw [BitVec.toNat_and, BitVec.toNat_not])

theorem word_shl (n : Nat) : x <<< n = BitVec.ofNat 64 (x.toNat * 2 ^ n) := by
  rw [← Nat.shiftLeft_eq]; rfl

theorem word_shr (n : Nat) : x >>> n = BitVec.ofNat 64 (x.toNat / 2 ^ n) :=
  word_of_toNat (by rw [BitVec.toNat_ushiftRight, Nat.shiftRight_eq_div_pow])

theorem word_sar (n : Nat) : x.sshiftRight n = BitVec.ofInt 64 (x.toInt / 2 ^ n) :=
  word_of_toInt (by rw [BitVec.toInt_sshiftRight, Int.shiftRight_eq_div_pow]; norm_cast)

theorem word_div : x / y = BitVec.ofNat 64 (x.toNat / y.toNat) := word_of_toNat BitVec.toNat_udiv

theorem word_mod : x % y = BitVec.ofNat 64 (x.toNat - y.toNat * (x.toNat / y.toNat)) :=
  word_of_toNat (by rw [BitVec.toNat_umod, Nat.mod_eq_sub])

/-- R85: the quotient that overflows wraps to the least word. -/
theorem word_sdiv : x.sdiv y = BitVec.ofInt 64 (if x.toInt = -2 ^ 63 ∧ y.toInt = -1 then -2 ^ 63 else x.toInt.tdiv y.toInt) := by
  refine BitVec.eq_of_toInt_eq ?_
  rw [BitVec.toInt_sdiv, BitVec.toInt_ofInt]
  split
  · next h => obtain ⟨hx, hy⟩ := h; rw [hx, hy]; rfl
  · rfl

theorem word_srem : x.srem y = BitVec.ofInt 64 (if x.toInt = -2 ^ 63 ∧ y.toInt = -1 then 0 else x.toInt - y.toInt * x.toInt.tdiv y.toInt) := by
  refine word_of_toInt ?_
  rw [BitVec.toInt_srem, Int.tmod_def]
  split
  · next h => obtain ⟨hx, hy⟩ := h; rw [hx, hy]; rfl
  · rfl

theorem word_min : (if y.slt x then y else x) = BitVec.ofInt 64 (min x.toInt y.toInt) :=
  word_of_toInt (by rw [BitVec.slt, apply_ite BitVec.toInt]; split <;> rename_i h <;> rw [decide_eq_true_eq] at h <;> omega)

theorem word_max : (if x.slt y then y else x) = BitVec.ofInt 64 (max x.toInt y.toInt) :=
  word_of_toInt (by rw [BitVec.slt, apply_ite BitVec.toInt]; split <;> rename_i h <;> rw [decide_eq_true_eq] at h <;> omega)

theorem word_minu : (if y.ult x then y else x) = BitVec.ofNat 64 (min x.toNat y.toNat) :=
  word_of_toNat (by rw [BitVec.ult, apply_ite BitVec.toNat]; split <;> rename_i h <;> rw [decide_eq_true_eq] at h <;> omega)

theorem word_maxu : (if x.ult y then y else x) = BitVec.ofNat 64 (max x.toNat y.toNat) :=
  word_of_toNat (by rw [BitVec.ult, apply_ite BitVec.toNat]; split <;> rename_i h <;> rw [decide_eq_true_eq] at h <;> omega)

end Words

theorem ctzNat_eq (n x : Nat) : ctzNat n x = ((List.range n).takeWhile fun i => !x.testBit i).length := by
  unfold ctzNat
  simp only [bitOf_eq_testBit]
  cases hf : (List.range n).find? x.testBit with
  | none =>
    rw [List.find?_eq_none] at hf
    exact (length_takeWhile_range le_rfl (fun i hi => by simpa using hf i (List.mem_range.2 hi)) (by omega)).symm
  | some k =>
    obtain ⟨hk, hmem, hbefore⟩ := List.find?_range_eq_some.1 hf
    refine (length_takeWhile_range (List.mem_range.1 hmem).le (fun i hi => ?_) fun _ => ?_).symm
    · simpa using hbefore i hi
    · simpa using hk

/-- Settles O1: the frame of the ALU family ends with a result (`scalar_gives`); what is left is the arithmetic of each row. -/
theorem scalarRegisterResults : Obligations.ScalarRegisterResults := by
  unfold Obligations.ScalarRegisterResults
  intro s d a b h x y sx sy n p w old nat int one gives
  have h1 : s.ready [d, a] := h.subset (by simp)
  have hx : x < 2 ^ 64 := (s.reg a).isLt
  have hz : s.reg b = 0 ↔ y = 0 := word_eq_zero_iff _
  refine ⟨aluR_gives (g := fun x y => x + y) h rfl (BitVec.add_def ..),
    aluR_gives (g := fun x y => x - y) h rfl (word_sub ..),
    aluR_gives (g := fun x y => x &&& y) h rfl ?and,
    aluR_gives (g := fun x y => x ||| y) h rfl ?or,
    aluR_gives (g := fun x y => x ^^^ y) h rfl ?xor,
    aluR_gives (g := fun x y => x &&& ~~~y) h rfl (word_andn ..),
    aluR_gives (g := fun x y => x <<< (y.toNat % 64)) h rfl (word_shl ..),
    aluR_gives (g := fun x y => x >>> (y.toNat % 64)) h rfl (word_shr ..),
    aluR_gives (g := fun x y => x.sshiftRight (y.toNat % 64)) h rfl (word_sar ..),
    aluR_gives (g := fun x y => x * y) h rfl (BitVec.mul_def ..),
    aluR_gives (g := fun x y => BitVec.ofNat 64 (x.toNat * y.toNat / 2 ^ 64)) h rfl rfl,
    aluR_gives (g := fun x y => toWord (x.toInt * y.toInt / 2 ^ 64)) h rfl rfl,
    aluR_gives (g := fun x y => if y = 0 then ~~~0 else x / y) h rfl ?divu,
    aluR_gives (g := fun x y => if y = 0 then x else x % y) h rfl ?remu,
    aluR_gives (g := fun x y => if y = 0 then ~~~0 else x.sdiv y) h rfl ?divs,
    aluR_gives (g := fun x y => if y = 0 then x else x.srem y) h rfl ?rems,
    aluR_gives (g := fun x y => if y.slt x then y else x) h rfl (word_min ..),
    aluR_gives (g := fun x y => if x.slt y then y else x) h rfl (word_max ..),
    aluR_gives (g := fun x y => if y.ult x then y else x) h rfl (word_minu ..),
    aluR_gives (g := fun x y => if x.ult y then y else x) h rfl (word_maxu ..),
    alu1_gives (g := fun x => BitVec.ofNat 64 (clzNat 64 x.toNat)) h1 rfl (congrArg _ (clzNat_eq hx)),
    alu1_gives (g := fun x => BitVec.ofNat 64 (ctzNat 64 x.toNat)) h1 rfl (congrArg _ (ctzNat_eq ..)),
    alu1_gives (g := fun x => BitVec.ofNat 64 (popNat 64 x.toNat)) h1 rfl (congrArg _ (popNat_eq ..)),
    aluR_gives (g := fun x y => b2w (x == y)) h rfl (b2w_eq ?seq),
    aluR_gives (g := fun x y => b2w (x != y)) h rfl (b2w_eq ?sne),
    aluR_gives (g := fun x y => b2w (x.slt y)) h rfl (b2w_eq rfl),
    aluR_gives (g := fun x y => b2w (x.ult y)) h rfl (b2w_eq rfl),
    aluR_gives (g := fun x y => b2w (!y.slt x)) h rfl (b2w_eq ?sle),
    aluR_gives (g := fun x y => b2w (!y.ult x)) h rfl (b2w_eq ?sleu),
    scalar_gives (x := if s.reg b = 0 then s.reg d else s.reg a) h (by simp) rfl ?cmov,
    aluR_gives (g := fun x y => BitVec.ofNat 64 (x.toNat / 2 ^ bits y.toNat 5 0 % 2 ^ bits y.toNat 13 8)) h rfl ?bfx,
    scalar_gives (x := BitVec.ofNat 64 (insertField old x (bits y 5 0) (bits y 13 8))) h (by simp) rfl ?bfi⟩
  case and => exact word_of_toNat (BitVec.toNat_and ..)
  case or => exact word_of_toNat (BitVec.toNat_or ..)
  case xor => exact word_of_toNat (BitVec.toNat_xor ..)
  case divu => exact if_congr hz rfl (word_div ..)
  case remu => exact if_congr hz (word_of_toNat rfl) (word_mod ..)
  case divs => exact if_congr hz rfl ((word_sdiv ..).trans (apply_ite ..))
  case rems => exact if_congr hz (word_of_toInt rfl) ((word_srem ..).trans (apply_ite ..))
  case seq => simp only [beq_eq_decide, ← BitVec.toNat_inj, x, y]
  case sne => simp only [bne, beq_eq_decide, ← BitVec.toNat_inj, x, y, ne_eq, decide_not]
  case sle => simp only [BitVec.slt, ← decide_not, not_lt, sx, sy]
  case sleu => simp only [BitVec.ult, ← decide_not, not_lt, x, y]
  case cmov => exact (if_congr hz (word_of_toNat rfl) (word_of_toNat rfl)).trans (ite_not ..).symm
  case bfx => rw [bits_low]; rfl
  case bfi =>
    have hp : bits y 5 0 = p := bits_low y 5
    have hw : bits y 13 8 = w := rfl
    have hold : old < 2 ^ 64 := (s.reg d).isLt
    rw [hp, hw, insertField_eq (by omega) (by omega)]

/-! ### Immediates (R87, R88) -/

/-- A two-word instruction that ends with a result and passes both words (R88). -/
theorem scalar_gives2 {s : State} {d : Reg} {i : Instr} {v : Word} {fields : List Reg} {reads : List Nat} {x : Word} (h : s.ready fields)
    (hr : ∀ n ∈ reads, ∃ r ∈ fields, r.toNat = n)
    (he : exec i s = scalar true true fields reads s (.next ((s.setReg d x).advance 8))) (hv : x = v) :
    Runs i s fun t => Wrote s t d.toNat v (s.pc + 8) :=
  .of_eq (he.trans (scalar_ready reads _ h hr)) (hv ▸ wrote_advance h d.toNat x 8)

section Immediates
variable {n : Nat}

theorem toInt_signExtend_word (hn : n ≤ 64) (i : BitVec n) : (i.signExtend 64).toInt = i.toInt := BitVec.toInt_signExtend_of_le hn

theorem toNat_signExtend_word (hn : n ≤ 64) (i : BitVec n) : ((i.signExtend 64).toNat : Int) = i.toInt % 2 ^ 64 := by
  have hword := (i.signExtend 64).isLt
  rw [← toInt_signExtend_word hn i, BitVec.toInt_eq_toNat_bmod]
  have := Int.bmod_emod (x := (i.signExtend 64).toNat) (m := 2 ^ 64)
  omega

theorem toNat_zeroExtend_word (hn : n ≤ 64) (i : BitVec n) : (i.zeroExtend 64).toNat = i.toNat :=
  BitVec.toNat_setWidth_of_le hn

theorem word_addSext (hn : n ≤ 64) (x : Word) (i : BitVec n) : x + i.signExtend 64 = BitVec.ofInt 64 (x.toNat + i.toInt) := by
  refine BitVec.eq_of_toNat_eq ?_
  have := toNat_signExtend_word hn i
  rw [BitVec.toNat_add, BitVec.toNat_ofInt]
  omega

end Immediates

/-- Settles O2: the frames end with a result (`scalar_gives`, `scalar_gives2`); what is left is the extension of the immediates. -/
theorem scalarImmediateResults : Obligations.ScalarImmediateResults := by
  unfold Obligations.ScalarImmediateResults
  intro s d a h imm sh j x sx i u nat int one gives gives2
  have hd : s.ready [d] := h.subset (by simp)
  have hu : (imm.zeroExtend 64).toNat = u := toNat_zeroExtend_word (by norm_num) imm
  have hi : (imm.signExtend 64).toInt = i := toInt_signExtend_word (by norm_num) imm
  refine ⟨aluI_gives (g := fun x i => x + i.signExtend 64) h rfl (word_addSext (by norm_num) ..),
    aluI_gives (g := fun x i => x &&& i.zeroExtend 64) h rfl (word_of_toNat ?andi),
    aluI_gives (g := fun x i => x ||| i.zeroExtend 64) h rfl (word_of_toNat ?ori),
    aluI_gives (g := fun x i => x ^^^ i.zeroExtend 64) h rfl (word_of_toNat ?xori),
    alu1_gives (g := fun x => x <<< sh.toNat) h rfl (word_shl ..), alu1_gives (g := fun x => x >>> sh.toNat) h rfl (word_shr ..),
    alu1_gives (g := fun x => x.sshiftRight sh.toNat) h rfl (word_sar ..),
    aluI_gives (g := fun x i => b2w (x.slt (i.signExtend 64))) h rfl (b2w_eq ?slti),
    aluI_gives (g := fun x i => b2w (x.ult (i.signExtend 64))) h rfl (b2w_eq ?sltui),
    aluI_gives (g := fun x i => b2w (x == i.signExtend 64)) h rfl (b2w_eq ?seqi),
    scalar_gives2 (x := j.signExtend 64) hd (by simp) rfl (word_of_toInt (toInt_signExtend_word (by norm_num) j)),
    scalar_gives2 (x := j ++ (s.reg d).truncate 32) hd (by simp) rfl (word_of_toNat ?lih),
    scalar_gives2 (x := s.reg a + j.signExtend 64) h (by simp) rfl (word_addSext (by norm_num) ..)⟩
  case andi => rw [BitVec.toNat_and, hu]
  case ori => rw [BitVec.toNat_or, hu]
  case xori => rw [BitVec.toNat_xor, hu]
  case slti => rw [BitVec.slt, hi]
  case sltui =>
    have := toNat_signExtend_word (by norm_num) imm
    rw [BitVec.ult, decide_eq_decide]
    omega
  case seqi => rw [beq_eq_decide, decide_eq_decide, ← BitVec.toInt_inj, hi]
  case lih =>
    rw [BitVec.toNat_append, ← Nat.shiftLeft_add_eq_or_of_lt (BitVec.isLt _), Nat.shiftLeft_eq, BitVec.truncate_eq_setWidth, BitVec.toNat_setWidth]

end Sys2Proof.Machine

/-! PROOFS. Transfers of control (R89) and the queueing of lane blocks (R92). -/

namespace Sys2Proof.Machine

/-! ### Transfers (R89) -/

theorem State.setSreg_zero (s : State) (x : Word) : s.setSreg 0 x = s := by
  unfold State.setSreg
  split
  · exact State.modTeam_eq_self _ _ _ fun T => by simp [Team.modWarp, Map.mod_eq_self, Warp.setS]
  · exact State.modTeam_eq_self _ _ _ fun T => rfl
  · rfl

/-- A result, and a transfer of control to `p`. -/
theorem wrote_goto {s : State} {fields : List Reg} (h : s.ready fields) (d : Nat) (x p : Word) :
    Wrote s (((s.setSreg d x).advance 0).setPc p) d x p := by
  rcases s.stands h with ⟨t, w, hc, hw⟩ | ⟨t, hc, ht⟩
  · convert wrote_warp (d := d) (x := x) (p := p) hc hw using 1
    simp only [State.setPc, State.advance, State.setSreg, hc, State.modWarp_cur, State.modWarp_modWarp]
  · convert wrote_seq (d := d) (x := x) (p := p) hc ht using 1
    simp only [State.setPc, State.advance, State.setSreg, hc, State.modSeq_cur, State.modSeq_modSeq]

theorem transfer_aligned {s k : State} {x : Word} (h : x.toNat % 4 = 0) : transfer s x k = .next ((k.advance 0).setPc x) := if_pos h

/-- A transfer from an instruction on a 4-byte boundary by a count of words. -/
theorem wordTarget {n : Nat} (hn : n ≤ 64) (p : Word) (off : BitVec n) :
    p + 4 * off.signExtend 64 = BitVec.ofInt 64 (p.toNat + 4 * off.toInt) := by
  refine BitVec.eq_of_toNat_eq ?_
  have := toNat_signExtend_word hn off
  rw [BitVec.toNat_add, BitVec.toNat_mul, BitVec.toNat_ofInt, show (4 : Word).toNat = 4 from rfl]
  omega

theorem wordTarget_aligned {n : Nat} {p : Word} (hp : p.toNat % 4 = 0) (off : BitVec n) : (p + 4 * off.signExtend 64).toNat % 4 = 0 := by
  rw [BitVec.toNat_add, BitVec.toNat_mul, show (4 : Word).toNat = 4 from rfl]
  omega

/-- The transfer of a stream whose frame lets it run goes to its target, with the link in register `d`. -/
theorem transfer_goes {s : State} {fields : List Reg} {n : Nat} (h : s.ready fields) (hn : n ≤ 64) (hp : s.pc.toNat % 4 = 0) (off : BitVec n)
    (d : Nat) (x : Word) : ∃ s', transfer s (s.pc + 4 * off.signExtend 64) (s.setSreg d x) = .next s' ∧
      Wrote s s' d x (BitVec.ofInt 64 (s.pc.toNat + 4 * off.toInt)) :=
  ⟨_, transfer_aligned (wordTarget_aligned hp off), wordTarget hn s.pc off ▸ wrote_goto h d x _⟩

theorem exec_br (cc : Cond) (a b : Reg) (off : BitVec 11) (s : State) : exec (.br cc a b off) s = execBr cc a b off s := rfl
theorem exec_j (off : BitVec 26) (s : State) : exec (.j off) s = execJ off s := rfl
theorem exec_jal (off : BitVec 26) (s : State) : exec (.jal off) s = execJal off s := rfl
theorem exec_jr (d a : Reg) (imm : BitVec 14) (s : State) : exec (.jr d a imm) s = execJr d a imm s := rfl

theorem br_goes {s : State} {a b : Reg} (h : s.ready [a, b]) (hp : s.pc.toNat % 4 = 0) (cc : Cond) (off : BitVec 11) :
    Runs (.br cc a b off) s fun t => Wrote s t 0 0
      (if condHolds cc (s.reg a) (s.reg b) then BitVec.ofInt 64 (s.pc.toNat + 4 * off.toInt) else s.pc + 4) := by
  unfold Runs
  rw [exec_br, execBr, scalar_ready _ _ h (by simp)]
  split
  · have := transfer_goes h (by norm_num) hp off 0 0
    rwa [State.setSreg_zero] at this
  · have := wrote_advance h 0 0 4
    rw [State.setSreg_zero] at this
    exact ⟨_, rfl, this⟩

/-- R80: the frame of JAL lets a stream run that does not await its link register. -/
theorem scalar_links {s : State} (h : s.ready []) (hfree : ∀ t, s.cur = .seq t → (s.team t).awaits [31] = false) (k : Out) :
    scalar true true [31] [] s k = k := by
  unfold State.ready at h
  unfold scalar
  split at h
  · next hc => simp [hc, h.1]
  · next t hc =>
    simp only [hc, h.1]
    simp [hfree t hc]
  · exact h.elim

/-- R80: it waits while a matrix operation is to write the register. -/
theorem scalar_awaitsLink {s : State} (h : s.ready []) {t : Nat} (hc : s.cur = .seq t) (hwait : (s.team t).awaits [31] = true) (k : Out) :
    scalar true true [31] [] s k = .next s := by
  simp only [State.ready, hc] at h
  simp [scalar, hc, h.1, hwait]

/-- Settles O3: a transfer goes to its target with its link (`transfer_goes`, `wrote_goto`). -/
theorem transfersGo : Obligations.TransfersGo := by
  unfold Obligations.TransfersGo
  refine ⟨fun s a b h hp cc off => ?_, fun s h hp off => ⟨?_, fun hfree => ?_, fun t hc hwait => ?_⟩, fun s d a h imm => ?_⟩
  · intro taken
    have htaken : condHolds cc (s.reg a) (s.reg b) = taken := by
      cases cc
      case eq => exact beq_eq_decide ..
      case ne => exact (congrArg _ (beq_eq_decide ..)).trans decide_not.symm
      case ge => exact decide_not.symm.trans (decide_eq_decide.2 not_lt)
      case geu => exact decide_not.symm.trans (decide_eq_decide.2 not_lt)
      all_goals rfl
    exact htaken ▸ br_goes h hp cc off
  · unfold Runs
    rw [exec_j, execJ, scalar_ready _ _ h (by simp)]
    have := transfer_goes h (by norm_num) hp off 0 0
    rwa [State.setSreg_zero] at this
  · unfold Runs
    rw [exec_jal, execJal, scalar_links h hfree]
    exact transfer_goes h (by norm_num) hp off 31 (s.pc + 4)
  · exact .of_eq ((exec_jal off s).trans (scalar_awaitsLink h hc hwait _)) rfl
  · intro target ha
    have htarget : s.baseImm a imm = target := word_addSext (by norm_num) ..
    refine .of_eq ((exec_jr d a imm s).trans ((scalar_ready _ _ h (by simp)).trans ?_)) (wrote_goto h d.toNat (s.pc + 4) target)
    exact htarget ▸ transfer_aligned (htarget ▸ ha)

/-! ### LGO (R92) -/

theorem Map.find_filter_key {α : Type} (m : Map α) (p : Nat → Bool) {k : Nat} (hk : p k = true) : Map.find (m.filter fun x => p x.1) k = m.find k := by
  induction m with
  | nil => rfl
  | cons x r ih =>
    obtain ⟨j, u⟩ := x
    by_cases hj : j = k
    · simp [hj, hk]
    · cases hp : p j <;> simp [hp, hj, ih]

/-- The snapshot holds the shared registers (R92). -/
theorem Warp.get_shareds (W : Warp) {r : Nat} (hr : 32 ≤ r) : W.shareds.get r 0 = W.s.get r 0 := by
  unfold Warp.shareds Map.get
  rw [Map.find_filter_key W.s (fun k => decide (k ≥ 32)) (decide_eq_true hr)]

theorem exec_lgo (a : Reg) (imm : BitVec 14) (s : State) : exec (.lgo a imm) s = execLgo a imm s := rfl

/-- The block that LGO puts into the queue. -/
def Warp.newBlock (W : Warp) (start : Nat) : Block := { start := start, snap := W.shareds, written := 0, stream := W.stream, before := W.writes }

theorem exec_lgo_onWarp {s : State} {t w : Nat} (h : s.onWarp t w) (a : Reg) (imm : BitVec 14) :
    let start : Int := (s.reg a).toNat + imm.toInt
    exec (.lgo a imm) s =
      if start < 0 ∨ start > 65535 then .next s.illegal
      else if (s.warp t w).queue.length ≥ 4 then .next s
      else .next ((s.modWarp t w fun W => { W with queue := W.queue ++ [W.newBlock start.toNat] }).advance 4) := by
  rw [exec_lgo, execLgo, warpOnly_ready _ _ _ h]
  simp only [h.1]
  rfl

/-- Settles O4: the three cases of LGO (`exec_lgo_onWarp`). -/
theorem lgoQueuesBlock : Obligations.LgoQueuesBlock := by
  unfold Obligations.LgoQueuesBlock
  intro s t w h a imm start
  have hexec := exec_lgo_onWarp h a imm
  refine ⟨fun hlo hhi hroom => ?_, fun hlo hhi hfull => ?_, fun hout => ?_⟩
  · refine .of_eq (hexec.trans ((if_neg (by omega)).trans (if_neg (by omega)))) ⟨(s.warp t w).newBlock start.toNat, ?_, rfl, rfl, rfl, ?_, ?_⟩
    · exact Int.toNat_of_nonneg hlo
    · exact fun r hr => Warp.get_shareds _ hr
    · exact congrArg (State.advance · 4) (State.modWarp_congr _ _ _ _ _ rfl)
  · exact .of_eq (hexec.trans ((if_neg (by omega)).trans (if_pos hfull))) rfl
  · exact .of_eq (hexec.trans (if_pos (by omega))) (illegal_halts h)

end Sys2Proof.Machine

/-! PROOFS. Control registers: SGET and SPUT (R81 to R83). -/

namespace Sys2Proof.Machine

/-! ### Control registers (R81 to R83) -/

theorem mstat_eq (T : Team) : T.mstat =
    T.badcols * 2 ^ 40 + T.badrows * 2 ^ 32 + T.mq.length * 2 ^ 28 + T.fcause * 2 ^ 24 + T.ftile * 2 ^ 16 + (if T.frozen then 2 ^ 8 else 0) + T.retry := by
  unfold Team.mstat
  cases T.frozen <;> rfl

/-- Above the registers of R81 up to MINJ stand the scale windows alone, three registers in each. -/
theorem crGet_of_le (s : State) (t w : Nat) {k : Nat} (hk : 0x25 ≤ k) : s.crGet t w k =
    if 0x40 ≤ k ∧ k < 0x60 ∧ k % 4 ≠ 3 then
      some ((s.die (s.team t).origin).space.get ((s.team t).asid % 4096 * 64 + (k - 0x40) + 1) 0).toNat else none := by
  unfold State.crGet
  split
  case h_20 => rfl
  all_goals omega

/-- The registers of R81 up to MINJ. -/
def lowRegisters (s : State) (t w : Nat) : List (Nat × Nat) :=
  let T := s.team t
  [(0x00, T.teamid), (0x01, T.xyz), (0x02, T.grid), (0x03, w), (0x04, T.nwarps), (0x05, T.die * 256 + T.core), (0x06, T.subidx), (0x07, T.part),
   (0x08, T.lanebase), (0x09, T.asid), (0x0A, T.prio), (0x0B, if w = 32 then 0 else (s.warp t w).dead.toNat),
   (0x10, if w = 32 then T.seq.stream else (s.warp t w).stream), (0x11, (s.trapvec t).toNat), (0x20, T.mstat),
   (0x21, T.mretry), (0x22, T.mtol8), (0x23, T.mtol4), (0x24, T.minj.toNat)]

theorem mem_controlRegisters (s : State) (t w k x : Nat) : (k, x) ∈ controlRegisters s t w ↔ (k, x) ∈ lowRegisters s t w ∨
    ∃ i < 8, ∃ j < 3, k = 0x40 + 4 * i + j ∧
      x = ((s.die (s.team t).origin).space.get (64 * ((s.team t).asid % 4096) + 4 * i + j + 1) 0).toNat := by
  rw [controlRegisters, ← mstat_eq, List.mem_append]
  refine or_congr Iff.rfl ?_
  simp only [List.mem_flatMap, List.mem_map, List.mem_range, Prod.mk.injEq, eq_comm (a := k), eq_comm (a := x)]

theorem crGet_of_mem_low {s : State} {t w : Nat} : ∀ p ∈ lowRegisters s t w, s.crGet t w p.1 = some p.2 := by
  simp only [lowRegisters, List.forall_mem_cons, List.not_mem_nil, false_implies, implies_true, and_true]
  exact ⟨rfl, rfl, rfl, rfl, rfl, rfl, rfl, rfl, rfl, rfl, rfl, rfl, rfl, rfl, rfl, rfl, rfl, rfl, rfl⟩

theorem mem_low_of_crGet {s : State} {t w k x : Nat} (hk : k < 0x25) (h : s.crGet t w k = some x) : (k, x) ∈ lowRegisters s t w := by
  unfold State.crGet at h
  split at h
  case h_20 => simp at h; omega
  all_goals cases h; simp [lowRegisters, State.trapvec, State.warp]

theorem window_index {a i j : Nat} : a * 64 + (0x40 + 4 * i + j - 0x40) + 1 = 64 * a + 4 * i + j + 1 := by omega

/-- SGET reads what the table of control registers gives (R81, R83). -/
theorem crGet_iff (s : State) (t w k x : Nat) : s.crGet t w k = some x ↔ (k, x) ∈ controlRegisters s t w := by
  rw [mem_controlRegisters]
  constructor
  · intro h
    by_cases hk : k < 0x25
    · exact .inl (mem_low_of_crGet hk h)
    · rw [crGet_of_le s t w (by omega)] at h
      split at h
      · next hwin =>
        obtain ⟨i, j, hi, hj, rfl⟩ : ∃ i j, i < 8 ∧ j < 3 ∧ k = 0x40 + 4 * i + j := ⟨(k - 0x40) / 4, k % 4, by omega⟩
        rw [window_index, Option.some.injEq] at h
        exact .inr ⟨i, hi, j, hj, rfl, h.symm⟩
      · cases h
  · rintro (h | ⟨i, hi, j, hj, rfl, rfl⟩)
    · exact crGet_of_mem_low _ h
    · rw [crGet_of_le s t w (by omega), if_pos (by omega), window_index]

theorem crGet_eq_none {s : State} {t w k : Nat} (h : ∀ x, (k, x) ∉ controlRegisters s t w) : s.crGet t w k = none :=
  Option.eq_none_iff_forall_ne_some.2 fun x hx => h x ((crGet_iff ..).1 hx)

theorem exec_sget (d : Reg) (idx : BitVec 14) (s : State) : exec (.sget d idx) s = execSget d idx s := rfl

/-- Settles O6: SGET reads the table of control registers (`crGet_iff`). -/
theorem sgetReads : Obligations.SgetReads := by
  unfold Obligations.SgetReads
  refine ⟨fun s d h t w hids idx x hx => .of_eq ?_ (result_wrote h d _), fun s t w h d idx hnone => .of_eq ?_ (illegal_halts h)⟩
  · rw [exec_sget, execSget, scalar_ready [] _ h (by simp), hids]
    simp only [(crGet_iff ..).2 hx]
  · rw [exec_sget, execSget, scalar_ready [] _ (h.ready [d]) (by simp), h.1]
    simp only [Stream.ids, crGet_eq_none hnone]

theorem exec_sput (a : Reg) (idx : BitVec 14) (s : State) : exec (.sput a idx) s = execSput a idx s := rfl

/-- SPUT of a warp (R82, R83): a register of the address space takes its value where the warp may execute PRIV, and any other as its access says. -/
theorem exec_sput_onWarp {s : State} {t w : Nat} (h : s.onWarp t w) (a : Reg) (idx : BitVec 14) {y : Nat} (hy : (idx.toNat, y) ∈ controlRegisters s t w) :
    exec (.sput a idx) s = .next (State.advance (if spaceReg idx.toNat then (if (s.team t).pmgr || (s.team t).handler then s.spacePut t idx.toNat (s.reg a) else s)
      else s.crPut t w idx.toNat (s.reg a)) 4) := by
  rw [exec_sput, execSput, scalar_ready [a.toNat] _ (h.ready [a]) (by simp), h.1]
  simp only [Stream.ids, (crGet_iff ..).2 hy, h.mayPriv_eq]
  split <;> rfl

theorem exec_sput_reserved {s : State} {t w : Nat} (h : s.onWarp t w) (a : Reg) (idx : BitVec 14) (hnone : ∀ y, (idx.toNat, y) ∉ controlRegisters s t w) :
    exec (.sput a idx) s = .next s.illegal := by
  rw [exec_sput, execSput, scalar_ready [a.toNat] _ (h.ready [a]) (by simp), h.1]
  simp only [Stream.ids, crGet_eq_none hnone]

/-- The indices of R81 up to MINJ. -/
theorem mem_controlRegisters_low {s : State} {t w k : Nat} (h : k ∈ (lowRegisters s t w).map Prod.fst) : ∃ y, (k, y) ∈ controlRegisters s t w := by
  obtain ⟨⟨_, y⟩, hy, rfl⟩ := List.mem_map.1 h
  exact ⟨y, (mem_controlRegisters ..).2 (.inl hy)⟩

theorem mem_controlRegisters_window (s : State) (t w : Nat) {k j : Nat} (hk : k < 8) (hj : j < 3) : ∃ y, (0x40 + 4 * k + j, y) ∈ controlRegisters s t w :=
  ⟨_, (mem_controlRegisters ..).2 (.inr ⟨k, hk, j, hj, rfl, rfl⟩)⟩

theorem spaceReg_window {k j : Nat} (hk : k < 8) (hj : j < 3) : spaceReg (0x40 + 4 * k + j) = true := by
  simp [spaceReg]; omega

/-- The scale windows take two bits in their third register, and a word in the others (R82, R187). -/
theorem spacePut_window (s : State) (t : Nat) {k j : Nat} (hj : j < 3) (x : Word) : s.spacePut t (0x40 + 4 * k + j) x =
    s.modDie (s.team t).origin fun D => { D with space := D.space.put 0 (64 * ((s.team t).asid % 4096) + 4 * k + j + 1) (if j = 2 then x &&& 3 else x) } := by
  have hhalf : (0x40 + 4 * k + j ≠ 0x11 ∧ (0x40 + 4 * k + j) % 4 = 2) ↔ j = 2 := by omega
  have hidx : (s.team t).asid % 4096 * 64 + (0x40 + 4 * k + j - 0x40 + 1) = 64 * ((s.team t).asid % 4096) + 4 * k + j + 1 := by omega
  simp only [State.spacePut, hhalf, if_neg (show 0x40 + 4 * k + j ≠ 0x11 by omega), hidx]

/-- SPUT to a register that is read only leaves the state (R82). -/
theorem crPut_of_readOnly {s : State} {t w k : Nat} {x : Word} (h : k ≤ 0xB ∨ k = 0x20) : s.crPut t w k x = s := by
  unfold State.crPut
  split
  case h_6 => rfl
  all_goals omega

section Sput
variable {s : State} {t w : Nat} (h : s.onWarp t w) (a : Reg) {idx : BitVec 14} {k : Nat} (hk : idx.toNat = k)
include h hk

/-- SPUT of a warp to a register that is none of its address space (R82, R83). -/
theorem exec_sput_team (hy : ∃ y, (k, y) ∈ controlRegisters s t w) (hown : spaceReg k = false) :
    exec (.sput a idx) s = .next ((s.crPut t w k (s.reg a)).advance 4) := by
  subst hk
  obtain ⟨y, hy⟩ := hy
  rw [exec_sput_onWarp h a idx hy, hown]; rfl

theorem exec_sput_space (hy : ∃ y, (k, y) ∈ controlRegisters s t w) (hspace : spaceReg k = true)
    (hpriv : ((s.team t).pmgr || (s.team t).handler) = true) : exec (.sput a idx) s = .next ((s.spacePut t k (s.reg a)).advance 4) := by
  subst hk
  obtain ⟨y, hy⟩ := hy
  rw [exec_sput_onWarp h a idx hy, if_pos hspace, if_pos hpriv]

/-- A warp that may not execute PRIV leaves the registers of its address space (R82). -/
theorem exec_sput_denied (hy : ∃ y, (k, y) ∈ controlRegisters s t w) (hspace : spaceReg k = true)
    (hpriv : ((s.team t).pmgr || (s.team t).handler) = false) : exec (.sput a idx) s = .next (s.advance 4) := by
  subst hk
  obtain ⟨y, hy⟩ := hy
  rw [exec_sput_onWarp h a idx hy, if_pos hspace, hpriv]; rfl

end Sput

/-- From the scale windows on each index that names a register names one of the address space. -/
theorem spaceReg_of_mem {s : State} {t w k : Nat} (hk : k = 0x11 ∨ 0x40 ≤ k) (hy : ∃ y, (k, y) ∈ controlRegisters s t w) : spaceReg k = true := by
  rcases hk with rfl | hk
  · rfl
  · obtain ⟨y, hy⟩ := hy
    have hget := (crGet_iff ..).2 hy
    rw [crGet_of_le s t w (by omega)] at hget
    split at hget
    · next hwin => simp [spaceReg]; omega
    · cases hget

/-- Settles O7: SPUT by the access of its register (`exec_sput_team`, `exec_sput_space`, `exec_sput_denied`). -/
theorem sputWrites : Obligations.SputWrites := by
  unfold Obligations.SputWrites
  intro s t w h hw a idx x T
  have hlow {k : Nat} (hk : k ∈ (lowRegisters s t w).map Prod.fst) := mem_controlRegisters_low hk
  refine ⟨?stream, ?mretry, ?mtol8, ?mtol4, ?minj, fun hidx hpriv => ?trapvec, fun k hk j hj hidx hpriv => ?window, fun hidx hpriv hy => ?denied,
    fun hidx => ?readOnly, fun hnone => .of_eq (exec_sput_reserved h a idx hnone) (illegal_halts h)⟩
  case stream =>
    rintro rfl
    refine .of_eq (exec_sput_team h a (k := 0x10) rfl (hlow (by simp [lowRegisters])) rfl) ?_
    rw [State.crPut, if_neg (by omega)]
  case mretry =>
    rintro rfl
    exact .of_eq (exec_sput_team h a (k := 0x21) rfl (hlow (by simp [lowRegisters])) rfl) rfl
  case mtol8 =>
    rintro rfl
    exact .of_eq (exec_sput_team h a (k := 0x22) rfl (hlow (by simp [lowRegisters])) rfl) rfl
  case mtol4 =>
    rintro rfl
    exact .of_eq (exec_sput_team h a (k := 0x23) rfl (hlow (by simp [lowRegisters])) rfl) rfl
  case minj =>
    rintro rfl hops
    refine .of_eq (exec_sput_team h a (k := 0x24) rfl (hlow (by simp [lowRegisters])) rfl) ?_
    have hmq : (s.team t).mq = [] := (List.append_eq_nil_iff.1 hops).1
    exact congrArg (State.advance · 4) (State.modTeam_congr _ _ _ _ (by simp [hmq]))
  case trapvec =>
    subst hidx
    refine .of_eq (exec_sput_space h a (k := 0x11) rfl (hlow (by simp [lowRegisters])) rfl hpriv) ?_
    rw [State.spacePut, Nat.mul_comm]; rfl
  case window =>
    refine .of_eq (exec_sput_space h a hidx (mem_controlRegisters_window s t w hk hj) (spaceReg_window hk hj) hpriv) ?_
    rw [spacePut_window s t hj]
  case denied =>
    have hk : idx.toNat = 0x11 ∨ 0x40 ≤ idx.toNat := hidx.imp_left (congrArg BitVec.toNat)
    exact .of_eq (exec_sput_denied h a rfl hy (spaceReg_of_mem hk hy) hpriv) rfl
  case readOnly =>
    have hk : idx.toNat ≤ 0xB ∨ idx.toNat = 0x20 := hidx.imp_right (congrArg BitVec.toNat)
    have hy : ∃ y, (idx.toNat, y) ∈ controlRegisters s t w := hlow (by simp [lowRegisters]; omega)
    have hown : spaceReg idx.toNat = false := by simp [spaceReg]; omega
    exact .of_eq (exec_sput_team h a rfl hy hown) (by rw [crPut_of_readOnly hk])

end Sys2Proof.Machine

/-! PROOFS. SYS.YIELD (R100); the waits, the end of a warp and the clocks (R96 to R103). -/

namespace Sys2Proof.Machine

/-! ### What a write to memory and a choice leave of the table of teams -/

/-- R277: the race that an access leaves behind is noted in the teams, none of which comes or goes. -/
theorem hasTeam_raceMem (s : State) (d pa n : Nat) (write : Bool) (me : Option Nat) (u : Nat) :
    ((s.raceMem d pa n write me).2.teams.find u).isSome = (s.teams.find u).isSome := by
  unfold State.raceMem
  dsimp only
  split
  · rfl
  · rw [Map.find_each, Option.isSome_map]

theorem hasTeam_wrFree (s : State) (d pa : Nat) (bs : List Byte) (me : Option Nat) (u : Nat) :
    ((s.wrFree d pa bs me).teams.find u).isSome = (s.teams.find u).isSome := by
  calc ((s.wrFree d pa bs me).teams.find u).isSome
      = (((s.raceMem d pa bs.length true me).2.blur bs (s.raceMem d pa bs.length true me).1).2.teams.find u).isSome := by
        unfold State.wrFree
        rw [wrRaw_teams, Map.find_each, Option.isSome_map]
    _ = ((s.raceMem d pa bs.length true me).2.teams.find u).isSome := by rw [blur_keeps]
    _ = (s.teams.find u).isSome := hasTeam_raceMem ..

theorem drawBytes_teams (s : State) (n : Nat) : (s.drawBytes n).2.teams = s.teams := by
  induction n generalizing s with
  | zero => rfl
  | succ n ih => exact ih (s.draw 8).2

theorem hasTeam_foldl {α : Type} {f : State → α → State} {u : Nat} (hf : ∀ s a, ((f s a).teams.find u).isSome = (s.teams.find u).isSome)
    (l : List α) (s : State) : ((l.foldl f s).teams.find u).isSome = (s.teams.find u).isSome := by
  induction l generalizing s with
  | nil => rfl
  | cons a l ih => exact (ih (f s a)).trans (hf s a)

/-- R434: writing a context image makes or removes no team. -/
theorem hasTeam_writeImage (s : State) (t : Nat) (ids : List Nat) (u : Nat) :
    ((s.writeImage t ids).teams.find u).isSome = (s.teams.find u).isSome := by
  unfold State.writeImage
  split
  · rfl
  · refine (hasTeam_foldl (fun s x => ?_) _ _).trans (hasTeam_foldl (fun s x => hasTeam_wrFree ..) _ _)
    exact (hasTeam_wrFree ..).trans (by rw [drawBytes_teams])

/-- R400: a hint changes at most the die and the hint of the team. -/
theorem useHint_cases (s : State) (t : Nat) : (s.useHint t).teams = s.teams ∨
    ∃ f : Team → Team, (s.useHint t).teams = s.teams.mod t f ∧ ∀ T, (f T).phase = T.phase ∧ (f T).leaving = T.leaving := by
  unfold State.useHint
  dsimp only
  split
  · exact .inl rfl
  · split
    · exact .inl rfl
    · split
      · split
        · exact .inl rfl
        · obtain ⟨c, hc⟩ := choose_ctr s (s.moveTargets t).length
          have hk : (s.choose (s.moveTargets t).length).2.teams = s.teams := by rw [hc]
          exact .inr ⟨_, congrArg (Map.mod · t _) hk, fun _ => ⟨rfl, rfl⟩⟩
      · split
        · exact .inr ⟨_, rfl, fun _ => ⟨rfl, rfl⟩⟩
        · exact .inl rfl

theorem useHint_keeps (s : State) (t : Nat) (h : (s.teams.find t).isSome) :
    ((s.useHint t).team t).phase = (s.team t).phase ∧ ((s.useHint t).team t).leaving = (s.team t).leaving := by
  obtain ⟨T, hT⟩ := Option.isSome_iff_exists.1 h
  unfold State.team Map.get
  rcases useHint_cases s t with he | ⟨f, he, hf⟩
  · rw [he]; exact ⟨rfl, rfl⟩
  · rw [he, Map.find_mod, if_pos rfl, hT]
    exact hf T

/-- R431: a saved team is away, and leaves no more. -/
theorem saveTeam_away (s : State) (t : Nat) (h : (s.teams.find t).isSome) :
    ((s.saveTeam t).team t).phase = .away ∧ ((s.saveTeam t).team t).leaving = false := by
  unfold State.saveTeam
  dsimp only
  have hw := (hasTeam_writeImage { s with frags := s.frags.each fun _ F => if F.team = t then { F with entry := none } else F } t (s.teamFrags t) t).trans h
  obtain ⟨hphase, hleaving⟩ := useHint_keeps _ t ((hasTeam_modTeam _ t t _).trans hw)
  rw [hphase, hleaving, State.team_modTeam _ _ _ _ hw, if_pos rfl]
  exact ⟨rfl, rfl⟩

/-! ### Leaving a core -/

/-- R100: a stopped warp that is in no wait keeps its place. -/
theorem endWaits_spc {W : Warp} (h : W.wait = .none) : W.endWaits.spc = W.spc := by
  simp [Warp.endWaits, h]

/-- R100: a resident team that starts to leave is leaving; it freezes unless it was leaving before. -/
theorem team_startLeave {s : State} {t : Nat} (ht : (s.teams.find t).isSome) (hr : (s.team t).phase = .resident) :
    (s.startLeave t).team t = if (s.team t).leaving then s.team t
      else { (s.team t).freeze with leaving := true, warps := (s.team t).warps.each fun _ W => W.endWaits } := by
  unfold State.startLeave
  rw [State.team_modTeam _ _ _ _ ht, if_pos rfl]
  simp [hr]

theorem Team.warp_each_endWaits (T : Team) (w : Nat) : ({ T with warps := T.warps.each fun _ W => W.endWaits } : Team).warp w = (T.warp w).endWaits := by
  simp only [Team.warp, Map.get, Map.find_each]
  cases T.warps.find w <;> rfl

theorem warp_startLeave {s : State} {t w : Nat} (ht : (s.teams.find t).isSome) (hr : (s.team t).phase = .resident) :
    (s.startLeave t).warp t w = if (s.team t).leaving then s.warp t w else (s.warp t w).endWaits := by
  unfold State.warp
  rw [team_startLeave ht hr]
  split
  · rfl
  · exact Team.warp_each_endWaits _ w

theorem warp_advance {s : State} {t w : Nat} (h : s.onWarp t w) (n : Nat) : (s.advance n).warp t w =
    { s.warp t w with spc := (s.warp t w).spc + BitVec.ofNat 64 n, wait := .none, asks := [], got := [], qwait := none } := by
  obtain ⟨hcur, hlive, -⟩ := h
  simp only [State.advance, hcur]
  exact State.warp_modWarp_self _ _ _ _ (State.hasWarp_of_live hlive)

theorem team_advance {s : State} {t w : Nat} (h : s.onWarp t w) (n : Nat) :
    (s.advance n).team t = { s.team t with warps := ((s.advance n).team t).warps } := by
  obtain ⟨hcur, hlive, -⟩ := h
  have ht : (s.teams.find t).isSome := (Bool.and_eq_true_iff.1 (State.hasWarp_of_live hlive)).1
  simp only [State.advance, hcur, State.modWarp]
  rw [State.team_modTeam _ _ _ _ ht, if_pos rfl]
  rfl

theorem hasTeam_advance {s : State} {t w : Nat} (h : s.onWarp t w) (n u : Nat) :
    ((s.advance n).teams.find u).isSome = (s.teams.find u).isSome := by
  simp only [State.advance, h.1]
  exact hasTeam_modTeam ..

theorem State.onWarp.hasTeam {s : State} {t w : Nat} (h : s.onWarp t w) : (s.teams.find t).isSome :=
  (Bool.and_eq_true_iff.1 (State.hasWarp_of_live h.2.1)).1

/-- R100, R431: a team leaves at once exactly where it may be saved. -/
theorem leaveTeam_eq (s : State) (t : Nat) :
    s.leaveTeam t = if (s.startLeave t).maySave t then (s.startLeave t).saveTeam t else s.startLeave t := rfl

theorem exec_sysYield {s : State} {t w : Nat} (h : s.onWarp t w) : exec .sysYield s = .next ((s.advance 4).leaveTeam t) := by
  show warpOnly [] [] s _ = _
  rw [warpOnly_ready _ _ _ h, h.me_eq]

/-- Settles O5: the YIELD is passed before the team starts to leave, so no wait is left for the suspension to end. -/
theorem yieldLeaves : Obligations.YieldLeaves := by
  intro s t w h hr
  refine .of_eq (exec_sysYield h) ?_
  have ht : ((s.advance 4).teams.find t).isSome := (hasTeam_advance h 4 t).trans h.hasTeam
  have hr1 : ((s.advance 4).team t).phase = .resident := by rw [team_advance h]; exact hr
  have hteam := team_startLeave ht hr1
  refine ⟨?_, ?_, fun hl => ?_, fun hs => ?_, fun hs => ?_⟩
  · rw [hteam]
    split
    · assumption
    · rfl
  · rw [warp_startLeave ht hr1, warp_advance h]
    split
    · rfl
    · exact endWaits_spc rfl
  · have hl1 : ((s.advance 4).team t).leaving = false := by rw [team_advance h]; exact hl
    rw [hteam, hl1]
    rfl
  · have he : (s.advance 4).leaveTeam t = ((s.advance 4).startLeave t).saveTeam t := by rw [leaveTeam_eq, if_pos hs]
    exact ⟨he, he ▸ saveTeam_away _ t ((hasTeam_modTeam ..).trans ht)⟩
  · rw [leaveTeam_eq, hs]
    rfl

/-! ### Waits and the end of a warp (R96, R98, R99, R101) -/

section OnWarp
variable {s : State} {t w : Nat} (h : s.onWarp t w)
include h

theorem exec_lwait (n : BitVec 2) : exec (.lwait n) s = if (s.warp t w).queue.length ≤ n.toNat then .next (s.advance 4) else .next s := by
  show warpOnly [] [] s _ = _
  rw [warpOnly_ready _ _ _ h, h.1]
  rfl

theorem exec_sysNop : exec .sysNop s = .next (s.advance 4) := by
  show warpOnly [] [] s _ = _
  exact warpOnly_ready _ _ _ h

/-- R101: a SLEEP that has not begun is a NOP where it names no time, else it begins. -/
theorem exec_sysSleep (hw : ∀ till, (s.warp t w).wait ≠ .sleep till) (a : Reg) : exec (.sysSleep a) s =
    if (s.reg a).toNat % 2 ^ 32 = 0 then .next (s.advance 4)
    else .next (s.modWarp t w fun W => { W with wait := .sleep (s.now + Config.nsCycles ((s.reg a).toNat % 2 ^ 32)) }) := by
  show warpOnly [a] [a.toNat] s _ = _
  have hwait : s.waiting = (s.warp t w).wait := by simp [State.waiting, h.1]
  rw [warpOnly_ready _ _ _ h, hwait]
  split
  · exact absurd ‹_› (hw _)
  · simp only [State.setWait, h.1]

theorem exec_sysExit : exec .sysExit s = if (s.warp t w).queue.isEmpty then .next (s.endWarp t w) else .next s := by
  show warpOnly [] [] s _ = _
  rw [warpOnly_ready _ _ _ h, exitInstr, h.1]
  rfl

theorem exec_sysClock (d : Reg) : exec (.sysClock d) s = .next (s.result d (BitVec.ofNat 64 (s.die (s.team t).die).cycles)) := by
  show warpOnly [d] [] s _ = _
  rw [warpOnly_ready _ _ _ h, h.me_eq]

theorem exec_sysPtpread (d a : Reg) : exec (.sysPtpread d a) s =
    .next (((s.setReg d (BitVec.ofNat 64 s.time)).setReg a (BitVec.ofNat 64 (s.ptpNs / 10 ^ 9 / 2 ^ 32 % 2 ^ 16))).advance 4) := by
  show warpOnly [d, a] [] s _ = _
  exact warpOnly_ready _ _ _ h

end OnWarp

/-- R101: 7 cycles pass in 4 ns. -/
theorem nsCycles_bounds (ns : Nat) : 7 * ns ≤ 4 * Config.nsCycles ns ∧ 4 * Config.nsCycles ns < 7 * ns + 4 := by
  unfold Config.nsCycles
  omega

theorem exec_sleepExpiry {s : State} {t w till : Nat} (hw : (s.warp t w).wait = .sleep till) (hn : till ≤ s.now) :
    exec (.sleepExpiry t w) s = .next (s.modWarp t w fun W => { W with wait := .none, spc := W.spc + 4 }) := by
  show execSleepExpiry t w s = _
  simp [execSleepExpiry, hw, hn]

theorem sameStreams_see (s : State) (die : Nat) (h : Word) : SameStreams s (s.see die h).2 := by
  unfold State.see
  split
  · exact .refl s
  · split
    · exact .refl s
    · generalize (if hScope h ≤ 2 then Config.dieEntries else Config.pkgEntries) = n
      split
      · exact .refl s
      · exact sameStreams_choose s 2

/-- R306: leaving the phasers of a warp sends messages and changes no stream. -/
theorem sameStreams_leaveAll (s : State) (t w : Nat) : SameStreams s (s.leaveAll t w) := by
  refine .foldl _ (fun s r => ?_) _ s
  have hsee := sameStreams_see s (s.team t).die r.handle
  split
  · next hs =>
    rw [hs] at hsee
    dsimp only
    split
    · exact hsee
    · exact hsee.trans ⟨rfl, rfl, rfl⟩
  · next hs => rwa [hs] at hsee

/-- R99, R306: a warp that ends keeps its registers and its membership records, where its team is no handler's. -/
theorem endWarp_stands {s : State} {t w : Nat} (hw : s.hasWarp t w = true) (hh : (s.team t).handler = false) :
    ((s.endWarp t w).warp t w).life = .ended ∧ ((s.endWarp t w).warp t w).members = (s.warp t w).members ∧
      ((s.endWarp t w).warp t w).s = (s.warp t w).s := by
  have hleave := sameStreams_leaveAll s t w
  have hw1 : (s.leaveAll t w).hasWarp t w = true := by simpa only [State.hasWarp, State.team, hleave.teams] using hw
  have he : s.endWarp t w = ((s.leaveAll t w).modWarp t w fun W => { W with life := .ended, wait := .none, asks := [], got := [] }).settle t := by
    simp only [State.endWarp, hh]
    rfl
  have hend := State.warp_modWarp_self (s.leaveAll t w) t w (fun W => { W with life := .ended, wait := .none, asks := [], got := [] }) hw1
  have hstands := settle_stands _ t w t (by rw [hend]; exact Life.noConfusion)
  rw [he, hstands.life, hstands.members, hstands.regs, hend, warp_of_teams hleave.teams]
  exact ⟨rfl, rfl, rfl⟩

theorem waitsAndEnds : Claims.WaitsAndEnds := by
  intro s t w h a n
  dsimp only
  refine ⟨fun hn => ?_, fun hn => ?_, ?_, fun hw => ⟨fun hz => ?_, fun hz => ?_⟩, fun till hw hn => ?_, fun hq => ?_, fun hq hh => ?_⟩
  · exact .of_eq ((exec_lwait h n).trans (if_pos hn)) rfl
  · exact .of_eq ((exec_lwait h n).trans (if_neg (by omega))) rfl
  · exact .of_eq (exec_sysNop h) rfl
  · exact .of_eq ((exec_sysSleep h hw a).trans (if_pos hz)) rfl
  · obtain ⟨hlo, hhi⟩ := nsCycles_bounds ((s.reg a).toNat % 2 ^ 32)
    exact .of_eq ((exec_sysSleep h hw a).trans (if_neg hz)) ⟨_, by omega, by omega, rfl⟩
  · exact .of_eq (exec_sleepExpiry hw hn) rfl
  · exact .of_eq ((exec_sysExit h).trans (if_neg (by simpa using hq))) rfl
  · obtain ⟨hlife, hmembers, hregs⟩ := endWarp_stands (State.hasWarp_of_live h.2.1) hh
    exact .of_eq ((exec_sysExit h).trans (if_pos (by simp [hq]))) ⟨hlife, hmembers, fun r => by rw [hregs]⟩

/-! ### Clocks (R102, R103) -/

/-- Two results and the advance by `n` bytes; the second is the one that stays where both name one register. -/
theorem wrote_two {s : State} {t w : Nat} (h : s.onWarp t w) (d a : Nat) (x y : Word) (n : Nat) :
    let s' := ((s.setSreg d x).setSreg a y).advance n
    StreamOnly s s' ∧ s'.pc = s.pc + BitVec.ofNat 64 n ∧
      ∀ r < 64, s'.sreg r = if r = 0 then 0 else if r = a then y else if r = d then x else s.sreg r := by
  obtain ⟨hc, hlive, -⟩ := h
  have hw := State.hasWarp_of_live hlive
  have hs : ((s.setSreg d x).setSreg a y).advance n = s.modWarp t w fun W =>
      { (W.setS d x).setS a y with spc := (s.warp t w).spc + BitVec.ofNat 64 n, wait := .none, asks := [], got := [], qwait := none } := by
    simp only [State.advance, State.setSreg, hc, State.modWarp_cur, State.modWarp_modWarp]
    refine State.modWarp_congr _ _ _ _ _ ?_
    rw [Warp.setS_eq, Warp.setS_eq _ d]
  have hq := State.warp_modWarp_self s t w (fun W =>
    { (W.setS d x).setS a y with spc := (s.warp t w).spc + BitVec.ofNat 64 n, wait := .none, asks := [], got := [], qwait := none }) hw
  dsimp only
  rw [hs]
  refine ⟨?_, ?_, fun r _ => ?_⟩
  · simp only [StreamOnly, hc]
    refine State.modWarp_congr _ _ _ _ _ ?_
    simp only [State.pc, State.modWarp_cur, hc, hq]
    rw [Warp.setS_eq, Warp.setS_eq _ d]
  · simp only [State.pc, State.modWarp_cur, hc, hq]
  · simp only [State.sreg, State.modWarp_cur, hc, hq]
    by_cases h0 : r = 0
    · simp [h0]
    · simp only [h0, if_false, Warp.get_setS _ _ _ _ h0]

theorem clockReads : Claims.ClockReads := by
  intro s t w h d a
  exact ⟨.of_eq (exec_sysClock h d) (result_wrote h.ready_nil d _), .of_eq (exec_sysPtpread h d a) (wrote_two h d.toNat a.toNat _ _ 4)⟩

/-- Settles O10: the waits and the end of a warp (`waitsAndEnds`), and the clocks (`clockReads`). -/
theorem waitsEndsAndClock : Obligations.WaitsEndsAndClock := ⟨waitsAndEnds, clockReads⟩

end Sys2Proof.Machine

/-! PROOFS. The end of a handler warp (R426), and why the life of teams as stated fails. -/

namespace Sys2Proof.Machine

/-! ### The end of a handler warp (R426) -/

/-- A handler warp that ends: its lanes 0 and 1 stand for lane 0 of fragment 8 and lane 1 of fragment 9, both of warp 0 of team 2. The table of fragments holds
a second entry under number 8, which no lookup sees while the first one stands, and which decides that lane 1 dies. -/
def hiddenFragment : State where
  cur := .warp 1 0
  teams := [(1, { phase := .resident, handler := true, warps := [(0, { origins := [{ frag := 8, lane := 0 }, { frag := 9, lane := 1 }] })] }),
            (2, { phase := .resident, warps := [(0, {})] })]
  frags := [(8, { team := 2, state := .handling, mask := 1 }), (8, { team := 2, state := .handling, mask := 2, decided := [(1, none)] }),
            (9, { team := 2, state := .handling, mask := 2 })]

theorem hiddenFragment_onWarp : hiddenFragment.onWarp 1 0 := ⟨rfl, rfl, rfl⟩

theorem exec_tret_handler {s : State} {t w : Nat} (h : s.onWarp t w) (hh : (s.team t).handler = true) (hq : (s.warp t w).queue = []) :
    exec .tret s = .next (s.endWarp t w) := by
  show warpOnly [] [] s _ = _
  rw [warpOnly_ready _ _ _ h, h.me_eq, if_pos hh, exitInstr, h.1]
  exact if_pos (by simp [hq])

/-- Lane 0's death removes the first entry of fragment 8; the second then resolves, and lane 1 dies by its decision (cause 2). -/
theorem hiddenFragment_death : ((hiddenFragment.endWarp 1 0).warp 2 0).deaths.get 1 0 = 2 := by decide +kernel

/-- Each open origin lane is an undecided lane of its fragment, whose warp exists. -/
theorem hiddenFragment_undecided : ∀ o ∈ (hiddenFragment.warp 1 0).origins,
    (((hiddenFragment.team (hiddenFragment.frag o.frag).team).warps.find (hiddenFragment.frag o.frag).warp).isSome = true) ∧
    (hiddenFragment.frag o.frag).mask.getLsbD o.lane = true ∧ ∀ d ∈ (hiddenFragment.frag o.frag).decided, d.1 ≠ o.lane := by
  decide +kernel

/-- Of the fragments that a lookup finds, fragment 9 alone holds lane 1. -/
theorem hiddenFragment_holder {k : Nat} {G : Frag} (hk : hiddenFragment.frags.find k = some G) (hl : G.mask.getLsbD 1 = true) : k = 9 := by
  rcases Map.mem_of_find hk with _ | ⟨_, _ | ⟨_, _ | ⟨_, ⟨⟩⟩⟩⟩
  · exact absurd hl (by decide)
  · cases (show hiddenFragment.frags.find 8 = some { team := 2, state := .handling, mask := 1 } from rfl).symm.trans hk
  · rfl

/-- Refutes O49 in its last part: where the table of fragments holds one number twice, an undecided origin lane of an ending handler warp can die by the decision of
the hidden entry (cause 2) and not as unresolved (cause 5). -/
theorem not_teamLife : ¬ Obligations.TeamLife := by
  intro h
  obtain ⟨-, -, -, -, -, hret⟩ := h hiddenFragment
  obtain ⟨-, -, hend⟩ := hret 1 0 hiddenFragment_onWarp
  obtain ⟨s', he, -, -, -, hkill⟩ := hend rfl rfl
  obtain rfl : hiddenFragment.endWarp 1 0 = s' := Host.Outcome.next.inj ((exec_tret_handler hiddenFragment_onWarp rfl rfl).symm.trans he)
  obtain ⟨-, hcause⟩ := hkill (by decide) (fun o ho _ => hiddenFragment_undecided o ho) { frag := 9, lane := 1 } (by decide) ⟨rfl, rfl⟩
  have h5 : ((hiddenFragment.endWarp 1 0).warp 2 0).deaths.get 1 0 = 5 := hcause rfl fun k G hk _ _ hl => hiddenFragment_holder hk hl
  rw [hiddenFragment_death] at h5
  exact absurd h5 (by decide)

end Sys2Proof.Machine

/-! PROOFS. Lane blocks, slots, returning loads, register lines and expiring joins (R93, R107, R139, R149, R160, R201). -/

namespace Sys2Proof.Machine

/-! ### Warps that stand in the state -/

theorem warp_of_absent {s : State} {t w : Nat} (h : s.hasWarp t w = false) : s.warp t w = {} := by
  unfold State.hasWarp at h
  unfold State.warp State.team Team.warp Map.get at *
  cases hT : s.teams.find t with
  | none => rfl
  | some T =>
    rw [hT] at h
    cases hW : T.warps.find w with
    | none => simp [hW]
    | some W => simp [hW] at h

/-- A warp that is not as an absent one reads stands in the state. -/
theorem hasWarp_of_ne {s : State} {t w : Nat} (h : s.warp t w ≠ {}) : s.hasWarp t w = true := by
  by_contra hn
  exact h (warp_of_absent (Bool.eq_false_iff.2 hn))

/-! ### The end of a cycle for one warp (R148, R152, R164) -/

theorem Warp.joinsDone_of_empty {W : Warp} (h : W.stack = []) (n : Nat) : W.joinsDone n = W := by
  cases n with
  | zero => rfl
  | succ n => simp [Warp.joinsDone, h, splitComplete]

theorem Warp.blockDone_of_open {W : Warp} (h : ~~~W.dead &&& ~~~W.arrived ≠ 0) : W.blockDone = W := by
  have hopen : (~~~W.dead &&& ~~~W.arrived == 0) = false := beq_eq_false_iff_ne.2 h
  unfold Warp.blockDone
  rw [hopen]
  split <;> simp

theorem Warp.blockDone_of_complete {W : Warp} {k : Block} {r : List Block} (hq : W.queue = k :: r) (hs : W.started = true)
    (hall : ~~~W.dead &&& ~~~W.arrived = 0) (hm : W.midway = false) : W.blockDone.queue = r ∧ W.blockDone.started = false := by
  unfold Warp.blockDone
  rw [hq, hs, hall, hm]
  exact ⟨rfl, rfl⟩

/-- With an empty stack and a lane that neither is dead nor has arrived, the end of a cycle leaves the warp. -/
theorem Warp.settle_of_open {W : Warp} (hstack : W.stack = []) (hopen : ~~~W.dead &&& ~~~W.arrived ≠ 0) : W.settle = W := by
  unfold Warp.settle
  rw [Warp.joinsDone_of_empty hstack, Warp.blockDone_of_open hopen, ite_self]

theorem Path.release_of_no_bar {p : Path} (h : p.bar = none) (n : Nat) : p.release n = p := by
  simp [Path.release, h]

theorem Team.warp_barriersDone {T : Team} {w : Nat} {Q : Warp → Prop} (hrel : ∀ n W, Q W → Q (W.released n)) (h : Q (T.warp w)) : Q (T.barriersDone.warp w) := by
  unfold Team.barriersDone
  generalize T.barriers = l
  induction l generalizing T with
  | nil => exact h
  | cons x l ih =>
    refine ih ?_
    dsimp only
    split
    · exact h
    · exact T.warp_each (f := Warp.released x.1) rfl (hrel _) h

/-- What the end of a cycle makes of a warp of the team, where releases at barriers keep it. -/
theorem warp_settle_once {s : State} {t w : Nat} {Q : Warp → Prop} (hw : s.hasWarp t w = true) (h : Q (s.warp t w).settle)
    (hrel : ∀ n W, Q W → Q (W.released n)) : Q ((s.settle t).warp t w) := by
  simp only [State.hasWarp, Bool.and_eq_true] at hw
  obtain ⟨ht, hwarp⟩ := hw
  obtain ⟨W, hW⟩ := Option.isSome_iff_exists.1 hwarp
  have hwarp : s.warp t w = W := by simp [State.warp, Team.warp, Map.get, hW]
  unfold State.settle State.warp
  rw [State.team_modTeam _ _ _ _ ht, if_pos rfl]
  refine Team.warp_barriersDone hrel ?_
  simpa [Team.warp, Map.get, Map.find_each, hW, ← hwarp] using h

/-! ### The start of a lane block (R93, R135) -/

/-- The path of a block that starts: all live lanes, at the block's index. -/
def Warp.startPath (W : Warp) (k : Block) (now : Nat) : Path := { pc := k.start, m0 := ~~~W.dead, mem := ~~~W.dead, issued := now }

/-- The warp whose block starts, with path `p` in slot A. -/
def Warp.blockStarted (W : Warp) (p : Option Path) : Warp := { W with started := true, a := p, b := none, stack := [], detached := 0, arrived := 0 }

theorem exec_laneBlockStart {s : State} {t w : Nat} {k : Block} {r : List Block} (hq : (s.warp t w).queue = k :: r) (hl : (s.warp t w).life = .running)
    (hs : (s.warp t w).started = false) (hp : (s.team t).phase = .resident) :
    exec (.laneBlockStart t w) s = .next ((s.modWarp t w fun W =>
      W.blockStarted (if ~~~(s.warp t w).dead = 0 then none else some ((s.warp t w).startPath k s.now))).settle t) := by
  show execLaneBlockStart t w s = _
  unfold execLaneBlockStart
  simp only [hq, hl, hs, hp, Bool.not_false, and_self, if_true]
  exact congrArg (fun s : State => Host.Outcome.next (s.settle t)) (State.modWarp_congr _ _ _ _ _ rfl)

theorem exec_laneBlockStart_idle {s : State} {t w : Nat}
    (h : (s.warp t w).queue = [] ∨ (s.warp t w).life ≠ .running ∨ (s.warp t w).started = true ∨ (s.team t).phase ≠ .resident) :
    exec (.laneBlockStart t w) s = .next s := by
  show execLaneBlockStart t w s = _
  unfold execLaneBlockStart
  dsimp only
  split
  · next hq =>
    refine if_neg fun ⟨hl, hs, hp⟩ => ?_
    simp_all
  · rfl

/-- R93: the block's path stands in slot A; the registers stay. -/
theorem blockStart_live {s : State} {t w : Nat} {k : Block} {r : List Block} (hq : (s.warp t w).queue = k :: r) (hd : (s.warp t w).dead ≠ ~~~0) :
    (((s.modWarp t w fun W => W.blockStarted (some ((s.warp t w).startPath k s.now))).settle t).warp t w) =
      (s.warp t w).blockStarted (some ((s.warp t w).startPath k s.now)) := by
  have hW : s.hasWarp t w = true := hasWarp_of_ne fun h => by rw [h] at hq; cases hq
  have hopen : ~~~(s.warp t w).dead &&& ~~~(0 : Half) ≠ 0 := fun h => by
    rw [show ~~~(0 : Half) = BitVec.allOnes 32 from rfl, BitVec.and_allOnes] at h
    exact hd (by rw [← h, BitVec.not_not])
  refine warp_settle (P := fun W => W = (s.warp t w).blockStarted (some ((s.warp t w).startPath k s.now))) (fun W h => ?_) (fun n W h => ?_) ?_
  · rw [h]
    exact Warp.settle_of_open rfl hopen
  · rw [h, Warp.released]
    simp only [Warp.blockStarted, Option.map_some, Option.map_none]
    rw [Path.release_of_no_bar rfl]
  · exact State.warp_modWarp_self s t w _ hW

/-- R93, R152: a block whose lanes are all dead completes at once, and the next one does not start. -/
theorem blockStart_dead {s : State} {t w : Nat} {k : Block} {r : List Block} (hq : (s.warp t w).queue = k :: r) (hl : (s.warp t w).life = .running)
    (hd : (s.warp t w).dead = ~~~0) (hm : (s.warp t w).midway = false) :
    (((s.modWarp t w fun W => W.blockStarted none).settle t).warp t w).queue = r ∧
      (((s.modWarp t w fun W => W.blockStarted none).settle t).warp t w).started = false := by
  have hW : s.hasWarp t w = true := hasWarp_of_ne fun h => by rw [h] at hq; cases hq
  have hdone : ((s.warp t w).blockStarted none).settle.queue = r ∧ ((s.warp t w).blockStarted none).settle.started = false := by
    have hlive : ((s.warp t w).blockStarted none).life = .running := hl
    unfold Warp.settle
    rw [if_pos hlive, Warp.joinsDone_of_empty rfl]
    exact Warp.blockDone_of_complete hq rfl (by show ~~~(s.warp t w).dead &&& ~~~0 = 0; rw [hd]; rfl) hm
  exact warp_settle_once (Q := fun W => W.queue = r ∧ W.started = false) ((State.hasWarp_modWarp ..).trans hW)
    (by rw [State.warp_modWarp_self s t w _ hW]; exact hdone) fun _ _ h => h

/-! ### A slot takes work (R139, R160) -/

theorem exec_slotTakesWork_idle {s : State} {t w : Nat} {b : Bool} (h : ((s.warp t w).path b).isSome = true) : exec (.slotTakesWork t w b) s = .next s := by
  show execSlotTakesWork t w b s = _
  exact if_pos (.inl h)

/-- The path with which a READY fragment resumes (R160). -/
def State.resumed (s : State) (F : Frag) (dead : Half) : Path :=
  { pc := F.resume, m0 := F.mask &&& ~~~F.idle &&& ~~~dead, mem := F.mask &&& ~~~dead, join := F.join, issued := s.now }

/-- The state in which a leader's trailer has taken the registers of the lanes that resume (R430). -/
def State.trailed (s : State) (t w : Nat) (F : Frag) : State :=
  if (s.team t).shadow then s.modTeam t fun T => { T with trailers := T.trailers.mod w fun R => R.resume (s.warp t w) F.mask } else s

theorem hasWarp_trailed (s : State) (t w : Nat) (F : Frag) :
    (s.trailed t w F).hasWarp t w = s.hasWarp t w := by
  unfold State.trailed
  split
  · exact hasWarp_modTeam (f := fun T => { T with trailers := T.trailers.mod w fun R => R.resume (s.warp t w) F.mask }) fun _ => rfl
  · rfl

section FreeSlot
variable {s : State} {t w : Nat} {b : Bool} (hb : (s.warp t w).path b = none) (hl : (s.warp t w).life = .running)
  (hs : (s.warp t w).started = true) (hp : (s.team t).phase = .resident)
include hb hl hs hp

/-- A free slot of a running block takes the topmost PART entry, else a READY fragment. -/
theorem exec_slotTakesWork_part {p : Path} {st : List Entry} (htake : takePart (s.warp t w).stack = some (p, st)) : exec (.slotTakesWork t w b) s =
    .next (s.modWarp t w fun V => { V with stack := st }.setPath b (some { p with issued := s.now })) := by
  show execSlotTakesWork t w b s = _
  simp [execSlotTakesWork, hb, hl, hs, hp, htake]

theorem exec_slotTakesWork_none (htake : takePart (s.warp t w).stack = none) (hready : s.readyFrag t w = none) :
    exec (.slotTakesWork t w b) s = .next s := by
  show execSlotTakesWork t w b s = _
  simp [execSlotTakesWork, hb, hl, hs, hp, htake, hready]

theorem slotTakesWork_frag {k : Nat} (htake : takePart (s.warp t w).stack = none) (hready : s.readyFrag t w = some k) :
    Runs (.slotTakesWork t w b) s fun s' =>
      s'.frags.find k = none ∧ (s'.warp t w).path b = some (s.resumed (s.frag k) (s.warp t w).dead) := by
  have hW : s.hasWarp t w = true := hasWarp_of_ne fun h => by rw [h] at hs; cases hs
  refine ⟨{ (s.trailed t w (s.frag k)).modWarp t w (fun W => W.setPath b (some (s.resumed (s.frag k) (s.warp t w).dead))) with
      frags := (s.trailed t w (s.frag k)).frags.del k }, ?_, ?_, ?_⟩
  · show execSlotTakesWork t w b s = _
    simp only [execSlotTakesWork, hb, hl, hs, hp, htake, hready, Option.isSome_none, Bool.not_true, Bool.false_eq_true, ne_eq, not_true, or_self, if_false]
    rfl
  · rw [Map.find_del, if_pos rfl]
  · exact (congrArg (Warp.path · b) (State.warp_modWarp_self _ t w _ ((hasWarp_trailed ..).trans hW))).trans (Warp.path_setPath ..)

end FreeSlot

/-! ### The data of loads returns (R201, R206) -/

theorem corrects_teams (s : State) (struct set way : Nat) : (s.corrects struct set way).teams = s.teams := by
  unfold State.corrects State.event
  rfl

/-- R206: a use of the L1 touches no team. -/
theorem l1Use_teams (s : State) (die core space va pa : Nat) (a na : Bool) : (s.l1Use die core space va pa a na).teams = s.teams := by
  unfold State.l1Use
  split
  · rfl
  · dsimp only
    split
    · split
      · rfl
      · exact corrects_teams ..
    · split
      · rfl
      · have hway := congrArg State.teams (wayFor_ctr s ((s.die die).l1.get core []) 0 (64 * die + core) (Config.setIndex 0 space (va / 128) % Config.cacheSets 0))
        split <;> exact hway

theorem exec_loadDataReturn_idle {s : State} {t w : Nat} {b : Bool} (h : (s.warp t w).path b = none) : exec (.loadDataReturn t w b) s = .next s := by
  show execLoadDataReturn t w b s = _
  simp [execLoadDataReturn, h]

/-- R201: of a path with one load, whose data has come, the event writes the register and clears the board. -/
theorem loadDataReturn_one {s : State} {t w : Nat} {b : Bool} {p : Path} {l r : Nat} {v : Half} {ln : Option (Nat × Nat × Nat × Bool)}
    (hp : (s.warp t w).path b = some p) (hboard : p.board = [{ lane := l, req := none, regs := [(r, v)], line := ln }]) :
    ∃ s1 : State, s1.teams = s.teams ∧ exec (.loadDataReturn t w b) s = .next (s1.modWarp t w fun W =>
      (W.setV r l v).setPath b (some { p with board := [] })) := by
  let s1 : State := match ln with
    | some (space, va, pa, na) => s.l1Use (s.team t).die (s.team t).core space va pa false na
    | none => s
  have hteams : s1.teams = s.teams := by
    unfold s1
    split
    · exact l1Use_teams ..
    · rfl
  refine ⟨s1, hteams, ?_⟩
  have hland : ∀ W, Warp.landed W p = W.setV r l v := fun W => by rw [Warp.landed, hboard]; rfl
  have hwarp : s1.warp t w = s.warp t w := warp_of_teams hteams t w
  calc exec (.loadDataReturn t w b) s
      = .next ((s1.modWarp t w (·.landed p)).modPath t w b fun p => { p with board := p.board.filter fun x => x.req.isSome }) := by
        show execLoadDataReturn t w b s = _
        simp only [execLoadDataReturn, hp, hboard, List.foldl_cons, List.foldl_nil]
        cases ln <;> rfl
    _ = _ := by
        refine congrArg Host.Outcome.next ?_
        unfold State.modPath
        rw [State.modWarp_modWarp]
        refine State.modWarp_congr _ _ _ _ _ ?_
        have hpath : ((s.warp t w).setV r l v).path b = some p := by rw [← hp]; cases b <;> rfl
        rw [hwarp, hland, hpath, Option.map_some, hboard]
        rfl

/-! ### A line comes into the register cache (R107) -/

/-- What the program sees of the warps, and the dies, are the same in both states: only which lines are present may differ. -/
structure SameRegisters (s s' : State) : Prop where
  lanes : ∀ u x, (s'.warp u x).v = (s.warp u x).v
  scalars : ∀ u x, (s'.warp u x).s = (s.warp u x).s
  masks : ∀ u x, (s'.warp u x).m = (s.warp u x).m
  dies : s'.dies = s.dies

theorem SameRegisters.trans {s s' s'' : State} (h : SameRegisters s s') (g : SameRegisters s' s'') : SameRegisters s s'' :=
  ⟨fun u x => (g.lanes u x).trans (h.lanes u x), fun u x => (g.scalars u x).trans (h.scalars u x), fun u x => (g.masks u x).trans (h.masks u x),
    g.dies.trans h.dies⟩

theorem sameRegisters_modCold (s : State) (t w : Nat) (f : Warp → List Nat) : SameRegisters s (s.modWarp t w fun W => { W with cold := f W }) where
  lanes u x := warp_modWarp_pred (P := fun W => W.v = (s.warp u x).v) (fun _ h => h) rfl
  scalars u x := warp_modWarp_pred (P := fun W => W.s = (s.warp u x).s) (fun _ h => h) rfl
  masks u x := warp_modWarp_pred (P := fun W => W.m = (s.warp u x).m) (fun _ h => h) rfl
  dies := rfl

theorem sameRegisters_choose (s : State) (n : Nat) : SameRegisters s (s.choose n).2 := by
  obtain ⟨c, hc⟩ := choose_ctr s n
  exact hc ▸ ⟨fun _ _ => rfl, fun _ _ => rfl, fun _ _ => rfl, rfl⟩

theorem State.warp_modWarp_of_ne (s : State) (t : Nat) {w x : Nat} (f : Warp → Warp) (h : x ≠ w) : (s.modWarp t w f).warp t x = s.warp t x := by
  unfold State.warp State.team Map.get Team.warp Map.get State.modWarp
  rw [State.find_modTeam, if_pos rfl]
  cases s.teams.find t with
  | none => rfl
  | some T => exact congrArg (Option.getD · {}) ((Team.find_modWarp T w x f).trans (if_neg h))

/-- A line that leaves is none of those that the fill keeps. -/
theorem not_mem_present {T : Team} {w v : Nat} {keep : List Nat} (h : v ∈ keep) : (w, v) ∉ T.present w keep := by
  unfold Team.present
  simp only [List.mem_flatMap, not_exists, not_and]
  intro x _ hmem
  split at hmem
  · cases hmem
  · simp only [List.mem_map, List.mem_filter, Prod.mk.injEq] at hmem
    obtain ⟨y, ⟨-, hy⟩, hxw, rfl⟩ := hmem
    simp [hxw, h] at hy

theorem fillReg_fills {s : State} {t w v : Nat} (hw : s.hasWarp t w = true) (keep : List Nat) :
    v ∉ ((s.fillReg t w v keep).warp t w).cold ∧ SameRegisters s (s.fillReg t w v keep) := by
  have hfilled := sameRegisters_modCold s t w fun W => W.cold.filter (· != v)
  have hcold : v ∉ ((s.modWarp t w fun W => { W with cold := W.cold.filter (· != v) }).warp t w).cold := by
    rw [State.warp_modWarp_self _ _ _ _ hw]
    simp
  unfold State.fillReg
  dsimp only
  split
  · exact ⟨hcold, hfilled⟩
  · generalize hs1 : (s.modWarp t w fun W => { W with cold := W.cold.filter (· != v) }) = s1 at *
    obtain ⟨c, hc⟩ := choose_ctr s1 ((s.team t).present w (v :: keep)).length
    have hchosen : v ∉ ((s1.choose ((s.team t).present w (v :: keep)).length).2.warp t w).cold := by rw [hc]; exact hcold
    have hkept := hfilled.trans (sameRegisters_choose s1 ((s.team t).present w (v :: keep)).length)
    split
    · next u x hout =>
      refine ⟨?_, hkept.trans (sameRegisters_modCold _ t u fun W => x :: W.cold)⟩
      by_cases hu : w = u
      · subst hu
        have hmem : (w, x) ∈ (s.team t).present w (v :: keep) := List.mem_of_getElem? hout
        have hx : v ≠ x := fun h => not_mem_present (List.mem_cons_self ..) (h ▸ hmem)
        exact warp_modWarp_pred (P := fun W => v ∉ W.cold) (fun W hW => by simp [hx, hW]) hchosen
      · rwa [State.warp_modWarp_of_ne _ _ _ hu]
    · exact ⟨hchosen, hkept⟩

/-- R107: the fill keeps the lines that the words at the warp's paths name. -/
theorem exec_regcacheFillDone {s : State} {t w v : Nat} (h : v ∈ (s.warp t w).cold) :
    ∃ keep, exec (.regcacheFillDone t w v) s = .next (s.fillReg t w v keep) :=
  ⟨_, if_neg (by simpa using h)⟩

theorem regcacheFillDone_fills {s : State} {t w v : Nat} (h : v ∈ (s.warp t w).cold) : Runs (.regcacheFillDone t w v) s fun s' =>
    v ∉ (s'.warp t w).cold ∧ SameRegisters s s' := by
  have hw : s.hasWarp t w = true := hasWarp_of_ne fun h0 => by rw [h0] at h; cases h
  obtain ⟨keep, he⟩ := exec_regcacheFillDone h
  exact ⟨_, he, fillReg_fills hw keep⟩

theorem exec_regcacheFillDone_idle {s : State} {t w v : Nat} (h : v ∉ (s.warp t w).cold) : exec (.regcacheFillDone t w v) s = .next s := by
  show execRegcacheFillDone t w v s = _
  exact if_pos (by simpa using h)

/-! ### A join expires (R149, R150) -/

/-- The path that a JOIN entry with the arrived lanes releases. -/
def joinPath (j : Nat) (ar : Half) : Path := { pc := j + 1, m0 := ar, mem := ar }

theorem Warp.setMask_eq (W : Warp) (k : Nat) (ls val : Half) : W.setMask k ls val = { W with m := (W.setMask k ls val).m } := by
  unfold Warp.setMask; split <;> rfl

/-- What stands when the only JOIN entry of a warp with a free slot A has expired. -/
structure Warp.Expired (W V : Warp) (j : Nat) (e ar : Half) (k : Nat) : Prop where
  a : V.a = some (joinPath j ar)
  stack : V.stack = []
  detached : V.detached = W.detached ||| e
  m : V.m = (W.setMask k ar (~~~0)).m
  dead : V.dead = W.dead
  arrived : V.arrived = W.arrived

theorem Warp.expired_of_place {W X : Warp} {j k : Nat} {e ar : Half} (ha : X.a = none) (hdet : X.detached = W.detached ||| e) (hm : X.m = W.m)
    (hdead : X.dead = W.dead) (harr : X.arrived = W.arrived) (har : ar ≠ 0) :
    W.Expired ((X.setMask k ar (~~~0)).place (joinPath j ar) [] []) j e ar k := by
  have hmask : (X.setMask k ar (~~~0)).m = (W.setMask k ar (~~~0)).m := by
    unfold Warp.setMask
    split
    · exact hm
    · rw [hm]
  have hmem : (joinPath j ar).mem ≠ 0 := har
  rw [X.setMask_eq, hmask]
  unfold Warp.place
  rw [if_neg hmem, if_pos (by simp [ha])]
  exact ⟨rfl, rfl, hdet, rfl, hdead, harr⟩

theorem Warp.expire_one {W : Warp} {id j : Nat} {e ar : Half} {o : Option Nat} {dl k : Nat} (hst : W.stack = [.join id j e ar o (some dl) k])
    (ha : W.a = none) (har : ar ≠ 0) : W.Expired (W.expire id).1 j e ar k := by
  unfold Warp.expire
  simp only [hst, List.findSome?_cons, if_true, List.map_cons, List.map_nil, List.takeWhile_cons, List.dropWhile_cons, bne_self_eq_false,
    Bool.false_eq_true, if_false, List.drop_one, List.tail_cons]
  exact expired_of_place (by simp [ha]) rfl rfl rfl rfl har

/-- The masks after the expiry: the arrived lanes are set in mask `k`. -/
theorem Warp.get_setMask (W : Warp) {k i : Nat} (ls val : Half) (hi : i ≠ 0) :
    (W.setMask k ls val).m.get i 0 = if i = k then W.m.get i 0 &&& ~~~ls ||| val &&& ls else W.m.get i 0 := by
  unfold Warp.setMask
  split
  · next hk => rw [if_neg (by omega)]
  · rw [Map.get_put]
    split
    · next h => rw [h]
    · rfl

/-- The end of a cycle leaves a warp whose join has expired and whose block goes on. -/
theorem Warp.Expired.settle {W V : Warp} {j k : Nat} {e ar : Half} (h : W.Expired V j e ar k) (hopen : ~~~W.dead &&& ~~~W.arrived ≠ 0) :
    W.Expired V.settle j e ar k := by
  rwa [Warp.settle_of_open h.stack (by rwa [h.dead, h.arrived])]

theorem Warp.Expired.released {W V : Warp} {j k : Nat} {e ar : Half} (h : W.Expired V j e ar k) (n : Nat) : W.Expired (V.released n) j e ar k where
  a := by
    show V.a.map (Path.release n) = _
    rw [h.a, Option.map_some, Path.release_of_no_bar rfl]
  stack := h.stack
  detached := h.detached
  m := h.m
  dead := h.dead
  arrived := h.arrived

/-- No JOIN entry of this number is due. -/
theorem exec_joinExpiry_early {s : State} {t w id : Nat}
    (h : ∀ j e ar o dl k, Entry.join id j e ar o (some dl) k ∈ (s.warp t w).stack → (s.die (s.team t).die).cycles < dl) :
    exec (.joinExpiry t w id) s = .next s := by
  show execJoinExpiry t w id s = _
  unfold execJoinExpiry
  refine if_pos ?_
  simp only [Bool.or_eq_true, Bool.not_eq_true', List.any_eq_false]
  refine .inl (.inl fun x hx => ?_)
  split
  · next i j e ar o dl k =>
    rw [Bool.and_eq_true, beq_iff_eq, decide_eq_true_eq]
    rintro ⟨rfl, hdl⟩
    exact absurd hdl (Nat.not_le.2 (h j e ar o dl k hx))
  · exact Bool.false_ne_true

/-- The only JOIN entry of a running warp expires when its deadline has come: the warp goes on without it, and so do its fragments. -/
theorem exec_joinExpiry_due {s : State} {t w id j : Nat} {e ar : Half} {o : Option Nat} {dl k : Nat}
    (hst : (s.warp t w).stack = [.join id j e ar o (some dl) k]) (hdue : dl ≤ (s.die (s.team t).die).cycles) (hlive : s.warpLive t w = true)
    (hp : (s.team t).phase = .resident) : ∃ l : Map Frag,
      exec (.joinExpiry t w id) s = .next ({ s.modWarp t w fun _ => ((s.warp t w).expire id).1 with frags := l }.settle t) :=
  ⟨_, if_neg (by simp [hst, hdue, hlive, hp])⟩

/-- R149: the arrived lanes go on after the join's deadline, and those that are expected still are detached. -/
theorem joinExpiry_one {s : State} {t w id j : Nat} {e ar : Half} {o : Option Nat} {dl k : Nat} (hst : (s.warp t w).stack = [.join id j e ar o (some dl) k])
    (hdue : dl ≤ (s.die (s.team t).die).cycles) (hlive : s.warpLive t w = true) (hp : (s.team t).phase = .resident) (ha : (s.warp t w).a = none)
    (har : ar ≠ 0) (hopen : ~~~(s.warp t w).dead &&& ~~~(s.warp t w).arrived ≠ 0) :
    Runs (.joinExpiry t w id) s fun s' => (s.warp t w).Expired (s'.warp t w) j e ar k := by
  have hW : s.hasWarp t w = true := State.hasWarp_of_live hlive
  obtain ⟨l, he⟩ := exec_joinExpiry_due hst hdue hlive hp
  refine .of_eq he (warp_settle (P := fun V => (s.warp t w).Expired V j e ar k) (fun V hV => hV.settle hopen) (fun n V hV => hV.released n) ?_)
  show (s.warp t w).Expired ((s.modWarp t w fun _ => ((s.warp t w).expire id).1).warp t w) j e ar k
  rw [State.warp_modWarp_self s t w _ hW]
  exact Warp.expire_one hst ha har

end Sys2Proof.Machine

/-! PROOFS. Pages that come and translation replies (R159, R182, R199). -/

namespace Sys2Proof.Machine

/-! ### A change of every team -/

/-- What holds between every warp of a team and what a change of the team makes of it holds between the warps of the states. -/
theorem warp_teams_each {s s' : State} {g : Nat → Team → Team} {R : Warp → Warp → Prop} {w : Nat} (hs : s'.teams = s.teams.each g)
    (hR : ∀ k T, R (T.warp w) ((g k T).warp w)) (h0 : R {} {}) (t : Nat) : R (s.warp t w) (s'.warp t w) := by
  unfold State.warp State.team
  simp only [Map.get]
  rw [hs, Map.find_each]
  cases s.teams.find t with
  | none => exact h0
  | some T => exact hR t T

theorem warp_warps_each {T T' : Team} {f : Nat → Warp → Warp} {R : Warp → Warp → Prop} {w : Nat} (hT : T'.warps = T.warps.each f)
    (hR : ∀ k W, R W (f k W)) (h0 : R {} {}) : R (T.warp w) (T'.warp w) := by
  simp only [Team.warp, Map.get]
  rw [hT, Map.find_each]
  cases T.warps.find w with
  | none => exact h0
  | some W => exact hR w W

/-- The registers, and the scalar stream's place, are those of the other warp. -/
structure Warp.SamePlace (W V : Warp) : Prop where
  s : V.s = W.s
  v : V.v = W.v
  spc : V.spc = W.spc

theorem Warp.SamePlace.refl (W : Warp) : W.SamePlace W := ⟨rfl, rfl, rfl⟩

theorem Warp.SamePlace.trans {W V U : Warp} (h : W.SamePlace V) (g : V.SamePlace U) : W.SamePlace U :=
  ⟨g.s.trans h.s, g.v.trans h.v, g.spc.trans h.spc⟩

/-- A change of the asks of a warp's streams. -/
def Warp.mapAsks (W : Warp) (g : List Ask → List Ask) : Warp :=
  { W with asks := g W.asks, a := W.a.map fun p => { p with asks := g p.asks }, b := W.b.map fun p => { p with asks := g p.asks } }

theorem modAsks_warps (T : Team) (g : List Ask → List Ask) : (T.modAsks g).warps = T.warps.each fun _ W => W.mapAsks g := rfl

/-- A change of asks touches no register and no wait. -/
theorem modAsks_warp (T : Team) (g : List Ask → List Ask) (w : Nat) :
    (T.warp w).SamePlace ((T.modAsks g).warp w) ∧ ((T.modAsks g).warp w).wait = (T.warp w).wait :=
  warp_warps_each (R := fun W V => W.SamePlace V ∧ V.wait = W.wait) (modAsks_warps T g) (fun _ _ => ⟨⟨rfl, rfl, rfl⟩, rfl⟩) ⟨.refl _, rfl⟩

/-! ### An absent page has come (R159, R199) -/

/-- A team of an address space one of whose pages has come: its streams wait for it no more, and asks it answered ABSENT are made anew (`clear`). -/
def Team.pageCame (T : Team) (sp page : Nat) (clear : List Ask → List Ask) : Team :=
  let T := if T.space = sp then T.modAsks clear else T
  { T with warps := T.warps.each fun _ W => { W with wait := W.wait.present sp page }, seq := { T.seq with wait := T.seq.wait.present sp page } }

/-- A fragment that waits for the page resumes, where its warp and its Tin leaf run (R159, R403, R410). -/
def State.fragPageCame (s : State) (sp page k : Nat) (F : Frag) : Frag :=
  if F.state = .parked ∧ s.fragLive k ∧ s.leafRuns F ∧ (F.cause = 1 ∨ F.cause = 11) ∧ F.detail = 1 ∧ F.addr / 4096 = page ∧ (s.team F.team).space = sp then
    { F with state := .ready, resume := F.pc }
  else F

/-- A copy that has found the page absent goes on (R199). -/
def Copy.pageCame (c : Copy) (d asid page : Nat) : Copy := if c.die = d ∧ c.asid = asid ∧ c.absent = some page then { c with absent := none } else c

/-- The states of all teams, fragments and copies once the page has come. -/
def State.pageCame (s : State) (d asid page : Nat) (clear : List Ask → List Ask) : State :=
  { s with
    teams := s.teams.each fun _ T => T.pageCame (d * 4096 + asid) page clear
    frags := s.frags.each (s.fragPageCame (d * 4096 + asid) page)
    copies := s.copies.each fun _ c => c.pageCame d asid page }

theorem exec_demandPageResolved_absent {s : State} {d asid page : Nat}
    (h : walk (s.die d) (d * 4096 + asid) (page * 4096) (s.txn (d * 4096 + asid) (page * 4096)) = .error cABSENT) :
    exec (.demandPageResolved d asid page) s = .next s := by
  show execDemandPageResolved d asid page s = _
  unfold execDemandPageResolved
  dsimp only
  rw [h]
  rfl

theorem exec_demandPageResolved {s : State} {d asid page : Nat}
    (h : walk (s.die d) (d * 4096 + asid) (page * 4096) (s.txn (d * 4096 + asid) (page * 4096)) ≠ .error cABSENT)
    (hseq : ∀ x ∈ s.teams, x.2.seq.restart = none) :
    ∃ clear, exec (.demandPageResolved d asid page) s = .next (s.pageCame d asid page clear) := by
  have hwakes : ∀ f : Nat × Team → Option Nat, (∀ x, x.2.seq.restart = none → f x = none) → s.teams.filterMap f = [] := fun f hf =>
    List.filterMap_eq_nil_iff.2 fun x hx => hf x (hseq x hx)
  refine ⟨fun l => l.filter fun a => !(a.space == d * 4096 + asid && a.page == page && a.answer == some cABSENT), ?_⟩
  show execDemandPageResolved d asid page s = _
  unfold execDemandPageResolved
  dsimp only
  rw [hwakes]
  · split
    · next hw => exact absurd hw h
    · rfl
  · intro x hx
    simp [hx]

theorem Team.warp_pageCame (T : Team) (sp page : Nat) (clear : List Ask → List Ask) (w : Nat) :
    (T.warp w).SamePlace ((T.pageCame sp page clear).warp w) ∧ ((T.pageCame sp page clear).warp w).wait = (T.warp w).wait.present sp page := by
  have hclear : (T.warp w).SamePlace ((if T.space = sp then T.modAsks clear else T).warp w) ∧
      ((if T.space = sp then T.modAsks clear else T).warp w).wait = (T.warp w).wait := by
    split
    · exact modAsks_warp T clear w
    · exact ⟨.refl _, rfl⟩
  obtain ⟨hsame, hwait⟩ := hclear
  obtain ⟨hsame', hwait'⟩ := warp_warps_each (T' := T.pageCame sp page clear) (w := w) (R := fun W V => W.SamePlace V ∧ V.wait = W.wait.present sp page)
    (f := fun _ W => { W with wait := W.wait.present sp page }) rfl (fun _ _ => ⟨⟨rfl, rfl, rfl⟩, rfl⟩) ⟨.refl _, rfl⟩
  exact ⟨hsame.trans hsame', hwait'.trans (congrArg _ hwait)⟩

theorem pageCame_warp (s : State) (d asid page : Nat) (clear : List Ask → List Ask) (t w : Nat) :
    (s.warp t w).SamePlace ((s.pageCame d asid page clear).warp t w) ∧
      ((s.pageCame d asid page clear).warp t w).wait = (s.warp t w).wait.present (d * 4096 + asid) page :=
  warp_teams_each (R := fun W V => W.SamePlace V ∧ V.wait = W.wait.present (d * 4096 + asid) page) (g := fun _ T => T.pageCame (d * 4096 + asid) page clear) rfl
    (fun _ T => T.warp_pageCame _ _ _ w) ⟨.refl _, rfl⟩ t

theorem pageCame_frag {s : State} {d asid page k : Nat} {F : Frag} (clear : List Ask → List Ask) (hk : s.frags.find k = some F) (hs : F.state = .parked)
    (hc : F.cause = 1 ∨ F.cause = 11) (hd : F.detail = 1) (ha : F.addr / 4096 = page) (hsp : (s.team F.team).space = d * 4096 + asid) :
    (s.pageCame d asid page clear).frags.find k = some (if s.fragLive k && s.leafRuns F then { F with state := .ready, resume := F.pc } else F) := by
  show (s.frags.each (s.fragPageCame (d * 4096 + asid) page)).find k = _
  rw [Map.find_each, hk, Option.map_some, State.fragPageCame]
  simp [hs, hc, hd, ha, hsp]

theorem pageCame_copy {s : State} {d asid page k : Nat} {c : Copy} (clear : List Ask → List Ask) (hk : s.copies.find k = some c) (hd : c.die = d)
    (has : c.asid = asid) (hp : c.absent = some page) : (s.pageCame d asid page clear).copies.find k = some { c with absent := none } := by
  show (s.copies.each fun _ c => c.pageCame d asid page).find k = _
  rw [Map.find_each, hk, Option.map_some, Copy.pageCame, if_pos ⟨hd, has, hp⟩]

/-! ### Asks and their answers (R182) -/

/-- An ask of the page and of the kind takes the answer. -/
def Ask.take (space page : Nat) (store : Bool) (ans : Nat) (b : Ask) : Ask :=
  if b.space = space ∧ b.page = page ∧ b.store = store then { b with answer := some ans } else b

theorem allAsks_modAsks (T : Team) (f : Ask → Ask) : (T.modAsks (·.map f)).allAsks = T.allAsks.map f := by
  have hwarp : ∀ W : Warp, (W.mapAsks (·.map f)).asks ++ (((W.mapAsks (·.map f)).a.map (·.asks)).getD []) ++ (((W.mapAsks (·.map f)).b.map (·.asks)).getD []) =
      (W.asks ++ ((W.a.map (·.asks)).getD []) ++ ((W.b.map (·.asks)).getD [])).map f := fun W => by
    simp only [Warp.mapAsks, List.map_append]
    cases W.a <;> cases W.b <;> rfl
  unfold Team.allAsks
  rw [modAsks_warps, List.map_append, List.map_flatten]
  refine congrArg (T.seq.asks.map f ++ ·) (congrArg List.flatten ?_)
  simp only [Map.each, List.map_map]
  exact List.map_congr_left fun x _ => hwarp x.2

/-- The answer that the base die gives to asks of a page (R187, R190). -/
def State.answerFor (s : State) (sp va : Nat) : Nat := match (s.translate sp va).1 with | .ok _ => 0 | .error e => e

/-- The asks of a core for the page take the base die's answer; nothing else of the teams changes. -/
theorem reply_teams (s : State) (d c : Nat) (a : Ask) : (s.reply d c a).teams = s.teams.each fun _ T =>
    if T.die = d ∧ T.core = c then
      T.modAsks (·.map (Ask.take a.space a.page a.store (s.answerFor a.space (a.page * 4096 + 128 * a.stack))))
    else T := by
  have hteams := (sameTeams_translate s a.space (a.page * 4096 + 128 * a.stack)).teams
  unfold State.reply State.answerFor
  rcases htr : s.translate a.space (a.page * 4096 + 128 * a.stack) with ⟨r, s1⟩
  rw [htr] at hteams
  rw [← (hteams : s1.teams = s.teams)]
  cases r <;> rfl

/-- The teams of a core that a translation reply is for, with the asks of one page that it is for (R182). -/
structure ReplyTo where
  die : Nat
  core : Nat
  asid : Nat
  page : Nat
  store : Bool

def ReplyTo.mine (R : ReplyTo) (a : Ask) : Prop := a.space % 4096 = R.asid ∧ a.page = R.page ∧ a.store = R.store

/-- The ask is one of those that the reply is for. -/
def ReplyTo.asked (R : ReplyTo) (s : State) (a : Ask) : Prop :=
  ∃ x ∈ s.teams, x.2.die = R.die ∧ x.2.core = R.core ∧ a ∈ x.2.allAsks ∧ R.mine a

/-- The asks that stand after an answer for space `sp` are those before, with the answer where they are for that space. -/
theorem ReplyTo.asked_reply {R : ReplyTo} {s : State} {sp va : Nat} {b : Ask}
    (h : R.asked (s.reply R.die R.core { space := sp, page := R.page, store := R.store, stack := va }) b) :
    ∃ a, R.asked s a ∧ b = a.take sp R.page R.store (s.answerFor sp (R.page * 4096 + 128 * va)) := by
  obtain ⟨x, hx, hd, hc, hb, hm⟩ := h
  rw [reply_teams] at hx
  obtain ⟨T, hT, hxT⟩ := mem_each hx
  have hTd : T.die = R.die ∧ T.core = R.core := by
    rw [hxT] at hd hc
    split at hd
    · assumption
    · next hne =>
      rw [if_neg hne] at hc
      exact ⟨hd, hc⟩
  rw [hxT, if_pos hTd, allAsks_modAsks] at hb
  obtain ⟨a, ha, rfl⟩ := List.mem_map.1 hb
  refine ⟨a, ⟨_, hT, hTd.1, hTd.2, ha, ?_⟩, rfl⟩
  have htake : ∀ v, (a.take sp R.page R.store v).space = a.space ∧ (a.take sp R.page R.store v).page = a.page ∧
      (a.take sp R.page R.store v).store = a.store := fun v => by
    unfold Ask.take
    split <;> exact ⟨rfl, rfl, rfl⟩
  obtain ⟨hspace, hpage, hstore⟩ := htake (s.answerFor sp (R.page * 4096 + 128 * va))
  unfold ReplyTo.mine at hm ⊢
  rwa [hspace, hpage, hstore] at hm

theorem mem_setIns {k x : Nat} {l : List Nat} : x ∈ setIns k l ↔ x = k ∨ x ∈ l := by
  induction l with
  | nil => simp [setIns]
  | cons j r ih =>
    unfold setIns
    split
    · simp
    · split
      · next h => simp [h]
      · rw [List.mem_cons, ih, List.mem_cons]
        tauto

theorem mem_foldl_setIns {x : Nat} (l a : List Nat) : x ∈ l.foldl (fun a x => setIns x a) a ↔ x ∈ l ∨ x ∈ a := by
  induction l generalizing a with
  | nil => simp
  | cons y l ih =>
    rw [List.foldl_cons, ih, mem_setIns, List.mem_cons]
    tauto

/-- One number, as often as it may stand in the list, is a set of one number. -/
theorem foldl_setIns_const {sp : Nat} {l : List Nat} (hl : l ≠ []) (h : ∀ x ∈ l, x = sp) : l.foldl (fun a x => setIns x a) [] = [sp] := by
  have hstep : ∀ l : List Nat, (∀ x ∈ l, x = sp) → l.foldl (fun a x => setIns x a) [sp] = [sp] := fun l => by
    induction l with
    | nil => exact fun _ => rfl
    | cons x l ih =>
      intro hx
      rw [List.foldl_cons, hx x List.mem_cons_self, show setIns sp [sp] = [sp] by simp [setIns]]
      exact ih fun y hy => hx y (List.mem_cons_of_mem _ hy)
  cases l with
  | nil => exact absurd rfl hl
  | cons x l =>
    rw [List.foldl_cons, h x List.mem_cons_self]
    exact hstep l fun y hy => h y (List.mem_cons_of_mem _ hy)

/-- One reply for each space of a list. -/
def ReplyTo.run (R : ReplyTo) (stack : Nat) (l : List Nat) (s : State) : State :=
  l.foldl (fun s sp => s.reply R.die R.core { space := sp, page := R.page, store := R.store, stack := stack }) s

theorem reply_samePlace (s : State) (d c : Nat) (a : Ask) (t w : Nat) : (s.warp t w).SamePlace ((s.reply d c a).warp t w) :=
  warp_teams_each (reply_teams s d c a) (fun _ T => by
    split
    · exact (modAsks_warp T _ w).1
    · exact .refl _) (.refl _) t

theorem ReplyTo.run_samePlace (R : ReplyTo) (stack : Nat) (l : List Nat) (s : State) (t w : Nat) : (s.warp t w).SamePlace ((R.run stack l s).warp t w) := by
  unfold ReplyTo.run
  induction l generalizing s with
  | nil => exact .refl _
  | cons sp l ih => exact (reply_samePlace ..).trans (ih _)

/-- Once the spaces of all unanswered asks have had their reply, every ask is answered. -/
theorem ReplyTo.run_answers {R : ReplyTo} {stack : Nat} {l : List Nat} {s : State} (h : ∀ a, R.asked s a → a.answer = none → a.space ∈ l) {b : Ask}
    (hb : R.asked (R.run stack l s) b) : b.answer.isSome = true := by
  induction l generalizing s with
  | nil =>
    cases ha : b.answer with
    | none => exact absurd (h b hb ha) List.not_mem_nil
    | some v => rfl
  | cons sp l ih =>
    refine ih (s := s.reply R.die R.core { space := sp, page := R.page, store := R.store, stack := stack }) (fun c hc hcn => ?_) hb
    obtain ⟨a, ha, rfl⟩ := asked_reply hc
    have hm : R.mine a := ha.choose_spec.2.2.2.2
    unfold Ask.take at hcn ⊢
    split at hcn
    · cases hcn
    · next hne =>
      rw [if_neg hne]
      rcases List.mem_cons.1 (h a ha hcn) with rfl | hl
      · exact absurd ⟨rfl, hm.2⟩ hne
      · exact hl

/-- The spaces of the unanswered asks that the reply is for. -/
def ReplyTo.spaces (R : ReplyTo) (s : State) : List Nat :=
  (((s.teams.map fun x => if x.2.die = R.die ∧ x.2.core = R.core then x.2.allAsks else []).flatten.filter fun a =>
    a.answer.isNone && a.space % 4096 == R.asid && a.page == R.page && a.store == R.store).map (·.space)).foldl (fun a x => setIns x a) []

theorem exec_translationReply (d core asid va : Nat) (store : Bool) (s : State) :
    exec (.translationReply d core asid va store) s =
      .next (ReplyTo.run ⟨d, core, asid, va / 4096, store⟩ (stackOf va) (ReplyTo.spaces ⟨d, core, asid, va / 4096, store⟩ s) s) := rfl

/-- The asks that the reply finds unanswered. -/
theorem ReplyTo.mem_spaces {R : ReplyTo} {s : State} {sp : Nat} : sp ∈ R.spaces s ↔ ∃ a, R.asked s a ∧ a.answer = none ∧ a.space = sp := by
  have hteam : ∀ (x : Nat × Team) (a : Ask), a ∈ (if x.2.die = R.die ∧ x.2.core = R.core then x.2.allAsks else []) ↔
      x.2.die = R.die ∧ x.2.core = R.core ∧ a ∈ x.2.allAsks := fun x a => by
    split
    · next h => simp [h]
    · next h => simpa using fun hd hc => absurd ⟨hd, hc⟩ h
  unfold ReplyTo.spaces ReplyTo.asked ReplyTo.mine
  rw [mem_foldl_setIns]
  simp only [List.mem_map, List.mem_filter, List.mem_flatten, Bool.and_eq_true, Option.isNone_iff_eq_none, beq_iff_eq, List.not_mem_nil, or_false]
  constructor
  · rintro ⟨a, ⟨⟨l, ⟨x, hx, rfl⟩, ha⟩, ⟨⟨hnone, hasid⟩, hpage⟩, hstore⟩, hsp⟩
    obtain ⟨hd, hc, ha⟩ := (hteam x a).1 ha
    exact ⟨a, ⟨x, hx, hd, hc, ha, hasid, hpage, hstore⟩, hnone, hsp⟩
  · rintro ⟨a, ⟨x, hx, hd, hc, ha, hasid, hpage, hstore⟩, hnone, hsp⟩
    exact ⟨a, ⟨⟨_, ⟨x, hx, rfl⟩, (hteam x a).2 ⟨hd, hc, ha⟩⟩, ⟨⟨hnone, hasid⟩, hpage⟩, hstore⟩, hsp⟩

/-- R182: once the reply has come every ask that it is for is answered. -/
theorem ReplyTo.answered {R : ReplyTo} {stack : Nat} {s : State} {b : Ask} (hb : R.asked (R.run stack (R.spaces s) s) b) : b.answer.isSome = true :=
  run_answers (fun a ha hn => mem_spaces.2 ⟨a, ha, hn, rfl⟩) hb

/-- Where all asks are of one space and unanswered, one walk answers them. -/
theorem ReplyTo.answered_one {R : ReplyTo} {stack sp : Nat} {s : State} (h : ∀ a, R.asked s a → a.space = sp ∧ a.answer = none) {b : Ask}
    (hb : R.asked (R.run stack (R.spaces s) s) b) : b.answer = some (s.answerFor sp (R.page * 4096 + 128 * stack)) := by
  by_cases hnone : R.spaces s = []
  · rw [hnone] at hb
    have hmem : b.space ∈ R.spaces s := mem_spaces.2 ⟨b, hb, (h b hb).2, rfl⟩
    rw [hnone] at hmem
    cases hmem
  · have hone : R.spaces s = [sp] := by
      refine foldl_setIns_const (fun h0 => hnone ?_) fun x hx => ?_
      · rw [ReplyTo.spaces, h0]
        rfl
      · obtain ⟨a, ha, -, rfl⟩ := mem_spaces.1 ((mem_foldl_setIns _ _).2 (.inl hx) : x ∈ R.spaces s)
        exact (h a ha).1
    rw [hone] at hb
    obtain ⟨a, ha, rfl⟩ := asked_reply hb
    have hm : R.mine a := ha.choose_spec.2.2.2.2
    exact congrArg Ask.answer (if_pos ⟨(h a ha).1, hm.2⟩)

end Sys2Proof.Machine

/-! PROOFS. The part's own reads, and the gathering of fragments for handlers (R417 to R419, R477). -/

namespace Sys2Proof.Machine

/-! ### Accesses of the part itself (R477) -/

/-- Between the states fragments, warps and the numbers given out are the same: memory, caches, translations and free choices may differ. -/
structure Beside (s s' : State) : Prop where
  frags : s'.frags = s.frags
  uid : s'.uid = s.uid
  warps : ∀ t, (s'.team t).warps = (s.team t).warps

theorem Beside.refl (s : State) : Beside s s := ⟨rfl, rfl, fun _ => rfl⟩

theorem Beside.trans {s s' s'' : State} (h : Beside s s') (g : Beside s' s'') : Beside s s'' :=
  ⟨g.frags.trans h.frags, g.uid.trans h.uid, fun t => (g.warps t).trans (h.warps t)⟩

theorem Beside.foldl {α : Type} (f : State → α → State) (hf : ∀ s x, Beside s (f s x)) (l : List α) (s : State) : Beside s (l.foldl f s) := by
  induction l generalizing s with
  | nil => exact .refl s
  | cons x l ih => exact (hf s x).trans (ih (f s x))

theorem beside_modDie (s : State) (d : Nat) (f : Die → Die) : Beside s (s.modDie d f) := ⟨rfl, rfl, fun _ => rfl⟩

theorem beside_ctr (s : State) (c : Nat) : Beside s { s with ctr := c } := ⟨rfl, rfl, fun _ => rfl⟩

theorem beside_blur (s : State) (bs : List Byte) (offs : List Nat) : Beside s (s.blur bs offs).2 := blur_keeps s bs offs ▸ beside_ctr s _

theorem beside_wayFor (s : State) (ls : List CLine) (kind n set : Nat) : Beside s (s.wayFor ls kind n set).2 := wayFor_ctr s ls kind n set ▸ beside_ctr s _

theorem beside_raceMem (s : State) (d pa n : Nat) (write : Bool) (me : Option Nat) : Beside s (s.raceMem d pa n write me).2 := by
  unfold State.raceMem
  dsimp only
  split
  · exact .refl s
  · refine ⟨rfl, rfl, fun t => ?_⟩
    simp only [State.team, Map.get, Map.find_each]
    cases s.teams.find t with
    | none => rfl
    | some T =>
      simp only [Option.map_some, Option.getD_some]
      split <;> rfl

theorem beside_translate (s : State) (space va : Nat) : Beside s (s.translate space va).2 := by
  unfold State.translate
  dsimp only
  split
  · exact .refl s
  · split
    · exact .refl s
    · dsimp only
      split
      · exact .refl s
      · exact beside_modDie ..

theorem beside_buffer (s : State) (d pa : Nat) (dirty : Bool) : Beside s (s.buffer d pa dirty) := by
  unfold State.buffer
  dsimp only
  split
  · exact beside_modDie ..
  · have hway := beside_wayFor s ((s.die d).msb.get (stackOf pa) []) 2 (4 * d + stackOf pa) (Config.setIndex 2 0 (pa / 128) % Config.cacheSets 2)
    split
    · exact hway
    · exact hway.trans (beside_modDie ..)

theorem beside_writeBack (s : State) (d : Nat) (ls : List CLine) : Beside s (s.writeBack d ls) := by
  refine Beside.foldl _ (fun s l => ?_) ls s
  split
  · exact (beside_modDie ..).trans (beside_buffer ..)
  · exact .refl s

theorem beside_evict (s : State) (d : Nat) (out : CLine → Bool) : Beside s (s.evict d out) := (beside_writeBack ..).trans (beside_modDie ..)

theorem beside_fillLine (s : State) (d asid va pa : Nat) (dirty : Bool) : Beside s (s.fillLine d asid va pa dirty) := by
  unfold State.fillLine
  split
  · exact .refl s
  · next k _ =>
    have hway := beside_wayFor s (s.die d).lines 1 (16 * d + k) (Config.setIndex 1 asid (va / 128) % Config.cacheSets 1)
    dsimp only
    split
    · exact hway
    · exact (hway.trans (beside_evict ..)).trans (beside_modDie ..)

theorem beside_mapped (s : State) (d space va : Nat) (page : Page) (p : Nat) : Beside s (s.mapped d space va page p) := by
  unfold State.mapped
  dsimp only
  split
  · exact .refl s
  · exact beside_modDie ..

theorem beside_place (s : State) (space va : Nat) (page : Page) (pa : Nat) (dirty base : Bool) : Beside s (s.place space va page pa dirty base).2 := by
  unfold State.place
  extract_lets d asid D here old p s1
  have hmapped : Beside s s1 := by
    unfold s1
    split
    · exact beside_mapped ..
    · exact .refl s
  split
  · exact (beside_buffer ..).trans (beside_mapped ..)
  · clear_value s1 p here
    cases here with
    | some l =>
      dsimp only
      split
      · dsimp only
        split
        · exact hmapped
        · exact hmapped.trans (beside_modDie ..)
      · show Beside s (((s1.evict d (·.holds asid va)).buffer d p false).fillLine d asid va (p / 128) dirty)
        exact ((hmapped.trans (beside_evict ..)).trans (beside_buffer ..)).trans (beside_fillLine ..)
    | none =>
      show Beside s ((s1.buffer d p false).fillLine d asid va (p / 128) dirty)
      exact (hmapped.trans (beside_buffer ..)).trans (beside_fillLine ..)

theorem beside_rdMem (s : State) (d pa n : Nat) (me : Option Nat) : Beside s (s.rdMem d pa n me).2 := by
  have hrace := beside_raceMem s d pa n false me
  unfold State.rdMem
  dsimp only
  split
  · exact hrace
  · exact hrace.trans (beside_blur ..)

theorem beside_load (s : State) (space va n : Nat) (page : Page) (pa : Nat) (me : Option Nat) : Beside s (s.load space va n page pa me).2 := by
  have hplace := beside_place s space va page pa false false
  unfold State.load State.readAt
  dsimp only
  split
  · exact hplace.trans (beside_ctr ..)
  · split
    · exact hplace.trans (beside_ctr ..)
    · exact hplace.trans (beside_rdMem ..)

theorem beside_importOf (s : State) (space h : Nat) : Beside s (s.importOf space h).2 := by
  unfold State.importOf
  dsimp only
  split
  · split
    · exact beside_modDie ..
    · exact .refl s
  · split
    · exact .refl s
    · split
      · exact .refl s
      · exact beside_modDie ..

theorem beside_importCheck (s : State) (space va n : Nat) (k : Acc) : Beside s (s.importCheck space va n k).2.2 := by
  have himport := beside_importOf s space (bits va 47 32)
  unfold State.importCheck
  dsimp only
  split
  · exact himport
  · (repeat' split) <;> exact himport

/-- R239: the checks of a read change no more than caches of the checks. -/
theorem beside_checkNow_read (s : State) (space va n : Nat) : Beside s (s.checkNow space va n .read).2 := by
  unfold State.checkNow
  split
  · exact .refl s
  · split
    · exact .refl s
    · split
      · have himport := beside_importCheck s space va n .read
        split
        · next heq => rwa [heq] at himport
        · next heq => rwa [heq] at himport
      · have htr := beside_translate s space va
        unfold State.checkPage
        split
        · next heq => rwa [heq] at htr
        · next heq =>
          rw [heq] at htr
          simp only [↓reduceIte]
          (repeat' split) <;> exact htr

theorem frags_emit (s : State) (port : Option Nat) (p : TwillPacket) : (s.emit port p).frags = s.frags := by
  unfold State.emit
  split <;> rfl

theorem frags_traffic (s : State) (o : Owner) (n : Nat) : (s.traffic o n).frags = s.frags := by
  unfold State.traffic
  split <;> rfl

theorem frags_sendReq (s : State) (id : Nat) : (s.sendReq id).frags = s.frags := by
  unfold State.sendReq
  split
  · rfl
  · split
    · rfl
    · split
      · rfl
      · next path det link port _ =>
        extract_lets p key w seq oseq fresh p₁ p₂
        rcases hfr : s.fresh with ⟨n, s₁⟩
        dsimp -zeta only
        extract_lets s₂ s₃ s₄ s₅
        have h₂ : s₂.frags = s.frags := congrArg (State.frags ·.2) hfr.symm
        have h₃ : s₃.frags = s₂.frags := by
          unfold s₃
          split <;> rfl
        have h₄ : s₄.frags = s₃.frags := by
          unfold s₄
          split
          · split <;> rfl
          · rfl
        have h₅ : s₅.frags = s₄.frags := by
          unfold s₅
          split
          · exact frags_traffic ..
          · rfl
        rw [frags_emit, h₅, h₄, h₃, h₂]

theorem beside_raceFar (s : State) (r : Req) : Beside s (s.raceFar r).2 := by
  unfold State.raceFar
  dsimp only
  split
  · exact .refl s
  · exact beside_raceMem ..

theorem frags_request (s : State) (r : Req) : (s.request r).2.frags = s.frags := by
  unfold State.request
  dsimp only
  rw [frags_sendReq]
  exact ((beside_raceFar s r).trans (beside_blur ..)).frags

/-- A part's read that is answered, by memory or by what a peer has said, leaves fragments, warps and numbers; one that waits leaves the fragments. -/
theorem partLoad_keeps (s : State) (j : Job) (space va : Nat) :
    (s.partLoad j space va).2.frags = s.frags ∧ ((s.partLoad j space va).1 ≠ none → Beside s (s.partLoad j space va).2) := by
  have hcheck := beside_checkNow_read s space va 8
  unfold State.partLoad State.partAccess
  split
  · exact ⟨rfl, fun _ => .refl s⟩
  · split
    · exact ⟨rfl, fun h => absurd rfl h⟩
    · split
      all_goals rename_i heq; rw [heq] at hcheck
      · next page pa s1 =>
        have hload : Beside s (s1.load space va 8 page pa).2 := hcheck.trans (beside_load ..)
        exact ⟨hload.frags, fun _ => hload⟩
      · exact ⟨hcheck.frags, fun _ => hcheck⟩
      · exact ⟨(frags_request ..).trans hcheck.frags, fun h => absurd rfl h⟩
      · exact ⟨hcheck.frags, fun _ => hcheck⟩

/-- The same of the reads of several words. -/
theorem partRead_keeps (s : State) (j : Job) (space : Nat) (l : List Nat) :
    (s.partRead j space l).2.frags = s.frags ∧ ((s.partRead j space l).1 ≠ none → Beside s (s.partRead j space l).2) := by
  induction l generalizing s with
  | nil => exact ⟨rfl, fun _ => .refl s⟩
  | cons a l ih =>
    obtain ⟨hfrags, hbeside⟩ := partLoad_keeps s j space a
    unfold State.partRead
    split
    all_goals rename_i heq; rw [heq] at hfrags hbeside
    · exact ⟨hfrags, fun h => absurd rfl h⟩
    · exact ⟨hfrags, fun _ => hbeside (Option.some_ne_none _)⟩
    · next v s1 =>
      obtain ⟨ihfrags, ihbeside⟩ := ih s1
      refine ⟨ihfrags.trans hfrags, fun h => (hbeside (Option.some_ne_none _)).trans (ihbeside fun hn => h ?_)⟩
      show Option.map _ (s1.partRead j space l).1 = none
      rw [hn]
      rfl

/-! ### Fragments that wait at a cluster (R418) -/

theorem mem_insFrag {x y : Nat × Nat} {l : List (Nat × Nat)} : x ∈ insFrag y l ↔ x = y ∨ x ∈ l := by
  induction l with
  | nil => simp [insFrag]
  | cons z r ih =>
    unfold insFrag
    split
    · simp
    · rw [List.mem_cons, ih, List.mem_cons]
      tauto

/-- A fragment that waits at a cluster stands in the table. -/
theorem find_of_waiting {s : State} {d c sp f : Nat} (h : f ∈ s.waitingFrags d c sp) : s.frags.find f = some (s.frag f) := by
  have hgathers : s.gathers f = true := by
    unfold State.waitingFrags at h
    obtain ⟨x, hx, rfl⟩ := List.mem_map.1 h
    refine List.foldlRecOn (motive := fun l => ∀ x ∈ l, s.gathers x.1 = true) s.frags _ (fun _ h => absurd h List.not_mem_nil) (fun l hl y _ z hz => ?_) x hx
    dsimp only at hz
    split at hz
    · next hg =>
      rcases mem_insFrag.1 hz with rfl | hz
      · simp only [State.gatherable, Bool.and_eq_true] at hg
        exact hg.1.1
      · exact hl z hz
    · exact hl z hz
  unfold State.gathers at hgathers
  unfold State.frag Map.get
  cases hf : s.frags.find f with
  | none => simp [hf] at hgathers
  | some F => rfl

theorem takeFrags_subset (s : State) (n : Nat) (fs : List Nat) : s.takeFrags n fs ⊆ fs := by
  induction fs generalizing n with
  | nil => exact fun _ h => h
  | cons f fs ih =>
    unfold State.takeFrags
    split
    · exact List.cons_subset_cons f (ih _)
    · exact List.nil_subset _

theorem takeFrags_of_frags {s s' : State} (h : s'.frags = s.frags) (n : Nat) (fs : List Nat) : s'.takeFrags n fs = s.takeFrags n fs := by
  have hfrag : ∀ f, s'.frag f = s.frag f := fun f => by unfold State.frag; rw [h]
  induction fs generalizing n with
  | nil => rfl
  | cons f fs ih => simp only [State.takeFrags, hfrag, ih]

/-! ### No handler for waiting lanes (R417) -/

/-- Lanes of fragments die NOHANDLER, fragment by fragment. -/
def State.killFrag (s : State) (f : Nat) : State := (s.killLanes (s.frag f).team (s.frag f).warp (s.frag f).mask 6).settle (s.frag f).team

/-- A lane of a fragment's warp is dead, or the fragment still holds it. -/
def State.deadOrHeld (s : State) (u v f l : Nat) : Prop :=
  (s.warp u v).dead.getLsbD l = true ∨ ∃ F, s.frags.find f = some F ∧ F.team = u ∧ F.warp = v ∧ F.mask.getLsbD l = true

theorem Map.find_filter_of_find {α : Type} {m : Map α} {p : Nat × α → Bool} {k : Nat} {x : α} (h : m.find k = some x) (hp : p (k, x) = true) :
    Map.find (m.filter p) k = some x := by
  induction m with
  | nil => cases h
  | cons y r ih =>
    obtain ⟨j, z⟩ := y
    by_cases hj : j = k
    · subst hj
      obtain rfl : z = x := by simpa [Map.find] using h
      rw [List.filter_cons_of_pos hp]
      exact if_pos rfl
    · have hr : Map.find r k = some x := by simpa [Map.find, hj] using h
      rw [List.filter_cons]
      split
      · exact (if_neg hj).trans (ih hr)
      · exact ih hr

theorem ne_zero_of_lane {m : Half} {l : Nat} (h : m.getLsbD l = true) : (m != 0) = true := by
  refine bne_iff_ne.2 fun h0 => ?_
  rw [h0] at h
  simp at h

/-- A lane that a kill does not reach stays in its fragment. -/
theorem killLanes_frag {s : State} {t w f l : Nat} {ls : Half} {F : Frag} (cause : Nat) (hF : s.frags.find f = some F) (hl : F.mask.getLsbD l = true)
    (hout : F.team = t → F.warp = w → ls.getLsbD l = false) :
    ∃ G, (s.killLanes t w ls cause).frags.find f = some G ∧ G.team = F.team ∧ G.warp = F.warp ∧ G.mask.getLsbD l = true := by
  have hfind : ∀ g : Nat → Frag → Frag, (s.frags.each g).find f = some (g f F) := fun g => by rw [Map.find_each, hF]; rfl
  by_cases hc : F.team = t ∧ F.warp = w
  · have hmask : (F.mask &&& ~~~ls).getLsbD l = true := by
      rw [BitVec.getLsbD_and, BitVec.getLsbD_not, hl, hout hc.1 hc.2, decide_eq_true (BitVec.lt_of_getLsbD hl)]
      rfl
    refine ⟨_, Map.find_filter_of_find (hfind _) ?_, ?_⟩
    all_goals simp only [if_pos hc]
    · exact ne_zero_of_lane hmask
    · exact ⟨trivial, trivial, hmask⟩
  · refine ⟨_, Map.find_filter_of_find (hfind _) ?_, ?_⟩
    all_goals simp only [if_neg hc]
    · exact ne_zero_of_lane hl
    · exact ⟨trivial, trivial, hl⟩

theorem killFrag_keeps_dead {s : State} {u v l : Nat} (h : (s.warp u v).dead.getLsbD l = true) (g : Nat) :
    ((s.killFrag g).warp u v).dead.getLsbD l = true := by
  unfold State.killFrag
  rw [(lanes_settle ..).1]
  exact warp_modWarp_pred (s := s) (P := fun W => W.dead.getLsbD l = true) (fun W hW => by simp [Warp.kill, hW]) h

theorem killFrag_kills {s : State} {f l : Nat} (hw : s.hasWarp (s.frag f).team (s.frag f).warp = true) (hl : (s.frag f).mask.getLsbD l = true) :
    ((s.killFrag f).warp (s.frag f).team (s.frag f).warp).dead.getLsbD l = true := by
  obtain ⟨hdead, -⟩ := (lanesDied_killLanes hw (s.frag f).mask 6).settle (s.frag f).team
  unfold State.killFrag
  rw [hdead, BitVec.getLsbD_or, hl, Bool.or_true]

theorem State.deadOrHeld.killFrag {s : State} {u v f l : Nat} (h : s.deadOrHeld u v f l) (hw : s.hasWarp u v = true) (g : Nat) :
    (s.killFrag g).deadOrHeld u v f l := by
  rcases h with h | ⟨F, hF, rfl, rfl, hl⟩
  · exact .inl (killFrag_keeps_dead h g)
  · by_cases hout : F.team = (s.frag g).team → F.warp = (s.frag g).warp → (s.frag g).mask.getLsbD l = false
    · exact .inr (killLanes_frag 6 hF hl hout)
    · simp only [Classical.not_imp, Bool.not_eq_false] at hout
      obtain ⟨ht, hwarp, hgl⟩ := hout
      rw [ht, hwarp] at hw ⊢
      exact .inl (killFrag_kills hw hgl)

/-- The turn of its fragment comes: the lane is dead. -/
theorem State.deadOrHeld.dead_killFrag {s : State} {u v f l : Nat} (h : s.deadOrHeld u v f l) (hw : s.hasWarp u v = true) :
    ((s.killFrag f).warp u v).dead.getLsbD l = true := by
  rcases h with h | ⟨F, hF, rfl, rfl, hl⟩
  · exact killFrag_keeps_dead h f
  · have hfrag : s.frag f = F := by simp [State.frag, Map.get, hF]
    rw [← hfrag] at hw hl ⊢
    exact killFrag_kills hw hl

theorem killFrags_keep_dead {u v l : Nat} (fs : List Nat) {s : State} (h : (s.warp u v).dead.getLsbD l = true) :
    ((fs.foldl State.killFrag s).warp u v).dead.getLsbD l = true :=
  List.foldlRecOn (motive := fun s : State => (s.warp u v).dead.getLsbD l = true) fs _ h fun _ hs g _ => killFrag_keeps_dead hs g

theorem hasWarp_killFrag {s : State} {u v : Nat} (h : s.hasWarp u v = true) (g : Nat) : (s.killFrag g).hasWarp u v = true :=
  (keptByEnds_hasWarp u v).settle _ ((keptByEnds_hasWarp u v).killLanes h ..)

/-- R417: every lane that a fragment of the list held is dead when all of them have had their turn. -/
theorem killFrags_kill {u v f l : Nat} {fs : List Nat} {s : State} (hf : f ∈ fs) (hw : s.hasWarp u v = true) (h : s.deadOrHeld u v f l) :
    ((fs.foldl State.killFrag s).warp u v).dead.getLsbD l = true := by
  induction fs generalizing s with
  | nil => cases hf
  | cons g fs ih =>
    rcases List.mem_cons.1 hf with rfl | hf
    · exact killFrags_keep_dead fs (h.dead_killFrag hw)
    · exact ih hf (hasWarp_killFrag hw g) (h.killFrag hw g)

theorem events_killFrags (fs : List Nat) (s : State) : (fs.foldl State.killFrag s).events = s.events := by
  have hkept : KeptByEnds (·.events = s.events) := ⟨fun _ h => h, fun _ h => h, fun _ h => h, fun _ h => h⟩
  exact List.foldlRecOn (motive := fun s' : State => s'.events = s.events) fs _ rfl fun _ hs _ _ => hkept.settle _ (hkept.killLanes hs ..)

/-- All lanes of the waiting fragments are dead, where their warps stand. -/
def State.allKilled (s s' : State) (fs : List Nat) : Prop :=
  (∀ f ∈ fs, ((s.team (s.frag f).team).warps.find (s.frag f).warp).isSome = true) →
    ∀ f ∈ fs, (s.frag f).mask &&& ~~~(s'.warp (s.frag f).team (s.frag f).warp).dead = 0

theorem hasWarp_of_find {s : State} {t w : Nat} (h : ((s.team t).warps.find w).isSome = true) : s.hasWarp t w = true := by
  unfold State.hasWarp
  rw [h, Bool.and_true]
  unfold State.team Map.get at h
  cases hT : s.teams.find t with
  | none => simp [hT] at h
  | some T => rfl

/-- The lanes of the fragments that wait die, also after accesses of the part. -/
theorem allKilled_killFrags {s s1 : State} {d c sp : Nat} (hfrags : s1.frags = s.frags) (hwarps : ∀ t, (s1.team t).warps = (s.team t).warps) :
    s.allKilled ((s.waitingFrags d c sp).foldl State.killFrag s1) (s.waitingFrags d c sp) := by
  intro hstand f hf
  have hw : s1.hasWarp (s.frag f).team (s.frag f).warp = true := hasWarp_of_find (by rw [hwarps]; exact hstand f hf)
  refine BitVec.eq_of_getLsbD_eq fun l hl => ?_
  rw [BitVec.getLsbD_and, BitVec.getLsbD_not, show (0 : Half).getLsbD l = false from BitVec.getLsbD_zero]
  cases hm : (s.frag f).mask.getLsbD l with
  | false => rfl
  | true =>
    rw [killFrags_kill hf hw (.inr ⟨_, by rw [hfrags]; exact find_of_waiting hf, rfl, rfl, hm⟩)]
    simp

/-! ### Gathering (R417 to R419) -/

theorem exec_handlerGatherTimeout_idle {s : State} {d c : Nat} (h : ((s.die d).fw.get (1 + c) {}).restarting = true ∨ s.dueSpaces d c = []) :
    exec (.handlerGatherTimeout d c) s = .next s := by
  show execHandlerGatherTimeout d c s = _
  unfold execHandlerGatherTimeout
  rcases h with h | h
  · rw [if_pos h]
  · rw [h]
    exact ite_self _

/-- One address space is due: it is gathered. -/
theorem exec_handlerGatherTimeout {s : State} {d c sp : Nat} (hr : ((s.die d).fw.get (1 + c) {}).restarting = false) (hdue : s.dueSpaces d c = [sp]) :
    exec (.handlerGatherTimeout d c) s = .next (s.gather d c sp) := by
  show execHandlerGatherTimeout d c s = _
  unfold execHandlerGatherTimeout
  rw [hr, hdue]
  rfl

/-- TRAPVEC of an address space, as the part reads it (R417). -/
def State.gatherVec (s : State) (sp : Nat) : Nat := ((s.die (sp / 4096)).space.get (sp % 4096 * 64) 0).toNat

/-- The part's read of a handler's descriptor (R417). -/
def State.gatherRead (s : State) (d c sp : Nat) : Option (Option (List Nat)) × State :=
  s.partRead (.gather d c sp) sp [s.gatherVec sp, s.gatherVec sp + 8, s.gatherVec sp + 16]

theorem gather_novec {s : State} {d c sp : Nat} (h : s.gatherVec sp = 0) : s.gather d c sp = (s.waitingFrags d c sp).foldl State.killFrag s :=
  if_pos h

section Descriptor
variable {s s1 : State} {d c sp : Nat} (hv : s.gatherVec sp ≠ 0)
include hv

theorem gather_waits (hr : s.gatherRead d c sp = (none, s1)) : s.gather d c sp = s1 := by
  unfold State.gatherRead State.gatherVec at hr
  refine (if_neg hv).trans ?_
  rw [hr]

theorem gather_unreadable (hr : s.gatherRead d c sp = (some none, s1)) :
    s.gather d c sp = (s.waitingFrags d c sp).foldl State.killFrag ((s1.jobDone (.gather d c sp)).eventOpen (sp / 4096) (s.gatherVec sp)) := by
  unfold State.gatherRead State.gatherVec at hr
  refine (if_neg hv).trans ?_
  rw [hr]
  rfl

theorem gather_read {e l a : Nat} (hr : s.gatherRead d c sp = (some (some [e, l, a]), s1)) :
    s.gather d c sp = if e = 0 then (s.waitingFrags d c sp).foldl State.killFrag (s1.jobDone (.gather d c sp))
      else (s1.jobDone (.gather d c sp)).formHandler d c sp e l a ((s1.jobDone (.gather d c sp)).takeFrags 32 (s.waitingFrags d c sp)) := by
  unfold State.gatherRead State.gatherVec at hr
  refine (if_neg hv).trans ?_
  rw [hr]
  rfl

end Descriptor

theorem beside_jobDone (s : State) (j : Job) : Beside s (s.jobDone j) := by
  unfold State.jobDone
  split <;> exact ⟨rfl, rfl, fun _ => rfl⟩

theorem beside_eventOpen (s : State) (socket data : Nat) : Beside s (s.eventOpen socket data) := ⟨rfl, rfl, fun _ => rfl⟩

/-- The last event record is the one that has been appended. -/
theorem getLast_eventOpen (s : State) (socket data : Nat) : ((s.eventOpen socket data).events.getLast?).map (·.data) = some data := by
  have hlen : s.events.length + 1 - Config.eventLog ≤ s.events.length := by
    unfold Config.eventLog
    omega
  unfold State.eventOpen State.event State.draw
  dsimp only
  rw [List.drop_append_of_le_length hlen, List.getLast?_append]
  rfl

/-- R419: the handler team under the next number. -/
theorem formHandler_team (s : State) (d c sp e l a : Nat) (fs : List Nat) :
    ∃ T, (s.formHandler d c sp e l a fs).teams.find (s.uid + 1) = some T ∧ T.handler = true ∧ T.prio = 255 ∧ T.phase = .waiting ∧ T.sentry = e ∧
      T.lanebase = l ∧ T.args = BitVec.ofNat 64 a ∧ T.die = d ∧ T.core / 8 = c :=
  ⟨_, (Map.find_ins ..).trans (if_pos rfl), rfl, rfl, rfl, rfl, rfl, rfl, rfl, Nat.mul_div_cancel_left c (by decide)⟩

/-- The fragments that it takes are handled. -/
theorem formHandler_frag {s : State} {f : Nat} {F : Frag} (d c sp e l a : Nat) {fs : List Nat} (hf : f ∈ fs) (hF : s.frags.find f = some F) :
    ((s.formHandler d c sp e l a fs).frags.find f).map (·.state) = some .handling := by
  show ((s.frags.each fun f F => if fs.contains f then { F with state := .handling, decided := [] } else F).find f).map _ = _
  rw [Map.find_each, hF]
  simp [hf]

/-! ### The events of lane streams, pages and handlers -/

theorem laneBlockStart_idle {s : State} {t w : Nat}
    (h : (s.warp t w).queue = [] ∨ (s.warp t w).life ≠ .running ∨ (s.warp t w).started = true ∨ (s.team t).phase ≠ .resident) :
    Runs (.laneBlockStart t w) s (· = s) := .of_eq (exec_laneBlockStart_idle h) rfl

section BlockStart
variable {s : State} {t w : Nat} {k : Block} {r : List Block} (hq : (s.warp t w).queue = k :: r) (hl : (s.warp t w).life = .running)
  (hs : (s.warp t w).started = false) (hp : (s.team t).phase = .resident)
include hq hl hs hp

theorem laneBlockStart_live (hd : (s.warp t w).dead ≠ ~~~0) : Runs (.laneBlockStart t w) s fun s' =>
    s'.warp t w = (s.warp t w).blockStarted (some ((s.warp t w).startPath k s.now)) := by
  have hne : ~~~(s.warp t w).dead ≠ 0 := fun h => hd (by rw [← h, BitVec.not_not])
  have he := exec_laneBlockStart hq hl hs hp
  rw [if_neg hne] at he
  exact .of_eq he (blockStart_live hq hd)

theorem laneBlockStart_dead (hd : (s.warp t w).dead = ~~~0) (hm : (s.warp t w).midway = false) : Runs (.laneBlockStart t w) s fun s' =>
    (s'.warp t w).queue = r ∧ (s'.warp t w).started = false := by
  have hz : ~~~(s.warp t w).dead = 0 := by rw [hd, BitVec.not_not]
  have he := exec_laneBlockStart hq hl hs hp
  rw [if_pos hz] at he
  exact .of_eq he (blockStart_dead hq hl hd hm)

end BlockStart

/-- R201: the one load of a path is written, and nothing else of its warp. -/
theorem loadDataReturn_writes {s : State} {t w : Nat} {b : Bool} {p : Path} {l r : Nat} {v : Half} {ln : Option (Nat × Nat × Nat × Bool)}
    (hp : (s.warp t w).path b = some p) (hboard : p.board = [{ lane := l, req := none, regs := [(r, v)], line := ln }]) (hl : l < 32) :
    Runs (.loadDataReturn t w b) s fun s' =>
      (∀ k < 32, ∀ q, (s'.warp t w).vw q k = if q = r ∧ k = l then v else (s.warp t w).vw q k) ∧
      (s'.warp t w).path b = some { p with board := [] } ∧ (s'.warp t w).path (!b) = (s.warp t w).path (!b) ∧
      (s'.warp t w).s = (s.warp t w).s ∧ (s'.warp t w).m = (s.warp t w).m := by
  obtain ⟨s1, hteams, he⟩ := loadDataReturn_one hp hboard
  have hW : s1.hasWarp t w = true := hasWarp_of_ne fun h => by
    rw [warp_of_teams hteams] at h
    rw [h] at hp
    cases b <;> cases hp
  have hwarp := State.warp_modWarp_self s1 t w (fun W => (W.setV r l v).setPath b (some { p with board := [] })) hW
  rw [warp_of_teams hteams] at hwarp
  refine .of_eq he ?_
  rw [hwarp]
  refine ⟨fun k hk q => ?_, Warp.path_setPath .., ?_, ?_, ?_⟩
  · rw [← Warp.vw_setV _ r l v q k hl hk]
    cases b <;> rfl
  all_goals cases b <;> rfl

/-- Bits that are replaced by ones are set. -/
theorem replace_set (x ls : Half) : x &&& ~~~ls ||| ~~~0 &&& ls = x ||| ls := by
  rw [show ~~~(0 : Half) = BitVec.allOnes 32 from rfl, BitVec.allOnes_and]
  ext i hi
  rw [BitVec.getElem_or, BitVec.getElem_or, BitVec.getElem_and, BitVec.getElem_not]
  cases x[i] <;> cases ls[i] <;> rfl

theorem joinExpiry_resumes {s : State} {t w id j : Nat} {e ar : Half} {o : Option Nat} {dl k : Nat} (hst : (s.warp t w).stack = [.join id j e ar o (some dl) k])
    (hdue : dl ≤ (s.die (s.team t).die).cycles) (hlive : s.warpLive t w = true) (hp : (s.team t).phase = .resident) (ha : (s.warp t w).a = none)
    (har : ar ≠ 0) (hopen : ~~~(s.warp t w).dead &&& ~~~(s.warp t w).arrived ≠ 0) : Runs (.joinExpiry t w id) s fun s' =>
      (s'.warp t w).a = some { pc := j + 1, m0 := ar, mem := ar } ∧ (s'.warp t w).stack = [] ∧ (s'.warp t w).detached = (s.warp t w).detached ||| e ∧
      ∀ i, 1 ≤ i → i < 8 → (s'.warp t w).m.get i 0 = if i = k then (s.warp t w).m.get i 0 ||| ar else (s.warp t w).m.get i 0 := by
  obtain ⟨s', he, hx⟩ := joinExpiry_one hst hdue hlive hp ha har hopen
  refine ⟨s', he, hx.a, hx.stack, hx.detached, fun i hi _ => ?_⟩
  rw [hx.m, Warp.get_setMask _ _ _ (by omega), replace_set]

/-- R159, R199: what waits for a page that has come goes on. -/
theorem demandPageResolved_wakes {s : State} {d asid page : Nat}
    (h : walk (s.die d) (d * 4096 + asid) (page * 4096) (s.txn (d * 4096 + asid) (page * 4096)) ≠ .error cABSENT)
    (hseq : ∀ x ∈ s.teams, x.2.seq.restart = none) : Runs (.demandPageResolved d asid page) s fun s' =>
      s'.dies = s.dies ∧ (∀ t w, (s.warp t w).wait = .absent (d * 4096 + asid) page → (s'.warp t w).wait = .none) ∧
      (∀ t w, (s'.warp t w).s = (s.warp t w).s ∧ (s'.warp t w).v = (s.warp t w).v ∧ (s'.warp t w).spc = (s.warp t w).spc) ∧
      (∀ k F, s.frags.find k = some F → F.state = .parked → (F.cause = 1 ∨ F.cause = 11) → F.detail = 1 → F.addr / 4096 = page →
        (s.team F.team).space = d * 4096 + asid →
        s'.frags.find k = some (if s.fragLive k && s.leafRuns F then { F with state := .ready, resume := F.pc } else F)) ∧
      ∀ k c, s.copies.find k = some c → c.die = d → c.asid = asid → c.absent = some page → s'.copies.find k = some { c with absent := none } := by
  obtain ⟨clear, he⟩ := exec_demandPageResolved h hseq
  refine .of_eq he ⟨rfl, fun t w hw => ?_, fun t w => ?_, fun k F hk hs hc hd ha hsp => pageCame_frag clear hk hs hc hd ha hsp,
    fun k c hk hd has hp => pageCame_copy clear hk hd has hp⟩
  · rw [(pageCame_warp s d asid page clear t w).2, hw]
    exact if_pos ⟨rfl, rfl⟩
  · obtain ⟨hs, hv, hspc⟩ := (pageCame_warp s d asid page clear t w).1
    exact ⟨hs, hv, hspc⟩

theorem beside_gatherRead {s : State} {d c sp : Nat} (hread : (s.gatherRead d c sp).1 ≠ none) :
    Beside s ((s.gatherRead d c sp).2.jobDone (.gather d c sp)) :=
  ((partRead_keeps s _ sp _).2 hread).trans (beside_jobDone ..)

section Gather
variable {s : State} {d c sp : Nat} (hr : ((s.die d).fw.get (1 + c) {}).restarting = false) (hdue : s.dueSpaces d c = [sp])
include hr hdue

theorem handlerGatherTimeout_novec (hv : s.gatherVec sp = 0) : Runs (.handlerGatherTimeout d c) s fun s' =>
    s.allKilled s' (s.waitingFrags d c sp) ∧ s'.events = s.events :=
  .of_eq (exec_handlerGatherTimeout hr hdue) (gather_novec hv ▸ ⟨allKilled_killFrags rfl fun _ => rfl, events_killFrags ..⟩)

theorem handlerGatherTimeout_waits (hv : s.gatherVec sp ≠ 0) (hread : (s.gatherRead d c sp).1 = none) :
    Runs (.handlerGatherTimeout d c) s (·.frags = s.frags) := by
  refine .of_eq (exec_handlerGatherTimeout hr hdue) ?_
  rw [gather_waits hv (Prod.ext hread rfl)]
  exact (partRead_keeps ..).1

theorem handlerGatherTimeout_unreadable (hv : s.gatherVec sp ≠ 0) (hread : (s.gatherRead d c sp).1 = some none) :
    Runs (.handlerGatherTimeout d c) s fun s' =>
      s.allKilled s' (s.waitingFrags d c sp) ∧ (s'.events.getLast?).map (·.data) = some (s.gatherVec sp) := by
  have hframe := (beside_gatherRead (ne_of_eq_of_ne hread (Option.some_ne_none _))).trans (beside_eventOpen _ (sp / 4096) (s.gatherVec sp))
  refine .of_eq (exec_handlerGatherTimeout hr hdue) ?_
  rw [gather_unreadable hv (Prod.ext hread rfl), events_killFrags]
  exact ⟨allKilled_killFrags hframe.frags hframe.warps, getLast_eventOpen ..⟩

section Read
variable {e l a : Nat} (hv : s.gatherVec sp ≠ 0) (hread : (s.gatherRead d c sp).1 = some (some [e, l, a]))
include hv hread

theorem handlerGatherTimeout_noentry (he : e = 0) :
    Runs (.handlerGatherTimeout d c) s fun s' => s.allKilled s' (s.waitingFrags d c sp) := by
  have hframe := beside_gatherRead (ne_of_eq_of_ne hread (Option.some_ne_none _))
  refine .of_eq (exec_handlerGatherTimeout hr hdue) ?_
  rw [gather_read hv (Prod.ext hread rfl), if_pos he]
  exact allKilled_killFrags hframe.frags hframe.warps

theorem handlerGatherTimeout_forms (he : e ≠ 0) : Runs (.handlerGatherTimeout d c) s fun s' =>
    (∃ T, s'.teams.find (s.uid + 1) = some T ∧ T.handler = true ∧ T.prio = 255 ∧ T.phase = .waiting ∧ T.sentry = e ∧ T.lanebase = l ∧
      T.args = BitVec.ofNat 64 a ∧ T.die = d ∧ T.core / 8 = c) ∧
    ∀ f ∈ s.takeFrags 32 (s.waitingFrags d c sp), (s'.frags.find f).map (·.state) = some .handling := by
  have hframe := beside_gatherRead (ne_of_eq_of_ne hread (Option.some_ne_none _))
  refine .of_eq (exec_handlerGatherTimeout hr hdue) ?_
  rw [gather_read hv (Prod.ext hread rfl), if_neg he, takeFrags_of_frags hframe.frags]
  refine ⟨hframe.uid ▸ formHandler_team .., fun f hf => 
    formHandler_frag d c sp e l a hf (hframe.frags ▸ find_of_waiting (takeFrags_subset s 32 _ hf))⟩

end Read
end Gather

/-- Settles O50, event by event, from what each event does (`exec_…`) and what the end of a cycle leaves of the warps (`warp_settle`). -/
theorem laneEvents : Obligations.LaneEvents := by
  intro s
  refine ⟨fun t w => ⟨laneBlockStart_idle, fun k r hq hl hs hp => ⟨fun hd => ?_, laneBlockStart_dead hq hl hs hp⟩,
    fun b => ⟨fun h => .of_eq (exec_slotTakesWork_idle h) rfl, fun hb hl hs hp => ⟨fun p st htake => ?_, fun k htake hready => ?_, fun htake hready => ?_⟩,
      fun h => .of_eq (exec_loadDataReturn_idle h) rfl, fun p l r v ln hp hboard hl => loadDataReturn_writes hp hboard hl⟩,
    fun v => ⟨fun h => .of_eq (exec_regcacheFillDone_idle h) rfl, fun h => ?_⟩,
    fun id h => .of_eq (exec_joinExpiry_early h) rfl,
    fun id j e ar o dl k hst hdue hlive hp ha har _ hopen => joinExpiry_resumes hst hdue hlive hp ha har hopen⟩,
    fun d asid page => ⟨fun h => .of_eq (exec_demandPageResolved_absent h) rfl, demandPageResolved_wakes⟩,
    fun d core asid va store => ?_, fun d c => ⟨fun h => .of_eq (exec_handlerGatherTimeout_idle h) rfl, fun sp hr hdue =>
      ⟨handlerGatherTimeout_novec hr hdue, handlerGatherTimeout_waits hr hdue, handlerGatherTimeout_unreadable hr hdue, fun e l a hv hread =>
        ⟨handlerGatherTimeout_noentry hr hdue hv hread, handlerGatherTimeout_forms hr hdue hv hread⟩⟩⟩⟩
  · obtain ⟨s', he, hx⟩ := laneBlockStart_live hq hl hs hp hd
    refine ⟨s', he, ?_⟩
    dsimp only
    rw [hx]
    exact ⟨rfl, rfl, rfl, rfl, rfl, rfl, rfl, rfl, rfl, rfl⟩
  · exact .of_eq (exec_slotTakesWork_part hb hl hs hp htake) rfl
  · exact slotTakesWork_frag hb hl hs hp htake hready
  · exact .of_eq (exec_slotTakesWork_none hb hl hs hp htake hready) rfl
  · obtain ⟨s', he, hcold, hsame⟩ := regcacheFillDone_fills h
    exact ⟨s', he, hcold, fun u x => ⟨hsame.lanes u x, hsame.scalars u x, hsame.masks u x⟩, hsame.dies⟩
  · refine .of_eq (exec_translationReply d core asid va store s) ⟨fun x hx hd hc a ha hm => ?_, fun t w => ?_, fun sp h x hx hd hc a ha hm => ?_⟩
    · exact ReplyTo.answered ⟨x, hx, hd, hc, ha, hm⟩
    · obtain ⟨hs, hv, hspc⟩ := ReplyTo.run_samePlace ⟨d, core, asid, va / 4096, store⟩ (stackOf va) _ s t w
      exact ⟨hs, hv, hspc⟩
    · have hans := ReplyTo.answered_one (R := ⟨d, core, asid, va / 4096, store⟩) (stack := stackOf va) (sp := sp)
        (fun a ⟨y, hy, hyd, hyc, hya, hym⟩ => h y hy hyd hyc a hya hym) ⟨x, hx, hd, hc, ha, hm⟩
      unfold State.answerFor stackOf at hans
      exact hans

end Sys2Proof.Machine

/-! PROOFS. The floating-point lane instructions (R116, R124, R126, R127). -/

namespace Sys2Proof.Machine

/-! ### Results of lane instructions under every type -/

section Frame
variable {s : State} {t w : Nat} {b : Bool} {f : LaneWord} {i : Instr} {reads : List Nat} (h : s.onPath t w b) (hgo : s.goesOn t w b)
include h hgo

/-- An instruction that writes a value to vd, or to the pair, gives any expression for that value. -/
theorem laneWrites_gives {wide : Bool} {v : Warp → Nat → Nat} {v' : Nat → Nat}
    (he : exec i s = laneWrites f reads (fun W l => out1 wide f.vd (v W l)) s) (hv : ∀ l, v (s.warp t w) l = v' l) :
    Runs i s fun s' => LaneResult s s' t w b f wide v' := by
  obtain ⟨s', hrun, hres⟩ := laneWrites_result h hgo f reads wide v
  rw [funext hv] at hres
  exact ⟨s', he.trans hrun, hres⟩

theorem laneElem_gives {g g' : Nat → Nat → Nat → Nat} (he : exec i s = laneElem f reads g s) (hg : ∀ x y z, g x y z = g' x y z) :
    LaneElems s t w b f i g' := by
  obtain rfl : g = g' := funext fun x => funext fun y => funext fun z => hg x y z
  exact laneWrites_gives h hgo (v := fun W l => elem3 f.ty g (W.opa f (Lane.wide f.ty) l) (W.opb f (Lane.wide f.ty) l) (W.opc f (Lane.wide f.ty) l)) he
    fun l => (perElement_eq_elem3 ..).symm

end Frame

/-! ### Modifiers, rounding mode and saturation (R59, R116) -/

theorem rmode_eq (f : LaneWord) : rmode f = f.md.toNat % 4 := bits_low _ 1

/-- The bits of 1 in a format. -/
theorem enc_one (ty : Nat) : (fmtOf ty).enc 0 (.fin false 1 0) = (2 ^ ((fmtOf ty).x - 1) - 1) * 2 ^ (fmtOf ty).p := by
  unfold fmtOf
  split_ifs <;> decide

theorem sat_eq (ty x : Nat) : (fmtOf ty).sat x =
    if (fmtOf ty).dec x = .nan ∨ ((fmtOf ty).dec x).isNeg = true ∨ x = 0 then 0
    else if (fmtOf ty).enc 0 (.fin false 1 0) < x then (fmtOf ty).enc 0 (.fin false 1 0) else x := by
  rw [enc_one]
  unfold Fmt.sat
  cases (fmtOf ty).dec x <;> simp

/-- R116, R124, R127: an instruction of the frame of floating-point instructions. -/
theorem laneFloat_gives {s : State} {t w : Nat} {b : Bool} {f : LaneWord} {i : Instr} {reads : List Nat} (h : s.onPath t w b) (hgo : s.goesOn t w b)
    {g : Fmt → Nat → FV → FV → FV → Nat} (he : exec i s = laneFloat f reads g s) :
    let F := fmtOf f.ty.toNat
    let one := F.enc 0 (.fin false 1 0)
    LaneElems s t w b f i fun x y z =>
      let r := g F (f.md.toNat % 4) (fmods f.abs f.na (F.dec x)) (fmods f.abs f.nb (F.dec y)) (F.dec z)
      if f.sat = false then r else if F.dec r = .nan ∨ (F.dec r).isNeg = true ∨ r = 0 then 0 else if one < r then one else r := by
  intro F one
  refine laneElem_gives h hgo he fun x y z => ?_
  dsimp only
  rw [rmode_eq, sat_eq]
  cases f.sat <;> rfl

/-- A value times 2^n, in a format: NaN and infinities stand (R124). -/
def Fmt.ldexp (F : Fmt) (mode : Nat) (n : Int) : FV → Nat
  | .fin neg m e => F.enc mode (.fin neg m (e + n))
  | v => F.enc 0 v

/-- R124: the count of VFLDEXP is the low word of operand b, or its element. -/
theorem vfldexp_gives {s : State} {t w : Nat} {b : Bool} {f : LaneWord} (h : s.onPath t w b) (hgo : s.goesOn t w b) (hty : f.ty ≠ 8) :
    let F := fmtOf f.ty.toNat
    LaneElems s t w b f (.vfldexp f) fun x y _ =>
      let n : Int := if f.ty = 6 ∨ f.ty = 7 then (BitVec.ofNat 16 y).toInt else (BitVec.ofNat 32 y).toInt
      F.ldexp (f.md.toNat % 4) (max (-10000) (min 10000 n)) (fmods f.abs f.na (F.dec x)) := by
  intro F
  have hpacked : packed f.ty = true ↔ f.ty = 6 ∨ f.ty = 7 := (packed_iff f.ty).trans (by tauto)
  have hcount (y : Nat) : sext y (if packed f.ty then 16 else 32) =
      if f.ty = 6 ∨ f.ty = 7 then (BitVec.ofNat 16 y).toInt else (BitVec.ofNat 32 y).toInt := by
    rw [sext_eq_toInt]
    by_cases hp : packed f.ty = true
    · rw [if_pos hp, if_pos (hpacked.mp hp)]
    · rw [if_neg hp, if_neg (mt hpacked.mpr hp)]
  refine laneElem_gives h hgo (reads := rdALow f) (i := .vfldexp f) rfl fun x y _ => ?_
  dsimp only
  rw [hcount, rmode_eq]
  cases fmods f.abs f.na (F.dec x) <;> rfl

/-- Settles O30: each instruction of the floating-point frame by `laneFloat_gives`; VFCLASS and VFLDEXP, which do not saturate, by themselves. -/
theorem laneFloatResults : Obligations.LaneFloatResults := by
  intro s t w b h hgo f hty W wide F mode mods bitsOf one saturate gives
  have hgives {i : Instr} {reads : List Nat} (g : Fmt → Nat → FV → FV → FV → Nat) (he : exec i s = laneFloat f reads g s) : gives i (g F mode) :=
    laneFloat_gives h hgo he
  have hne : f.ty ≠ 8 := fun h8 => absurd (h8 ▸ hty) (by decide)
  exact ⟨hgives (reads := rdAB f) (fun t m a b _ => t.enc m (a.add m b)) rfl, hgives (reads := rdAB f) (fun t m a b _ => t.enc m (a.add m b.neg)) rfl,
    hgives (reads := rdAB f) (fun t m a b _ => t.enc m (a.mul b)) rfl, hgives (reads := rdABC f) (fun t m a b c => t.enc m ((a.mul b).add m c)) rfl,
    hgives (reads := rdAB f) (fun t _ a b _ => t.enc 0 (FV.pick false a b)) rfl, hgives (reads := rdAB f) (fun t _ a b _ => t.enc 0 (FV.pick true a b)) rfl,
    hgives (reads := rdA f) (fun t m a _ _ => t.sqrt m a) rfl, hgives (reads := rdAB f) (fun t m a b _ => t.div m a b) rfl,
    hgives (reads := rdA f) (fun t m a _ _ => t.rint m a) rfl, hgives (reads := rdA f) (fun t _ a _ _ => t.logb a) rfl,
    hgives (reads := rdA f) (fun _ _ a _ _ => rcp32 a) rfl, hgives (reads := rdA f) (fun _ _ a _ _ => rsq32 a) rfl,
    hgives (reads := rdA f) (fun _ _ a _ _ => exp2_32 a) rfl, hgives (reads := rdA f) (fun _ _ a _ _ => log2_32 a) rfl,
    hgives (reads := rdA f) (fun _ _ a _ _ => sin32 a) rfl, hgives (reads := rdA f) (fun _ _ a _ _ => cos32 a) rfl,
    laneElem_gives h hgo (reads := rdA f) rfl fun _ _ _ => rfl, vfldexp_gives h hgo hne⟩

end Sys2Proof.Machine

/-! PROOFS. VCVT (R116, R128, R129). -/

namespace Sys2Proof.Machine

/-! ### Elements -/

theorem isFloat_iff (ty : BitVec 4) : isFloat ty.toNat = true ↔ 4 ≤ ty.toNat ∧ ty.toNat ≤ 7 := by revert ty; decide

theorem fmods_eq_nan {abs neg : Bool} {v : FV} : fmods abs neg v = .nan ↔ v = .nan := by
  cases v <;> cases abs <;> cases neg <;> simp [fmods, FV.abs, FV.neg]

theorem half16_eq (x : Nat) (i : Bool) : half16 x i = x / 2 ^ (if i then 16 else 0) % 2 ^ 16 := by
  cases i <;> simp [half16]

/-- The conversion of an element, by which of its types are floating (R129). -/
theorem convElem_eq (dst src : BitVec 4) (mode : Nat) (sat abs neg : Bool) (x : Nat) :
    let S := fmtOf src.toNat
    let D := fmtOf dst.toNat
    let n := tyBits dst
    convElem dst src mode sat abs neg x =
      if (4 ≤ src.toNat ∧ src.toNat ≤ 7) ∧ 4 ≤ dst.toNat ∧ dst.toNat ≤ 7 then
        (if dst = src then (if S.dec x = .nan then D.nan else bitMods S abs neg x) else D.enc mode (fmods abs neg (S.dec x)))
      else if 4 ≤ src.toNat ∧ src.toNat ≤ 7 then
        (floatToInt mode (if tySigned dst then -2 ^ (n - 1) else 0) (if tySigned dst then 2 ^ (n - 1) - 1 else 2 ^ n - 1) (fmods abs neg (S.dec x)) % 2 ^ n).toNat
      else if 4 ≤ dst.toNat ∧ dst.toNat ≤ 7 then D.enc mode (.fin (decide (tyRead src x < 0)) (tyRead src x).natAbs 0)
      else tyFit dst sat (tyRead src x) := by
  intro S D n
  unfold convElem
  simp only [isFloat_iff, fmods_eq_nan, ← tyBits_eq, ← tySigned_eq, fit_eq_tyFit, readTy_eq_tyRead, intVal, wrap]
  by_cases hs : 4 ≤ src.toNat ∧ src.toNat ≤ 7
  · by_cases hd : 4 ≤ dst.toNat ∧ dst.toNat ≤ 7
    · rw [if_pos hs, if_pos hd, if_pos (And.intro hs hd)]
    · rw [if_pos hs, if_neg hd, if_neg (mt And.right hd), if_pos hs]
  · rw [if_neg hs, if_neg (mt And.left hs), if_neg hs]

/-! ### The word -/

/-- The value that VCVT puts into vd for a lane: an element of a packed destination beside the old other one, or a value by itself (R128). -/
def Warp.converted (W : Warp) (f : LaneWord) (src : BitVec 4) (l : Nat) : Nat :=
  let cv := convElem f.ty src (rmode f) f.sat f.abs f.na
  let x := W.opa f (Lane.wide src) l
  let old := (W.vw f.vd.toNat l).toNat
  let h := f.sub.getLsbD 4
  if packed f.ty && packed src then cv (half16 x false) % 2 ^ 16 + 2 ^ 16 * (cv (half16 x true) % 2 ^ 16)
  else if packed src then cv (half16 x h)
  else if packed f.ty then (if h then old % 2 ^ 16 + 2 ^ 16 * (cv x % 2 ^ 16) else cv x % 2 ^ 16 + 2 ^ 16 * (old / 2 ^ 16))
  else cv x

theorem exec_vcvt (f : LaneWord) (s : State) {src : BitVec 4} (hsrc : f.sub.toNat % 16 = src.toNat) :
    exec (.vcvt f) s = laneWrites f (regs1 (Lane.wide src) f.va ++ if packed f.ty && !packed src then [f.vd.toNat] else [])
      (fun W l => out1 (Lane.wide f.ty) f.vd (W.converted f src l)) s := by
  obtain rfl : BitVec.ofNat 4 (bits f.sub.toNat 3 0) = src := (congrArg (BitVec.ofNat 4) ((bits_low _ 3).trans hsrc)).trans (by simp)
  rfl

/-- Settles O31: VCVT writes `Warp.converted`, and each of its elements is `convElem_eq`. -/
theorem laneConversions : Obligations.LaneConversions := by
  intro s t w b h hgo f src _ _ hsrc W dst mode float two S D n mods conv half hi
  have hconv (x : Nat) : convElem f.ty src (rmode f) f.sat f.abs f.na x = conv x := by rw [rmode_eq]; exact convElem_eq ..
  have hbit : f.sub.getLsbD 4 = hi := (bitOf_eq_testBit f.sub.toNat 4).symm
  have hhalf (x : Nat) (i : Bool) : half16 x i = half i x := half16_eq x i
  refine laneWrites_gives h hgo (exec_vcvt f s hsrc) fun l => ?_
  have hold : (W.vw f.vd.toNat l).toNat / 2 ^ 16 = half true (W.vw f.vd.toNat l).toNat :=
    (Nat.mod_eq_of_lt (by have := (W.vw f.vd.toNat l).isLt; omega)).symm
  have hlow : (W.vw f.vd.toNat l).toNat % 2 ^ 16 = half false (W.vw f.vd.toNat l).toNat := hhalf _ false
  unfold Warp.converted
  dsimp only
  rw [show (s.warp t w) = W from rfl, hold, hlow]
  simp only [hconv, hhalf, hbit, Bool.and_eq_true, packed_iff]
  rfl

end Sys2Proof.Machine

/-! PROOFS. VQNT and VDQNT (R112, R130, R131). -/

namespace Sys2Proof.Machine

theorem blockE_le (xs : List FV) : blockE xs ≤ 255 := by
  have hexp (m : Nat) (e : Int) : blockExp m e ≤ 255 := by unfold blockExp; omega
  unfold blockE
  split
  · exact le_rfl
  · split
    · split
      · exact Nat.zero_le _
      · exact hexp ..
    · exact le_rfl

/-! ### VQNT -/

/-- A pair whose low word is given. -/
theorem out1_pair {lo : Nat} (hlo : lo < 2 ^ 32) (r : BitVec 8) (hi : Nat) :
    out1 true r (lo + 2 ^ 32 * hi) = [(r.toNat, BitVec.ofNat 32 lo), (r.toNat + 1, BitVec.ofNat 32 hi)] := by
  have hhi : (lo + 2 ^ 32 * hi) / 2 ^ 32 = hi := by omega
  have hword : BitVec.ofNat 32 (lo + 2 ^ 32 * hi) = BitVec.ofNat 32 lo := BitVec.eq_of_toNat_eq (by simp)
  rw [out1, if_pos rfl, hhi, hword]

/-- The bits of a significand in VQNT. -/
def sigWidth (f : LaneWord) : Nat := if f.sub.toNat % 2 = 1 then 4 else 8

theorem sigWidth_eq (f : LaneWord) : (if f.sub.getLsbD 0 then 4 else 8) = sigWidth f := by
  unfold sigWidth
  rw [BitVec.getLsbD, Nat.testBit_zero]
  simp only [decide_eq_true_eq]

section Quantise
variable (s : State) (t w : Nat) (b : Bool) (f : LaneWord)

/-- Element `i` of a lane (R130). -/
def State.qntElem (l i : Nat) : FV := f32.dec ((s.warp t w).vw (f.va.toNat + i) l).toNat

/-- E of a lane's block: the elements of the lanes with effect of one block of lanes (R130). -/
def State.qntE (l : Nat) : Nat :=
  let per := 4 * 2 ^ (f.md.toNat / 4)
  blockE (((s.acting t w b f).filter fun k => k / per == l / per).flatMap fun k => (List.range 4).map (s.qntElem t w f k))

/-- The bits of element `i`'s significand. -/
def State.qntSig (l i : Nat) : Nat :=
  if s.qntE t w b f l = 255 then 0 else (blockSig (s.qntElem t w f l i) (s.qntE t w b f l) (sigWidth f) % 2 ^ sigWidth f).toNat

/-- The four significands of a lane. -/
def State.qntWord (l : Nat) : Nat :=
  s.qntSig t w b f l 0 + s.qntSig t w b f l 1 * 2 ^ sigWidth f + s.qntSig t w b f l 2 * 2 ^ (2 * sigWidth f) + s.qntSig t w b f l 3 * 2 ^ (3 * sigWidth f)

theorem qntSig_lt (l i : Nat) : s.qntSig t w b f l i < 2 ^ sigWidth f := by
  unfold State.qntSig
  split
  · positivity
  · have hlt : blockSig (s.qntElem t w f l i) (s.qntE t w b f l) (sigWidth f) % 2 ^ sigWidth f < 2 ^ sigWidth f := Int.emod_lt_of_pos _ (by positivity)
    rw [← Int.ofNat_lt, Int.toNat_of_nonneg (Int.emod_nonneg _ (by positivity))]
    exact_mod_cast hlt

theorem qntWord_lt (l : Nat) : s.qntWord t w b f l < 2 ^ 32 := by
  have h0 := qntSig_lt s t w b f l 0
  have h1 := qntSig_lt s t w b f l 1
  have h2 := qntSig_lt s t w b f l 2
  have h3 := qntSig_lt s t w b f l 3
  have hwidth : sigWidth f = 4 ∨ sigWidth f = 8 := by unfold sigWidth; split <;> simp
  unfold State.qntWord
  rcases hwidth with hwidth | hwidth <;> rw [hwidth] at h0 h1 h2 h3 ⊢ <;> omega

variable {s t w b}

/-- The model's sum over the elements of a lane. -/
theorem qntWord_eq_sum (l : Nat) : ((List.range 4).map fun i => s.qntSig t w b f l i * 2 ^ (sigWidth f * i)).sum = s.qntWord t w b f l := by
  simp [List.range_succ, State.qntWord, mul_comm (sigWidth f), add_assoc]

theorem exec_vqnt (h : s.onPath t w b) : exec (.vqnt f) s =
    laneWrites f [] (fun _ l => out1 true f.vd (s.qntWord t w b f l + 2 ^ 32 * s.qntE t w b f l)) s := by
  have hper : bits f.md.toNat 3 2 = f.md.toNat / 4 := Nat.mod_eq_of_lt (by have := f.md.isLt; omega)
  have hpair : (fun (_ : Warp) l => out1 true f.vd (s.qntWord t w b f l + 2 ^ 32 * s.qntE t w b f l)) =
      fun _ l => [(f.vd.toNat, BitVec.ofNat 32 (s.qntWord t w b f l)), (f.vd.toNat + 1, BitVec.ofNat 32 (s.qntE t w b f l))] :=
    funext fun _ => funext fun l => out1_pair (qntWord_lt s t w b f l) f.vd (s.qntE t w b f l)
  rw [hpair]
  simp only [← qntWord_eq_sum]
  unfold laneWrites
  rw [lane_onPath _ h]
  change execVqnt f s = _
  unfold execVqnt
  rw [lane_onPath _ h]
  simp only [Warp.badLanes_nil _ _ _ h.2.2.2, and_not_zero, lanesOf_eff, hper, sigWidth_eq]
  rfl

end Quantise

/-! ### VDQNT -/

theorem lastWrite_concat (ws : List (Nat × Half)) (q r : Nat) (x : Half) :
    lastWrite (ws ++ [(q, x)]) r = if q = r then some x else lastWrite ws r := by
  by_cases hq : q = r
  · simp [lastWrite, hq]
  · have : (q == r) = false := by simpa using hq
    simp [lastWrite, this, hq]

/-- Writes to registers one after another. -/
theorem lastWrite_range (v n r : Nat) (x : Nat → Half) :
    lastWrite ((List.range n).map fun i => (v + i, x i)) r = if v ≤ r ∧ r < v + n then some (x (r - v)) else none := by
  induction n with
  | zero => rw [if_neg (by omega)]; rfl
  | succ n ih =>
    rw [List.range_succ, List.map_append, List.map_singleton, lastWrite_concat, ih]
    by_cases hr : v + n = r
    · subst hr
      rw [if_pos rfl, if_pos (by omega), Nat.add_sub_cancel_left]
    · rw [if_neg hr]
      exact if_congr (by omega) rfl rfl

theorem blockOpen_iff (sig : Int) (e8 n : Nat) : blockOpen sig e8 n = true ↔ e8 = 254 ∧ sig = -2 ^ (n - 1) := by
  simp [blockOpen]

/-- R112, R131: the value of a significand in F32. -/
theorem enc_blockVal (sig : Int) (e8 n : Nat) : f32.enc 0 (blockVal sig e8 n) =
    if e8 = 255 then f32.nan else f32.enc 0 (.fin (decide (sig < 0)) sig.natAbs ((e8 : Int) - 127 - (n - 2))) := by
  unfold blockVal
  split <;> rfl

/-- The value of significand `i` of a lane, or the free one (log entry 8). -/
def State.dequantised (s : State) (W : Warp) (f : LaneWord) (l i : Nat) : Half :=
  let e8 := W.opb f false l % 256
  let sig := sext (W.opa f false l / 2 ^ (sigWidth f * i)) (sigWidth f)
  BitVec.ofNat 32 (if blockOpen sig e8 (sigWidth f) then Config.freeBits (s.ctr + 4 * l + i) else f32.enc 0 (blockVal sig e8 (sigWidth f)))

theorem dequantised_eq (s : State) (W : Warp) (f : LaneWord) (l i : Nat) :
    let n := sigWidth f
    let e8 := W.opb f false l % 256
    let v := (BitVec.ofNat n (W.opa f false l / 2 ^ (n * i))).toInt
    s.dequantised W f l i = if e8 = 254 ∧ v = -2 ^ (n - 1) then BitVec.ofNat 32 (Config.freeBits (s.ctr + 4 * l + i))
      else BitVec.ofNat 32 (if e8 = 255 then f32.nan else f32.enc 0 (.fin (decide (v < 0)) v.natAbs ((e8 : Int) - 127 - (n - 2)))) := by
  intro n e8 v
  unfold State.dequantised
  simp only [blockOpen_iff, enc_blockVal, sext_eq_toInt]
  exact apply_ite (BitVec.ofNat 32) ..

theorem exec_vdqnt (f : LaneWord) (s : State) : exec (.vdqnt f) s = laneWrites f (regs1 false f.va ++ regsB f false)
    (fun W l => (List.range 4).map fun i => (f.vd.toNat + i, s.dequantised W f l i)) { s with ctr := s.ctr + 128 } := by
  change execVdqnt f s = _
  unfold execVdqnt State.dequantised
  simp only [sigWidth_eq]

/-- Settles O32: VQNT is a write of pairs (`exec_vqnt`), VDQNT one of four words (`exec_vdqnt`, `dequantised_eq`). -/
theorem laneQuantisation : Obligations.LaneQuantisation := by
  intro s t w b h hgo f W n per val block E sig
  refine ⟨fun l => blockE_le _, fun _ => laneWrites_gives h hgo (exec_vqnt f h) fun l => rfl, ?_⟩
  obtain ⟨s', hrun, hwrote⟩ := laneWrites_spec (s := { s with ctr := s.ctr + 128 }) h hgo f (regs1 false f.va ++ regsB f false)
    fun W l => (List.range 4).map fun i => (f.vd.toNat + i, s.dequantised W f l i)
  refine ⟨s', (exec_vdqnt f s).trans hrun, fun l r => BitVec.ofNat 32 (Config.freeBits (s.ctr + 4 * l + (r - f.vd.toNat))), ?_⟩
  convert hwrote using 3 with l r
  simp only [lastWrite_range, dequantised_eq]
  rw [← ite_and]
  rfl

end Sys2Proof.Machine

/-! PROOFS. VSEL, VMOV, the compares, VADDC and VSREG (R118, R120, R121, R123, R125, R154). -/

namespace Sys2Proof.Machine

/-! ### VSEL and VMOV -/

theorem sub_bits_low (f : LaneWord) : bits f.sub.toNat 2 0 = f.sub.toNat % 8 := bits_low _ 2

theorem exec_vmov (f : LaneWord) (s : State) : exec (.vmov f) s =
    if f.sub.getLsbD 0 then laneWrites f [] (fun _ _ => out1 (Lane.wide f.ty) f.vd (vmovImm f.ty.toNat f.imm)) s
    else laneWrites f (regsB f (Lane.wide f.ty)) (fun W l => out1 (Lane.wide f.ty) f.vd (W.opb f (Lane.wide f.ty) l)) s := rfl

theorem vmovImm_eq (ty : BitVec 4) (imm : Half) : vmovImm ty.toNat imm =
    if ty = 2 then (imm.toInt % 2 ^ 64).toNat else if ty = 5 then f64.enc 0 (f32.dec imm.toNat) else imm.toNat := by
  have hsext : (imm.signExtend 64).toNat = (imm.toInt % 2 ^ 64).toNat := by
    rw [BitVec.signExtend, BitVec.toNat_ofInt]
    rfl
  have hcode (k : BitVec 4) : ty.toNat = k.toNat ↔ ty = k := BitVec.toNat_inj
  unfold vmovImm
  rw [hsext]
  exact if_congr (hcode 2) rfl (if_congr (hcode 5) rfl rfl)

theorem laneMoves : Claims.LaneMoves := by
  intro s t w b h hgo f _ W wide gives
  refine ⟨fun k _ _ hk => ?_, fun hbit => ?_, fun hbit => ?_⟩
  · refine laneWrites_gives h hgo (reads := rdAB f) (v := fun W l => if (W.m.get (bits f.sub.toNat 2 0) 0).getLsbD l then W.opa f wide l else W.opb f wide l)
      rfl fun l => ?_
    rw [sub_bits_low, hk]
  · have hreg : ¬ f.sub.getLsbD 0 = true := by rw [BitVec.getLsbD, Nat.testBit_zero, hbit]; decide
    exact laneWrites_gives h hgo ((exec_vmov f s).trans (if_neg hreg)) fun _ => rfl
  · have himm : f.sub.getLsbD 0 = true := by rw [BitVec.getLsbD, Nat.testBit_zero, hbit]; rfl
    exact laneWrites_gives h hgo ((exec_vmov f s).trans (if_pos himm)) fun _ => vmovImm_eq f.ty f.imm

/-! ### Compares -/

theorem icond_eq {c : Nat} (hc : c < 6) (x y : Int) : icond c x y =
    decide ((c = 0 ∧ x = y) ∨ (c = 1 ∧ x ≠ y) ∨ (c = 2 ∧ x < y) ∨ (c = 3 ∧ x ≤ y) ∨ (c = 4 ∧ x > y) ∨ (c = 5 ∧ x ≥ y)) := by
  interval_cases c <;> simp [icond, bne, Bool.beq_eq_decide_eq]

theorem fcond_eq {c : Nat} (hc : c < 8) (x y : FV) : fcond c x y =
    let o := x.cmp y
    decide ((c = 0 ∧ o = some .eq) ∨ (c = 1 ∧ o ≠ some .eq) ∨ (c = 2 ∧ o = some .lt) ∨ (c = 3 ∧ (o = some .lt ∨ o = some .eq)) ∨
      (c = 4 ∧ o = some .gt) ∨ (c = 5 ∧ (o = some .gt ∨ o = some .eq)) ∨ (c = 6 ∧ o = none) ∨ (c = 7 ∧ o ≠ none)) := by
  unfold fcond
  rcases x.cmp y with _ | o
  · revert c; decide
  · revert c; cases o <;> decide

/-- An instruction that writes a mask gives any expression for the bit of a lane. -/
theorem laneMask_gives {s : State} {t w : Nat} {b : Bool} {f : LaneWord} (h : s.onPath t w b) (hgo : s.goesOn t w b) {i : Instr} {reads : List Nat}
    {k k' : Nat} {g : Warp → Bool → Nat → Bool} {p : Nat → Bool} (he : exec i s = laneMask f reads k g s) (hk : k = k')
    (hg : ∀ l, g (s.warp t w) b l = p l) : Runs i s fun s' => MaskWrote s s' t w b f k' p := by
  obtain ⟨s', hrun, hres⟩ := laneMask_wrote h hgo f reads k g
  rw [funext hg, hk] at hres
  exact ⟨s', he.trans hrun, hres⟩

theorem fmtOf_eq {ty : BitVec 4} (h : ty = 4 ∨ ty = 5) : fmtOf ty.toNat = if ty = 5 then f64 else f32 := by
  rcases h with rfl | rfl <;> rfl

section Frame
variable {s : State} {t w : Nat} {b : Bool} {f : LaneWord} (h : s.onPath t w b) (hgo : s.goesOn t w b)
include h hgo

theorem vicmp_gives (hc : f.md.toNat < 6) : Runs (.vicmp f) s fun s' => MaskWrote s s' t w b f (f.sub.toNat % 8) fun l =>
    let c := f.md.toNat
    let x := tyRead f.ty ((s.warp t w).opa f (Lane.wide f.ty) l)
    let y := tyRead f.ty ((s.warp t w).opb f (Lane.wide f.ty) l)
    decide ((c = 0 ∧ x = y) ∨ (c = 1 ∧ x ≠ y) ∨ (c = 2 ∧ x < y) ∨ (c = 3 ∧ x ≤ y) ∨ (c = 4 ∧ x > y) ∨ (c = 5 ∧ x ≥ y)) :=
  laneMask_gives h hgo (reads := rdAB f) (k := bits f.sub.toNat 2 0)
    (g := fun W _ l => icond f.md.toNat (readTy f.ty (W.opa f (Lane.wide f.ty) l)) (readTy f.ty (W.opb f (Lane.wide f.ty) l)))
    rfl (sub_bits_low f) fun l => by
    rw [readTy_eq_tyRead, readTy_eq_tyRead]
    exact icond_eq hc ..

theorem vfcmp_gives (hty : f.ty = 4 ∨ f.ty = 5) (hc : f.md.toNat < 8) : Runs (.vfcmp f) s fun s' => MaskWrote s s' t w b f (f.sub.toNat % 8) fun l =>
    let c := f.md.toNat
    let F := if f.ty = 5 then f64 else f32
    let o := (fmods f.abs f.na (F.dec ((s.warp t w).opa f (Lane.wide f.ty) l))).cmp (fmods f.abs f.nb (F.dec ((s.warp t w).opb f (Lane.wide f.ty) l)))
    decide ((c = 0 ∧ o = some .eq) ∨ (c = 1 ∧ o ≠ some .eq) ∨ (c = 2 ∧ o = some .lt) ∨ (c = 3 ∧ (o = some .lt ∨ o = some .eq)) ∨
      (c = 4 ∧ o = some .gt) ∨ (c = 5 ∧ (o = some .gt ∨ o = some .eq)) ∨ (c = 6 ∧ o = none) ∨ (c = 7 ∧ o ≠ none)) :=
  laneMask_gives h hgo (reads := rdAB f) (k := bits f.sub.toNat 2 0)
    (g := fun W _ l => fcond f.md.toNat (fmods f.abs f.na ((fmtOf f.ty.toNat).dec (W.opa f (Lane.wide f.ty) l)))
      (fmods f.abs f.nb ((fmtOf f.ty.toNat).dec (W.opb f (Lane.wide f.ty) l))))
    rfl (sub_bits_low f) fun l => by
    rw [fmtOf_eq hty]
    exact fcond_eq hc ..

end Frame

/-! ### VADDC (R118) -/

/-- The sum of a lane's words and its carry-in. -/
def Warp.carrySum (W : Warp) (f : LaneWord) (l : Nat) : Nat :=
  W.opa f false l + W.opb f false l + if f.sub.toNat / 8 ≠ 0 ∧ (W.m.get (f.sub.toNat / 8) 0).getLsbD l then 1 else 0

theorem carrySum_lt (W : Warp) (f : LaneWord) (l : Nat) : W.carrySum f l < 2 * 2 ^ 32 := by
  have ha : W.opa f false l < 2 ^ 32 := W.opa_lt f false l
  have hb : W.opb f false l < 2 ^ 32 := W.opb_lt f false l
  unfold Warp.carrySum
  split <;> omega

/-- The carry-out. -/
theorem bitOf_carrySum (W : Warp) (f : LaneWord) (l : Nat) : bitOf (W.carrySum f l) 32 = decide (2 ^ 32 ≤ W.carrySum f l) := by
  have hlt := carrySum_lt W f l
  rw [bitOf, Bool.beq_eq_decide_eq]
  exact decide_eq_decide.mpr (by omega)

theorem sumC_eq_carrySum (W : Warp) (b : Bool) (f : LaneWord) (l : Nat) :
    sumC (W.opa f false l) (W.opb f false l) (bits f.sub.toNat 5 3 != 0 && W.mbit b (bits f.sub.toNat 5 3) l) = W.carrySum f l := by
  have hci : bits f.sub.toNat 5 3 = f.sub.toNat / 8 := Nat.mod_eq_of_lt (by have := f.sub.isLt; omega)
  rw [hci]
  unfold sumC Warp.carrySum Warp.mbit
  by_cases h0 : f.sub.toNat / 8 = 0
  · simp [h0]
  · cases hbit : (W.m.get (f.sub.toNat / 8) 0).getLsbD l <;> simp [h0]

/-- Mask `j` of a warp after a write to mask `k`, which is not m0. -/
theorem getLsbD_setMask (W : Warp) {j : Nat} (hj : 1 ≤ j) (k : Nat) (ls val : Half) (l : Nat) (hl : l < 32) :
    ((W.setMask k ls val).m.get j 0).getLsbD l = if j = k ∧ ls.getLsbD l = true then val.getLsbD l else (W.m.get j 0).getLsbD l := by
  unfold Warp.setMask
  by_cases hk : k = 0
  · rw [if_pos hk, if_neg (by omega)]
  · rw [if_neg hk, Map.get_put]
    by_cases hjk : j = k
    · subst hjk
      simp only [if_true, true_and, BitVec.getLsbD_or, BitVec.getLsbD_and, BitVec.getLsbD_not, hl, decide_true, Bool.true_and]
      cases ls.getLsbD l <;> simp
    · simp [hjk]

theorem setMask_fields (W : Warp) (k : Nat) (ls val : Half) : W.setMask k ls val = { W with m := (W.setMask k ls val).m } := by
  unfold Warp.setMask
  split <;> rfl

/-- The low words of the sums, lane by lane. -/
def Warp.sums (V : Warp) (f : LaneWord) (W : Warp) (ls : List Nat) : Warp :=
  ls.foldl (fun V l => V.setVs l [(f.vd.toNat, BitVec.ofNat 32 (W.carrySum f l))]) V

/-- The warp after VADDC: sums in vd, carries in a mask. -/
def Warp.addc (V : Warp) (f : LaneWord) (W : Warp) (ls : List Nat) : Warp :=
  (V.sums f W ls).setMask (f.sub.toNat % 8) (maskOf ls) (maskOf (ls.filter fun l => decide (2 ^ 32 ≤ W.carrySum f l)))

theorem sums_fields (V : Warp) (f : LaneWord) (W : Warp) (ls : List Nat) : V.sums f W ls = { V with v := (V.sums f W ls).v, badV := (V.sums f W ls).badV } :=
  Warp.foldl_setVs_fields ..

theorem addc_fields (V : Warp) (f : LaneWord) (W : Warp) (ls : List Nat) :
    V.addc f W ls = { V with v := (V.addc f W ls).v, badV := (V.addc f W ls).badV, m := (V.addc f W ls).m } := by
  unfold Warp.addc
  rw [setMask_fields, sums_fields]

theorem path_addc (V : Warp) (f : LaneWord) (W : Warp) (ls : List Nat) (b : Bool) : (V.addc f W ls).path b = V.path b := by
  rw [addc_fields]
  cases b <;> rfl

/-- The model's two writes are `Warp.addc`: to mask 0, which holds no carry, it writes nothing. -/
theorem addc_eq (V : Warp) (b : Bool) (f : LaneWord) (W : Warp) (ls : List Nat) :
    (if f.sub.toNat % 8 = 0 then V.sums f W ls
      else (V.sums f W ls).writeMask b (f.sub.toNat % 8) (maskOf ls) (maskOf (ls.filter fun l => decide (2 ^ 32 ≤ W.carrySum f l)))) = V.addc f W ls := by
  unfold Warp.addc Warp.writeMask Warp.setMask
  split <;> rfl

theorem exec_vaddc {s : State} {t w : Nat} {b : Bool} (h : s.onPath t w b) (hgo : s.goesOn t w b) (f : LaneWord) :
    exec (.vaddc f) s = .next (s.modWarp t w fun V =>
      (V.addc f (s.warp t w) (s.acting t w b f)).setPath b (some ((s.path t w b).stepped s.now))) := by
  rw [← modWarp_nextIdx h hgo (fun V => V.addc f (s.warp t w) (s.acting t w b f)) (path_addc ..)]
  simp only [← addc_eq (b := b)]
  change execVaddc f s = _
  unfold execVaddc
  rw [lane_onPath _ h]
  simp only [Warp.badLanes_nil _ _ _ h.2.2.2, and_not_zero, lanesOf_eff, sumC_eq_carrySum, bitOf_carrySum, sub_bits_low, State.laneEnd, if_true]
  rfl

theorem mem_acting {s : State} {t w : Nat} {b : Bool} {f : LaneWord} {l : Nat} (hl : l < 32) : l ∈ s.acting t w b f ↔ s.acts t w b f l = true := by
  simp [State.acting, hl]

section Lanes
variable (V : Warp) (f : LaneWord) (W : Warp) {ls : List Nat} (hlt : ∀ l ∈ ls, l < 32) {l : Nat} (hl : l < 32)
include hlt hl

theorem vw_addc (hnd : ls.Nodup) (r : Nat) :
    (V.addc f W ls).vw r l = if l ∈ ls ∧ r = f.vd.toNat then BitVec.ofNat 32 (W.carrySum f l) else V.vw r l := by
  have hlast : lastWrite [(f.vd.toNat, BitVec.ofNat 32 (W.carrySum f l))] r =
      if f.vd.toNat = r then some (BitVec.ofNat 32 (W.carrySum f l)) else none := lastWrite_concat [] ..
  have hsums : (V.addc f W ls).vw r l = (V.sums f W ls).vw r l := by rw [Warp.addc, setMask_fields]; rfl
  rw [hsums, Warp.sums, Warp.vw_foldl_setVs _ _ _ hnd hlt l r hl, hlast]
  simp only [ite_and, eq_comm (a := r)]
  split_ifs <;> rfl

theorem getLsbD_addc {j : Nat} (hj : 1 ≤ j) : ((V.addc f W ls).m.get j 0).getLsbD l =
    if j = f.sub.toNat % 8 ∧ l ∈ ls then decide (2 ^ 32 ≤ W.carrySum f l) else (V.m.get j 0).getLsbD l := by
  have hsums : (V.sums f W ls).m = V.m := by rw [sums_fields]
  rw [Warp.addc, getLsbD_setMask _ hj _ _ _ _ hl, hsums, getLsbD_maskOf _ _ hl hlt, getLsbD_maskOf _ _ hl fun k hk => hlt k (List.mem_filter.mp hk).1]
  by_cases hmem : l ∈ ls <;> simp [hmem]

end Lanes

theorem vaddc_gives {s : State} {t w : Nat} {b : Bool} (h : s.onPath t w b) (hgo : s.goesOn t w b) (f : LaneWord) :
    Runs (.vaddc f) s fun s' =>
      s' = (s.modWarp t w fun V => { V.setPath b (some ((s.path t w b).stepped s.now)) with
        v := (s'.warp t w).v, badV := (s'.warp t w).badV, m := (s'.warp t w).m }) ∧
      (∀ l < 32, ∀ r, (s'.warp t w).vw r l =
        if s.acts t w b f l = true ∧ r = f.vd.toNat then BitVec.ofNat 32 ((s.warp t w).carrySum f l) else (s.warp t w).vw r l) ∧
      ∀ j, 1 ≤ j → j < 8 → ∀ l < 32, ((s'.warp t w).m.get j 0).getLsbD l =
        if j = f.sub.toNat % 8 ∧ s.acts t w b f l = true then decide (2 ^ 32 ≤ (s.warp t w).carrySum f l) else ((s.warp t w).m.get j 0).getLsbD l := by
  have hlt : ∀ l ∈ s.acting t w b f, l < 32 := fun l hl => List.mem_range.mp (List.mem_filter.mp hl).1
  have hvw (V : Warp) (p : Option Path) (r l : Nat) : (V.setPath b p).vw r l = V.vw r l := by cases b <;> rfl
  have hm (V : Warp) (p : Option Path) : (V.setPath b p).m = V.m := by cases b <;> rfl
  refine ⟨_, exec_vaddc h hgo f, ?_⟩
  dsimp only
  rw [State.warp_modWarp_self _ _ _ _ (State.hasWarp_of_live h.2.1)]
  refine ⟨State.modWarp_congr _ _ _ _ _ ?_, fun l hl r => ?_, fun j hj _ l hl => ?_⟩
  · conv_lhs => rw [addc_fields]
    cases b <;> rfl
  · rw [hvw, vw_addc _ _ _ hlt hl (List.nodup_range.filter _)]
    exact if_congr (and_congr_left' (mem_acting hl)) rfl rfl
  · rw [hm, getLsbD_addc _ _ _ hlt hl hj]
    exact if_congr (and_congr_right' (mem_acting hl)) rfl rfl

/-! ### VSREG (R123) -/

theorem lowest_eff (s : State) (t w : Nat) (b : Bool) (f : LaneWord) : lowest (s.eff t w b f) = (s.acting t w b f).head? := by
  rw [lowest, lanesOf_eff]

theorem exec_vsreg {s : State} {t w : Nat} {b : Bool} (h : s.onPath t w b) (f : LaneWord) : exec (.vsreg f) s =
    match (s.acting t w b f).head? with
    | none => .next (s.nextIdx t w b)
    | some l => .next ((s.modWarp t w fun V =>
        V.setSnap (32 + f.sub.toNat % 32) (BitVec.ofNat 64 ((s.warp t w).opa f (Lane.wide f.ty) l))).nextIdx t w b) := by
  change execVsreg f s = _
  unfold execVsreg
  rw [lane_onPath _ h, lowest_eff]
  cases (s.acting t w b f).head? with
  | none => rfl
  | some l => simp only [Warp.badLanes_nil _ _ _ h.2.2.2, if_true]

theorem laneCompares : Claims.LaneCompares := by
  intro s t w b h hgo f W wide k ci c
  refine ⟨fun _ hc => vicmp_gives h hgo hc, fun hty hc => vfcmp_gives h hgo hty hc, fun _ => vaddc_gives h hgo f, fun hnone => ?_, fun l r hsome => ?_⟩
  · exact ⟨_, (exec_vsreg h f).trans (by rw [hnone]; rfl), nextIdx_steps h hgo⟩
  · exact ⟨_, (exec_vsreg h f).trans (by rw [hsome]; rfl), modWarp_nextIdx h hgo _ (by unfold Warp.setSnap; cases b <;> rfl)⟩

/-- Settles O37: the moves are register writes; of the others the compares write masks, VADDC writes both and VSREG a shared register. -/
theorem laneMovesAndCompares : Obligations.LaneMovesAndCompares := ⟨laneMoves, laneCompares⟩

end Sys2Proof.Machine

/-! PROOFS. The cross-lane and mask instructions (R132, R154, R165 to R171). -/

namespace Sys2Proof.Machine

theorem sub_bit0_iff (f : LaneWord) : f.sub.getLsbD 0 = true ↔ f.sub.toNat % 2 = 1 := by
  rw [BitVec.getLsbD, Nat.testBit_zero, decide_eq_true_eq]

/-- The lanes without effect have no say in what an instruction writes. -/
theorem LaneResult.congr {s s' : State} {t w : Nat} {b : Bool} {f : LaneWord} {wide : Bool} {v v' : Nat → Nat} (h : LaneResult s s' t w b f wide v)
    (hv : ∀ l < 32, v l = v' l) : LaneResult s s' t w b f wide v' :=
  ⟨h.only, fun l hl r => by rw [h.vals l hl r, hv l hl]⟩

/-- An instruction that writes a shared register gives any expression for its value. -/
theorem laneShared_gives {s : State} {t w : Nat} {b : Bool} (h : s.onPath t w b) (hgo : s.goesOn t w b) {f : LaneWord} {i : Instr} {reads : List Nat}
    {r : Nat} {g : Warp → Bool → List Nat → Word} {x : Word} (he : exec i s = laneShared f reads r (fun W b ls => some (g W b ls)) s)
    (hx : g (s.warp t w) b (s.acting t w b f) = x) : Runs i s fun s' => SharedWrote s s' t w b r x := by
  obtain ⟨s', hrun, hwrote⟩ := (laneShared_wrote h hgo f reads r fun W b ls => some (g W b ls)).1 x (congrArg some hx)
  exact ⟨s', he.trans hrun, hwrote⟩

theorem laneWrites_onPath {s : State} {t w : Nat} {b : Bool} (h : s.onPath t w b) (f : LaneWord) (reads : List Nat) (g : Warp → Nat → List (Nat × Half)) :
    laneWrites f reads g s =
      .next ((s.modWarp t w fun V => (s.acting t w b f).foldl (fun V l => V.setVs l (g (s.warp t w) l)) V).nextIdx t w b) := by
  unfold laneWrites
  rw [lane_onPath _ h]
  simp only [Warp.badLanes_nil _ _ _ h.2.2.2, and_not_zero, lanesOf_eff, State.laneEnd, if_true]

/-! ### Shuffles (R165, R167) -/

/-- What a lane takes from source `j`: that lane's a, or its own c where the source is not valid. -/
def Warp.shuffled (W : Warp) (b : Bool) (f : LaneWord) (j : Int) (l : Nat) : Nat :=
  if W.source b j then W.opa f (Lane.wide f.ty) j.toNat else W.opc f (Lane.wide f.ty) l

theorem source_iff (s : State) (t w : Nat) (b : Bool) (j : Int) : (s.warp t w).source b j = true ↔
    0 ≤ j ∧ j < 32 ∧ (s.path t w b).m0.getLsbD j.toNat = true ∧ (s.warp t w).dead.getLsbD j.toNat = false := by
  change (decide (0 ≤ j) && decide (j ≤ 31) && ((s.path t w b).m0 &&& ~~~(s.warp t w).dead).getLsbD j.toNat) = true ↔ _
  rw [Bool.and_eq_true, Bool.and_eq_true, decide_eq_true_eq, decide_eq_true_eq, BitVec.getLsbD_and, BitVec.getLsbD_not, Bool.and_eq_true, Bool.and_eq_true,
    decide_eq_true_eq, Bool.not_eq_true']
  constructor
  · rintro ⟨⟨hlo, hhi⟩, hm0, -, hdead⟩
    exact ⟨hlo, by omega, hm0, hdead⟩
  · rintro ⟨hlo, hhi, hm0, hdead⟩
    exact ⟨⟨hlo, by omega⟩, hm0, by omega, hdead⟩

theorem laneShuffle_eq {s : State} {t w : Nat} {b : Bool} (h : s.onPath t w b) (f : LaneWord) (useB : Bool) (src : Warp → Half → Nat → Int) :
    laneShuffle f useB src s =
      laneWrites f [] (fun W l => out1 (Lane.wide f.ty) f.vd (W.shuffled b f (src W (s.eff t w b f) l) l)) s := by
  have hval (W : Warp) (j : Int) (l : Nat) : (match (if W.source b j then some j.toNat else none) with
      | some k => W.opa f (Lane.wide f.ty) k
      | none => W.opc f (Lane.wide f.ty) l) = W.shuffled b f j l := by
    unfold Warp.shuffled
    cases W.source b j <;> rfl
  rw [laneWrites_onPath h]
  simp only [← hval]
  unfold laneShuffle
  rw [lane_onPath _ h]
  simp only [h.2.2.2, List.isEmpty_nil, and_not_zero, lanesOf_eff, State.laneEnd, if_true] <;> rfl

/-- A shuffle gives each lane its source's word, or its own where the source is not valid. -/
theorem laneShuffle_gives {s : State} {t w : Nat} {b : Bool} {f : LaneWord} (h : s.onPath t w b) (hgo : s.goesOn t w b) {i : Instr} {useB : Bool}
    {src : Warp → Half → Nat → Int} (he : exec i s = laneShuffle f useB src s) {src' : Nat → Int}
    (hsrc : ∀ l, src (s.warp t w) (s.eff t w b f) l = src' l)
    {v : Nat → Nat} (hv : ∀ l < 32, v l = (s.warp t w).shuffled b f (src' l) l) :
    Runs i s fun s' => LaneResult s s' t w b f (Lane.wide f.ty) v := by
  obtain ⟨s', hrun, hres⟩ := laneWrites_gives h hgo (he.trans (laneShuffle_eq h f useB src)) fun l => rfl
  exact ⟨s', hrun, hres.congr fun l hl => by rw [hsrc, hv l hl]⟩

/-! ### Bitmaps of lanes with effect -/

theorem maskOf_concat (ls : List Nat) (k : Nat) : maskOf (ls ++ [k]) = maskOf ls ||| BitVec.ofNat 32 (2 ^ k) := List.foldl_concat ..

theorem toNat_maskOf_range (p : Nat → Bool) {n : Nat} (hn : n ≤ 32) : (maskOf ((List.range n).filter p)).toNat < 2 ^ n ∧
    (maskOf ((List.range n).filter p)).toNat = ((List.range n).map fun l => if p l then 2 ^ l else 0).sum := by
  induction n with
  | zero => exact ⟨Nat.one_pos, rfl⟩
  | succ n ih =>
    obtain ⟨hlt, hsum⟩ := ih (by omega)
    have hpow : 2 ^ n < 2 ^ 32 := Nat.pow_lt_pow_right (by norm_num) (by omega)
    rw [List.range_succ, List.filter_append, List.map_append, List.sum_append, ← hsum, pow_succ]
    cases hp : p n with
    | false =>
      simp only [List.filter_singleton, hp, cond_false, List.append_nil, List.map_singleton, List.sum_singleton, Bool.false_eq_true, if_false]
      omega
    | true =>
      have hor : (maskOf ((List.range n).filter p) ||| BitVec.ofNat 32 (2 ^ n)).toNat = 2 ^ n + (maskOf ((List.range n).filter p)).toNat := by
        rw [BitVec.toNat_or, BitVec.toNat_ofNat, Nat.mod_eq_of_lt hpow, Nat.lor_comm]
        simpa using (Nat.two_pow_add_eq_or_of_lt hlt 1).symm
      simp only [List.filter_singleton, hp, cond_true, maskOf_concat, hor, List.map_singleton, List.sum_singleton, if_true]
      omega

section Bitmap
variable (s : State) (t w : Nat) (b : Bool) (f : LaneWord) (p : Nat → Bool)

/-- The bitmap of the lanes with effect of which `p` holds, as a number. -/
def State.bitmap : Nat := ((List.range 32).map fun l => if (s.acting t w b f).contains l && p l then 2 ^ l else 0).sum

theorem toNat_maskOf_acting : (maskOf ((s.acting t w b f).filter p)).toNat = s.bitmap t w b f p := by
  have hls : (s.acting t w b f).filter p = (List.range 32).filter fun l => (s.acting t w b f).contains l && p l := by
    unfold State.acting
    rw [List.filter_filter]
    refine List.filter_congr fun l hl => ?_
    rw [Bool.and_comm, Bool.eq_iff_iff, Bool.and_eq_true, Bool.and_eq_true, List.contains_iff_mem, List.mem_filter, and_iff_right hl]
  rw [hls]
  exact (toNat_maskOf_range _ le_rfl).2

theorem zeroExtend_maskOf_acting : (maskOf ((s.acting t w b f).filter p)).zeroExtend 64 = BitVec.ofNat 64 (s.bitmap t w b f p) := by
  rw [← toNat_maskOf_acting]
  exact (BitVec.ofNat_toNat ..).symm

theorem toNat_bitmap : (BitVec.ofNat 64 (s.bitmap t w b f p)).toNat = (maskOf ((s.acting t w b f).filter p)).toNat := by
  rw [BitVec.toNat_ofNat, ← toNat_maskOf_acting]
  exact Nat.mod_eq_of_lt ((BitVec.isLt _).trans (by norm_num))

end Bitmap

/-! ### Votes, scans and matches (R168 to R170) -/

section Frames
variable {s : State} {t w : Nat} {b : Bool} {f : LaneWord} (h : s.onPath t w b)
include h

theorem exec_vscan : exec (.vscan f) s = laneWrites f (rdA f) (fun W l => out1 (Lane.wide f.ty) f.vd
    (if f.sub.getLsbD 0 then
      (if l = 0 then identity (bits f.imm.toNat 2 0) f.ty else prefixScan (combine (bits f.imm.toNat 2 0) f.ty) (contrib f W (s.acting t w b f)) (l - 1))
      else prefixScan (combine (bits f.imm.toNat 2 0) f.ty) (contrib f W (s.acting t w b f)) l)) s := by
  rw [laneWrites_onPath h]
  change execVscan f s = _
  unfold execVscan
  rw [lane_onPath _ h]
  simp only [Warp.badLanes_nil _ _ _ h.2.2.2, and_not_zero, lanesOf_eff, State.laneEnd, if_true]

theorem exec_vmatch : exec (.vmatch f) s = laneWrites f (rdA f) (fun W l => out1 false f.vd
    (maskOf ((s.acting t w b f).filter fun j => W.opa f (Lane.wide f.ty) j == W.opa f (Lane.wide f.ty) l)).toNat) s := by
  rw [laneWrites_onPath h]
  change execVmatch f s = _
  unfold execVmatch out1
  rw [lane_onPath _ h]
  simp only [Warp.badLanes_nil _ _ _ h.2.2.2, and_not_zero, lanesOf_eff, State.laneEnd, if_true, Bool.false_eq_true, if_false, BitVec.ofNat_toNat,
    BitVec.setWidth_eq]
  rfl

end Frames

/-- R168, by the code of the vote. -/
theorem vote_eq (s : State) (t w : Nat) (b : Bool) (f : LaneWord) (p : Nat → Bool) (k : Nat) :
    let ls := s.acting t w b f
    (match k % 4 with
      | 0 => b2w (ls.all p)
      | 1 => b2w (ls.any p)
      | 2 => b2w (ls.all p || ls.all fun l => !p l)
      | _ => (maskOf (ls.filter p)).zeroExtend 64) =
    if k % 4 = 0 then b2w (ls.all p) else if k % 4 = 1 then b2w (ls.any p) else if k % 4 = 2 then b2w (ls.all p || !ls.any p)
      else BitVec.ofNat 64 (s.bitmap t w b f p) := by
  intro ls
  have hlt : k % 4 < 4 := Nat.mod_lt _ (by norm_num)
  generalize k % 4 = c at hlt
  interval_cases c
  · rfl
  · rfl
  · simp only [List.not_any_eq_all_not]
    rfl
  · exact zeroExtend_maskOf_acting ..

/-- R171, by the code of the operation. -/
theorem mlog_eq (op : Nat) (x y : Bool) : op < 6 →
    (match op with
      | 0 => x && y
      | 1 => x || y
      | 2 => x != y
      | 3 => x && !y
      | 4 => !x
      | _ => x) =
    decide ((op = 0 ∧ x ∧ y) ∨ (op = 1 ∧ (x ∨ y)) ∨ (op = 2 ∧ x ≠ y) ∨ (op = 3 ∧ x ∧ ¬ y) ∨ (op = 4 ∧ ¬ x) ∨ (op = 5 ∧ x)) := by
  intro hop
  revert x y
  interval_cases op <;> decide

/-! ### The instructions whose frame is written out in the model -/

section Exec
variable (f : LaneWord) (s : State)

theorem exec_vshfl : exec (.vshfl f) s = execVshfl f s := rfl
theorem exec_vbcast : exec (.vbcast f) s = execVbcast f s := rfl
theorem exec_vvote : exec (.vvote f) s = execVvote f s := rfl
theorem exec_vreduce : exec (.vreduce f) s = execVreduce f s := rfl
theorem exec_mlog : exec (.mlog f) s = execMlog f s := rfl
theorem exec_mpopc : exec (.mpopc f) s = execMpopc f s := rfl
theorem exec_mfirst : exec (.mfirst f) s = execMfirst f s := rfl
theorem exec_mset : exec (.mset f) s = execMset f s := rfl
theorem exec_mget : exec (.mget f) s = execMget f s := rfl
theorem exec_mput : exec (.mput f) s = execMput f s := rfl

end Exec

/-- The code of a reduction, of a logical operation. -/
theorem imm_bits_low (f : LaneWord) : bits f.imm.toNat 2 0 = f.imm.toNat % 8 := bits_low _ 2

/-- Settles O33: the shuffles by `laneShuffle_gives`; the other results are those of the frames, their bitmaps `State.bitmap`. -/
theorem crossLaneResults : Obligations.CrossLaneResults := by
  intro s t w b h hgo f W wide ls x source writes shares masks m i j bit mask op at_ from_
  have hcontrib : contrib f W ls = at_ := funext fun l => by unfold contrib; rw [imm_bits_low]
  have hshuffled (src : Nat → Int) (v : Nat → Nat) (hv : ∀ l < 32, from_ src l (v l)) (l : Nat) (hl : l < 32) : v l = W.shuffled b f (src l) l := by
    obtain ⟨hvalid, hother⟩ := hv l hl
    unfold Warp.shuffled
    split
    · next hs => exact hvalid ((source_iff s t w b _).mp hs)
    · next hs => exact hother fun hs' => hs ((source_iff s t w b _).mpr hs')
  refine ⟨fun v hv => ?_, fun v hv => ?_, ?_, ?_, ?_, ?_, fun hop => ?_, ?_, ?_, ?_, ?_, ?_⟩
  · refine laneShuffle_gives h hgo (exec_vshfl f s) (fun l => ?_) (hshuffled _ v hv)
    have hlt : f.sub.toNat % 4 < 4 := Nat.mod_lt _ (by norm_num)
    dsimp only
    rw [bits_low]
    change (match f.sub.toNat % 4 with | 0 => _ | 1 => _ | 2 => _ | _ => _) = _
    generalize f.sub.toNat % 4 = k at hlt
    interval_cases k <;> rfl
  · refine laneShuffle_gives h hgo (exec_vbcast f s) (fun l => ?_) (hshuffled _ v hv)
    rw [lowest_eff]
    exact if_congr (sub_bit0_iff f) rfl rfl
  · refine laneShared_gives h hgo (exec_vvote f s) ?_
    rw [bits_low]
    exact vote_eq s t w b f _ f.imm.toNat
  · refine laneShared_gives h hgo (exec_vreduce f s) ?_
    rw [imm_bits_low, hcontrib]
  · refine laneWrites_gives h hgo (exec_vscan h) fun l => ?_
    rw [hcontrib, imm_bits_low]
    by_cases hsub : f.sub.toNat % 2 = 0
    · rw [if_pos hsub, if_neg fun hbit => absurd ((sub_bit0_iff f).mp hbit) (by omega)]
    · rw [if_neg hsub, if_pos ((sub_bit0_iff f).mpr (by omega))]
  · exact laneWrites_gives h hgo (exec_vmatch h) fun l => (toNat_bitmap ..).symm
  · exact laneMask_gives h hgo (exec_mlog f s) (sub_bits_low f) fun l => by rw [imm_bits_low]; exact mlog_eq _ _ _ hop
  · exact laneShared_gives h hgo (exec_mpopc f s) rfl
  · exact laneShared_gives h hgo (exec_mfirst f s) (by rw [← List.head?_filter]; rfl)
  · exact laneMask_gives h hgo (exec_mset f s) (sub_bits_low f) fun l => rfl
  · exact laneShared_gives h hgo (exec_mget f s) (zeroExtend_maskOf_acting ..)
  · exact laneMask_gives h hgo (exec_mput f s) (sub_bits_low f) fun l => bitOf_eq_testBit ..

end Sys2Proof.Machine

/-! PROOFS. The transfers of a path: LNOP, LPAD, LJMP, LCALL, LRET, LBR (R138, R140 to R146). -/

namespace Sys2Proof.Machine

/-! ### Where a path goes -/

/-- A transfer within the lane code changes the path in the slot, if there is one. -/
theorem goto_eq (s : State) (t w : Nat) (b : Bool) {i : Nat} (hi : i ≤ 65535) :
    s.goto t w b i = s.modWarp t w fun W => W.setPath b ((W.path b).map fun p => { p.stepped s.now with pc := i }) := if_pos hi

/-- A change of a warp that leaves a path in the slot, and a transfer of that path. -/
theorem modWarp_goto {s : State} {t w : Nat} {b : Bool} (g : Warp → Warp) {p : Path} (hp : (g (s.warp t w)).path b = some p) {i : Nat} (hi : i ≤ 65535) :
    (s.modWarp t w g).goto t w b i = s.modWarp t w fun W => (g W).setPath b (some { p.stepped s.now with pc := i }) := by
  rw [goto_eq _ _ _ _ hi, State.modWarp_modWarp]
  exact State.modWarp_congr _ _ _ _ _ (by rw [hp]; rfl)

theorem goto_goes {s : State} {t w : Nat} {b : Bool} {p : Path} (hp : (s.warp t w).path b = some p) {i : Nat} (hi : i ≤ 65535) :
    s.goto t w b i = s.modWarp t w fun W => W.setPath b (some { p.stepped s.now with pc := i }) := by
  rw [goto_eq _ _ _ _ hi]
  exact State.modWarp_congr _ _ _ _ _ (by rw [hp]; rfl)

theorem goto_pathGoes {s : State} {t w : Nat} {b : Bool} (h : s.onPath t w b) {i : Nat} (hi : i ≤ 65535) : PathGoes s (s.goto t w b i) t w b i :=
  goto_goes (State.path_eq h.2.2.1) hi

theorem target_le (f : LaneWord) : target f ≤ 65535 := by
  unfold target
  omega

theorem stackFree_eq (W : Warp) : W.stackFree = 64 - W.stack.length := rfl

theorem mkReport_lane (s : State) (t w code pc : Nat) : s.mkReport t (some w) { code := code, pc := pc, lane := true } =
    { s.warpReport t w (code / 256) (code % 256) 0 0 with pc := pc, lane := true } := rfl

/-- R140: a stack without room halts the warp at the instruction. -/
theorem dstack_halts {s : State} {t w : Nat} {b : Bool} (h : s.onPath t w b) :
    WarpHalted s (s.dstack t w b) t w { s.warpReport t w 12 0 0 0 with pc := (s.path t w b).pc, lane := true } := by
  have hhalted := warpFault_halts s t w { code := cDSTACK, pc := (s.path t w b).pc, lane := true } (State.hasWarp_of_live h.2.1) (State.running_of_live h.2.1)
  rw [mkReport_lane] at hhalted
  exact hhalted

/-! ### LNOP, LPAD, LJMP, LCALL, LRET (R143, R145, R146) -/

section Path
variable {s : State} {t w : Nat} {b : Bool} (h : s.onPath t w b) (f : LaneWord)
include h

theorem exec_lnop : exec (.lnop f) s = .next (s.nextIdx t w b) := by
  change execLnop f s = _
  unfold execLnop
  rw [lane_onPath _ h]

theorem exec_lpad : exec (.lpad f) s = .next (s.nextIdx t w b) := by
  change execLpad f s = _
  unfold execLpad
  rw [lane_onPath _ h]

theorem exec_ljmp : exec (.ljmp f) s = .next (if (s.path t w b).m0 = 0 then s.nextIdx t w b else s.goto t w b (target f)) := by
  change execLjmp f s = _
  unfold execLjmp
  rw [lane_onPath _ h]

theorem exec_lcall : exec (.lcall f) s = .next (
    if (s.path t w b).m0 = 0 then s.nextIdx t w b
    else if (s.warp t w).stackFree < 1 then s.dstack t w b
    else (s.modWarp t w fun W => { W with stack := .ret ((s.path t w b).pc + 1) (s.path t w b).mem :: W.stack }).goto t w b (target f)) := by
  change execLcall f s = _
  unfold execLcall
  rw [lane_onPath _ h]
  dsimp only
  split_ifs <;> rfl

theorem exec_lret_idle (hm0 : (s.path t w b).m0 = 0) : exec (.lret f) s = .next (s.nextIdx t w b) := by
  change execLret f s = _
  unfold execLret
  rw [lane_onPath _ h]
  exact if_pos hm0

theorem exec_lret {i : Nat} {st : List Entry} (hm0 : (s.path t w b).m0 ≠ 0) (hret : takeRet (s.path t w b).mem (s.warp t w).stack = some (i, st)) :
    exec (.lret f) s = .next ((s.modWarp t w fun W => { W with stack := st }).goto t w b i) := by
  change execLret f s = _
  unfold execLret
  rw [lane_onPath _ h]
  dsimp only
  rw [if_neg hm0, hret]

end Path

/-- A new stack. -/
def Warp.withStack (W : Warp) (st : List Entry) : Warp := { W with stack := st }

@[simp] theorem Warp.path_withStack (W : Warp) (b : Bool) (st : List Entry) : (W.withStack st).path b = W.path b := by cases b <;> rfl

/-- A new stack, and a transfer of the path. -/
theorem stack_goto {s : State} {t w : Nat} {b : Bool} {p : Path} (hp : (s.warp t w).path b = some p) (g : Warp → List Entry) {i : Nat} (hi : i ≤ 65535) :
    (s.modWarp t w fun W => W.withStack (g W)).goto t w b i =
      s.modWarp t w fun W => (W.withStack (g W)).setPath b (some { p.stepped s.now with pc := i }) :=
  modWarp_goto _ (by rw [Warp.path_withStack, hp]) hi

/-! ### LBR (R142) -/

/-- The part of a path that falls through a branch; `id` is its JOIN entry. -/
def Path.fallen (p : Path) (tk : Half) (id now : Nat) : Path :=
  { pc := p.pc + 1, m0 := p.m0 &&& ~~~tk, mem := p.mem &&& ~~~tk, join := some id, board := p.boardOf (p.mem &&& ~~~tk), issued := now }

/-- The part of a path that takes a branch. -/
def Path.taken (p : Path) (tk : Half) (tgt id now : Nat) : Path :=
  { pc := tgt, m0 := tk, mem := tk, join := some id, board := p.boardOf tk, issued := now }

/-- The warp after a divergent branch of path `p`. -/
def Warp.branched (W : Warp) (b : Bool) (p : Path) (tk : Half) (f : LaneWord) (now : Nat) : Warp :=
  ((W.pushJoin (joinIdx f) p.mem p.join).setPath b (some (p.taken tk (target f) W.joins now))).parts b [p.fallen tk W.joins now]

/-- The lanes that take a branch. -/
def State.takers (s : State) (t w : Nat) (b : Bool) (f : LaneWord) : Half :=
  let m : Half := (s.warp t w).m.get (f.sub.toNat % 8) 0
  s.eff t w b f &&& (if f.sub.toNat / 8 % 2 = 1 then ~~~m else m)

theorem sub_bit3_iff (f : LaneWord) : f.sub.getLsbD 3 = true ↔ f.sub.toNat / 8 % 2 = 1 := by
  rw [BitVec.getLsbD, Nat.testBit_eq_decide_div_mod_eq, decide_eq_true_eq]

theorem exec_lbr {s : State} {t w : Nat} {b : Bool} (h : s.onPath t w b) (f : LaneWord) :
    let p := s.path t w b
    let tk := s.takers t w b f
    exec (.lbr f) s = .next (
      if tk = 0 ∨ target f = p.pc + 1 then s.nextIdx t w b
      else if p.mem &&& ~~~tk = 0 then s.goto t w b (target f)
      else if (s.warp t w).stackFree < (if ((s.warp t w).path (!b)).isNone then 1 else 2) then s.dstack t w b
      else s.modWarp t w (·.branched b p tk f s.now)) := by
  intro p tk
  have htk : tk = s.eff t w b f &&&
      (if f.sub.getLsbD 3 then ~~~((s.warp t w).m.get (bits f.sub.toNat 2 0) 0) else (s.warp t w).m.get (bits f.sub.toNat 2 0) 0) := by
    simp only [sub_bits_low, sub_bit3_iff]
    rfl
  change execLbr f s = _
  unfold execLbr
  rw [lane_onPath _ h]
  dsimp only
  rw [← htk]
  split_ifs <;> rfl

section Branched
variable {W : Warp} {b : Bool} (p : Path) (tk : Half) (f : LaneWord) (now : Nat)

/-- The JOIN entry of a branch. -/
def Warp.joinOf (W : Warp) (f : LaneWord) (p : Path) : Entry := .join W.joins (joinIdx f) p.mem 0 p.join none 0

/-- The part that falls through takes the other slot when it is empty. -/
theorem branched_free (hfree : W.path (!b) = none) : W.branched b p tk f now =
    (Warp.setPath { W with stack := W.joinOf f p :: W.stack, joins := W.joins + 1 } b (some (p.taken tk (target f) W.joins now))).setPath (!b)
      (some (p.fallen tk W.joins now)) := by
  cases b <;> exact if_pos (congrArg Option.isNone hfree)

/-- With a path in the other slot, the part that falls through becomes a PART entry. -/
theorem branched_full (hfull : W.path (!b) ≠ none) : W.branched b p tk f now =
    Warp.setPath { W with stack := .part (p.fallen tk W.joins now) :: W.joinOf f p :: W.stack, joins := W.joins + 1 } b
      (some (p.taken tk (target f) W.joins now)) := by
  have hnone : ¬ (W.path (!b)).isNone = true := fun h => hfull (Option.isNone_iff_eq_none.mp h)
  cases b <;> exact if_neg hnone

end Branched

/-- Settles O34: the equations of the transfers, and a DSTACK where the stack has no room (`dstack_halts`). -/
theorem laneTransfers : Obligations.LaneTransfers := by
  intro s t w b h hgo f W P tgt m tk free full steps goes boardOf
  have hpath : W.path b = some P := State.path_eq h.2.2.1
  have hsteps {i : Instr} (he : exec i s = .next (s.nextIdx t w b)) : steps i := .of_eq he (nextIdx_steps h hgo)
  have hbr : exec (.lbr f) s = .next (
      if tk = 0 ∨ tgt = P.pc + 1 then s.nextIdx t w b
      else if P.mem &&& ~~~tk = 0 then s.goto t w b tgt
      else if free < (if (W.path (!b)).isNone then 1 else 2) then s.dstack t w b
      else s.modWarp t w (·.branched b P tk f s.now)) := exec_lbr h f
  refine ⟨hsteps (exec_lnop h f), hsteps (exec_lpad h f), fun hm0 => ⟨?_, ?_, ?_⟩, fun hm0 => ?_, fun hm0 => ⟨fun hfree => ?_, fun hfree => ?_⟩,
    fun hm0 i st hret hi => ?_, fun hnot => ?_, fun htk htgt hfall => ?_, fun htk htgt hfall => ?_⟩
  · exact hsteps ((exec_ljmp h f).trans (by rw [if_pos hm0]))
  · exact hsteps ((exec_lcall h f).trans (by rw [if_pos hm0]))
  · exact hsteps (exec_lret_idle h f hm0)
  · have hjmp := exec_ljmp h f
    rw [if_neg hm0] at hjmp
    exact .of_eq hjmp (goto_pathGoes h (target_le f))
  · have hcall := exec_lcall h f
    rw [if_neg hm0, stackFree_eq, if_neg (Nat.not_lt.mpr hfree)] at hcall
    exact .of_eq hcall (stack_goto hpath (fun W => .ret (P.pc + 1) P.mem :: W.stack) (target_le f))
  · have hcall := exec_lcall h f
    rw [if_neg hm0, stackFree_eq, if_pos (Nat.lt_one_iff.mpr hfree)] at hcall
    exact .of_eq hcall (dstack_halts h)
  · exact .of_eq (exec_lret h f hm0 hret) (stack_goto hpath (fun _ => st) hi)
  · rw [if_pos hnot] at hbr
    exact hsteps hbr
  · rw [if_neg (not_or.mpr ⟨htk, htgt⟩), if_pos hfall] at hbr
    exact .of_eq hbr (goto_pathGoes h (target_le f))
  · rw [if_neg (not_or.mpr ⟨htk, htgt⟩), if_neg hfall] at hbr
    intro fall take join
    refine ⟨fun hother => ?_, fun hother => ?_⟩
    · rw [if_pos (Option.isNone_iff_eq_none.mpr hother)] at hbr
      refine ⟨fun hfree => ?_, fun hfree => ?_⟩
      · rw [if_neg (Nat.not_lt.mpr hfree)] at hbr
        exact .of_eq hbr (State.modWarp_congr _ _ _ _ _ (branched_free P tk f s.now hother))
      · rw [if_pos (Nat.lt_one_iff.mpr hfree)] at hbr
        exact .of_eq hbr (dstack_halts h)
    · rw [if_neg fun hnone => hother (Option.isNone_iff_eq_none.mp hnone)] at hbr
      refine ⟨fun hfree => ?_, fun hfree => ?_⟩
      · rw [if_neg (Nat.not_lt.mpr hfree)] at hbr
        exact .of_eq hbr (State.modWarp_congr _ _ _ _ _ (branched_full P tk f s.now hother))
      · rw [if_pos hfree] at hbr
        exact .of_eq hbr (dstack_halts h)

end Sys2Proof.Machine

/-! PROOFS. LJMPI and LCALLI of a path that stays whole (R144, R145). -/

namespace Sys2Proof.Machine

/-- The index that a lane's register names. -/
def Warp.indexOf (W : Warp) (f : LaneWord) : Nat → Nat := fun l => (W.vw f.va.toNat l).toNat

/-- The RET entry of a call; a jump, and a call of no lane, push none. -/
def State.pushRet (s : State) (call : Bool) (t w ret : Nat) (ls : List Nat) : State :=
  if call = true ∧ (!ls.isEmpty) = true then s.modWarp t w fun W => W.withStack (.ret ret (maskOf ls) :: W.stack) else s

/-- No lane fails a check, and the members and the targets make one group: the path goes there as a whole. -/
theorem indirect_whole {s s1 : State} {t w : Nat} {b : Bool} (h : s.onPath t w b) (call : Bool) (f : LaneWord) {cks : List (Nat × Pad)} {x : Nat}
    (hcks : s.padChecks t (target f) (sortSet ((s.acting t w b f).map ((s.warp t w).indexOf f))) = (cks, s1)) (hgood : ∀ y ∈ cks, y.2 = .good)
    (hone : sortSet ((if (s.path t w b).mem &&& ~~~maskOf (s.acting t w b f) = 0 then [] else [(s.path t w b).pc + 1]) ++
      (s.acting t w b f).map ((s.warp t w).indexOf f)) = [x])
    (hroom : (if call = true ∧ (!(s.acting t w b f).isEmpty) = true then 1 else 0) ≤ (s.warp t w).stackFree) :
    indirect call f s = .next (((s1.pushRet call t w ((s.path t w b).pc + 1) (s.acting t w b f)).goto t w b x).settle t) := by
  have hpad (y : Nat) : ((cks.find? fun z => z.1 == y).map (·.2)).getD .good = .good := by
    cases hy : cks.find? fun z => z.1 == y with
    | none => rfl
    | some z => exact hgood z (List.mem_of_find?_eq_some hy)
  have hnotbad : (Pad.good == .bad) = false := rfl
  have hnotpoison : (Pad.good == .poison) = false := rfl
  unfold Warp.indexOf at hcks hone
  unfold State.pushRet indirect
  rw [lane_onPath _ h]
  simp only [Warp.badLanes_nil _ _ _ h.2.2.2, and_not_zero, lanesOf_eff, hcks, hpad, hnotbad, hnotpoison, beq_self_eq_true, List.filter_false, List.filter_true,
    List.contains_nil, Bool.not_false, hone]
  rw [if_neg (by simpa using Nat.not_lt.mpr hroom)]
  rfl

theorem exec_ljmpi (f : LaneWord) (s : State) : exec (.ljmpi f) s = indirect false f s := rfl
theorem exec_lcalli (f : LaneWord) (s : State) : exec (.lcalli f) s = indirect true f s := rfl

theorem maskOf_acting (s : State) (t w : Nat) (b : Bool) (f : LaneWord) : maskOf (s.acting t w b f) = s.eff t w b f := by
  rw [← lanesOf_eff, maskOf_lanesOf]

section Path
variable {s : State} {t w : Nat} {b : Bool} (h : s.onPath t w b) (f : LaneWord)
include h

/-- With no lane with effect the members go on (R155). -/
theorem indirect_idle (call : Bool) (heff : s.eff t w b f = 0) (hmem : (s.path t w b).mem ≠ 0) :
    indirect call f s = .next ((s.nextIdx t w b).settle t) := by
  have hls : s.acting t w b f = [] := by rw [← lanesOf_eff, heff]; rfl
  have hone : sortSet ((if (s.path t w b).mem &&& ~~~maskOf [] = 0 then [] else [(s.path t w b).pc + 1]) ++
      [].map ((s.warp t w).indexOf f)) = [(s.path t w b).pc + 1] := by
    rw [show maskOf [] = 0 from rfl, and_not_zero, if_neg hmem]
    rfl
  have hwhole := indirect_whole h call f (cks := []) (s1 := s) (by rw [hls]; rfl) (by simp) (by rw [hls]; exact hone) (by simp [hls])
  rw [hwhole, hls]
  simp [State.pushRet, State.nextIdx]

section Uniform
variable {x : Nat} {s1 : State} (heff : s.eff t w b f = (s.path t w b).mem) (hmem : (s.path t w b).mem ≠ 0)
  (hx : ∀ l < 32, (s.path t w b).mem.getLsbD l = true → ((s.warp t w).vw f.va.toNat l).toNat = x) (hpad : s.padCheck t x (target f) = (.good, s1))
include heff hmem hx hpad

/-- All members have effect and name one good target: they go there, after a call's RET entry. -/
theorem indirect_uniform (call : Bool) (hroom : call = true → (s.warp t w).stack.length < 64) : indirect call f s =
    .next (((if call then s1.modWarp t w fun W => W.withStack (.ret ((s.path t w b).pc + 1) (s.path t w b).mem :: W.stack)
      else s1).goto t w b x).settle t) := by
  have hls : s.acting t w b f = lanesOf (s.path t w b).mem := by rw [← lanesOf_eff, heff]
  have hne : s.acting t w b f ≠ [] := by rw [hls]; exact lanesOf_ne_nil hmem
  have hset : sortSet ((s.acting t w b f).map ((s.warp t w).indexOf f)) = [x] := by
    refine foldl_setIns_const (fun hnil => hne (List.map_eq_nil_iff.mp hnil)) fun y hy => ?_
    obtain ⟨l, hl, rfl⟩ := List.mem_map.mp hy
    rw [hls, mem_lanesOf] at hl
    exact hx l hl.1 hl.2
  have hrest : (s.path t w b).mem &&& ~~~maskOf (s.acting t w b f) = 0 := by rw [maskOf_acting, heff, BitVec.and_not_self]
  have hcks : s.padChecks t (target f) [x] = ([(x, .good)], s1) := by simp [State.padChecks, hpad]
  have hneed : (if call = true ∧ (!(s.acting t w b f).isEmpty) = true then 1 else 0) ≤ (s.warp t w).stackFree := by
    rw [stackFree_eq]
    split
    · next hcall => have := hroom hcall.1; omega
    · exact Nat.zero_le _
  have hwhole := indirect_whole h call f (cks := [(x, .good)]) (by rw [hset]; exact hcks) (by simp) (by rw [if_pos hrest, List.nil_append]; exact hset) hneed
  rw [hwhole, State.pushRet, maskOf_acting, heff]
  cases call <;> simp [hne]

end Uniform

end Path

/-- Settles O35: the members that go on, and the members that name one good target (`indirect_idle`, `indirect_uniform`). -/
theorem laneIndirect : Obligations.LaneIndirect := by
  intro s t w b h hgo f W P tag
  refine ⟨fun heff hmem => ?_, fun x s1 hmem heff hx hpad hW hnow hle => ?_⟩
  · have hsteps {i : Instr} {call : Bool} (he : exec i s = indirect call f s) :
        Runs i s fun s' => ∃ s1, PathSteps s s1 t w b ∧ s' = s1.settle t :=
      .of_eq (he.trans (indirect_idle h f call heff hmem)) ⟨_, nextIdx_steps h hgo, rfl⟩
    exact List.forall_mem_cons.mpr ⟨hsteps (exec_ljmpi f s), List.forall_mem_singleton.mpr (hsteps (exec_lcalli f s))⟩
  · have hpath : (s1.warp t w).path b = some P := by rw [hW]; exact State.path_eq h.2.2.1
    rw [← hnow]
    refine ⟨.of_eq (indirect_uniform h f heff hmem hx hpad false (nomatch ·)) ?_,
      fun hroom => .of_eq (indirect_uniform h f heff hmem hx hpad true fun _ => hroom) ?_⟩
    · exact congrArg (State.settle · t) (goto_goes hpath hle)
    · exact congrArg (State.settle · t) (stack_goto hpath (fun W => .ret (P.pc + 1) P.mem :: W.stack) hle)

end Sys2Proof.Machine

/-! PROOFS. LJOIN, LEND, LEXIT, LBAR and LFRAG (R137, R147, R151, R152, R164, R172). -/

namespace Sys2Proof.Machine

/-- Lanes have arrived at a barrier of a team (R164). -/
def State.barArrive (s : State) (t n : Nat) (ls : Half) : State :=
  s.modTeam t fun T => { T with barriers := T.barriers.ins n (T.barriers.get n 0 + count ls) }

section Path
variable {s : State} {t w : Nat} {b : Bool} (h : s.onPath t w b) (f : LaneWord)
include h

/-! ### An outstanding load holds a path back (R137) -/

theorem board_stays (hboard : (s.path t w b).board ≠ []) :
    exec (.ljoin f) s = .next s ∧ exec (.lend f) s = .next s ∧ exec (.lbar f) s = .next s := by
  have hbusy : (!(s.path t w b).board.isEmpty) = true := by rw [List.isEmpty_eq_false_iff.mpr hboard]; rfl
  refine ⟨?_, ?_, ?_⟩
  · change execLjoin f s = _
    unfold execLjoin
    rw [lane_onPath _ h]
    exact if_pos hbusy
  · change execLend f s = _
    unfold execLend
    rw [lane_onPath _ h]
    exact if_pos hbusy
  · change execLbar f s = _
    unfold execLbar
    rw [lane_onPath _ h]
    exact if_pos (by rw [hbusy]; rfl)

/-- A path that waits at a barrier does not arrive again (R164). -/
theorem exec_lbar_waits (hbar : (s.path t w b).bar.isSome = true) : exec (.lbar f) s = .next s := by
  change execLbar f s = _
  unfold execLbar
  rw [lane_onPath _ h]
  exact if_pos (by rw [hbar, Bool.or_true])

section Empty
variable (hboard : (s.path t w b).board = [])
include hboard

/-! ### LJOIN (R147) -/

theorem exec_ljoin : exec (.ljoin f) s = .next (
    if (s.path t w b).join.bind (s.warp t w).joinAt = some (s.path t w b).pc then
      (s.modWarp t w fun W => { W.setPath b none with stack := W.stack.map (Entry.arrive ((s.path t w b).join.getD 0) (s.path t w b).mem
        (if f.imm = 0 then none else some ((s.die (s.team t).die).cycles + f.imm.toNat)) (f.sub.toNat % 8)) }).settle t
    else (s.modWarp t w fun W => W.setMask (f.sub.toNat % 8) (s.path t w b).mem W.detached).nextIdx t w b) := by
  have hnamed : ((s.path t w b).join.isSome = true ∧ (s.path t w b).join.bind (s.warp t w).joinAt = some (s.path t w b).pc) ↔
      (s.path t w b).join.bind (s.warp t w).joinAt = some (s.path t w b).pc :=
    and_iff_right_of_imp fun hjoin => by cases hj : (s.path t w b).join <;> simp [hj] at hjoin ⊢
  change execLjoin f s = _
  unfold execLjoin
  rw [lane_onPath _ h]
  simp only [hboard, hnamed, sub_bits_low, List.isEmpty_nil, Bool.not_true, Bool.false_eq_true, if_false]
  split_ifs <;> rfl

/-! ### LEND (R152) -/

theorem exec_lend : exec (.lend f) s = .next ((s.modWarp t w fun W =>
    { W.setPath b none with arrived := W.arrived ||| (s.path t w b).mem, stack := W.stack.map (Entry.unexpect (s.path t w b).mem) }).settle t) := by
  change execLend f s = _
  unfold execLend
  rw [lane_onPath _ h]
  simp only [hboard]
  rfl

/-! ### LBAR (R164) -/

theorem exec_lbar (hbar : (s.path t w b).bar = none) : exec (.lbar f) s = .next (State.settle
    (if f.sub.toNat % 2 = 1 then (s.barArrive t (f.imm.toNat % 16) (s.path t w b).mem).nextIdx t w b
      else (s.barArrive t (f.imm.toNat % 16) (s.path t w b).mem).modPath t w b fun p => { p with bar := some (f.imm.toNat % 16) }) t) := by
  change execLbar f s = _
  unfold execLbar
  rw [lane_onPath _ h]
  simp only [hboard, hbar, sub_bit0_iff, List.isEmpty_nil, Option.isSome_none, Bool.not_true, Bool.or_false, Bool.false_eq_true, if_false]
  split_ifs <;> rfl

end Empty

/-! ### LEXIT (R151) -/

theorem exec_lexit : exec (.lexit f) s = .next (((s.exitLanes t w b (s.eff t w b f)).nextIdx t w b).settle t) := by
  change execLexit f s = _
  unfold execLexit
  rw [lane_onPath _ h]

end Path

theorem Path.without_zero {p : Path} (hmem : p.mem ≠ 0) : p.without 0 = some p := by
  unfold Path.without
  rw [and_not_zero, and_not_zero, if_neg hmem]
  simp

/-- The warp after lanes have left the block (R151). -/
def Warp.exited (W : Warp) (b : Bool) (ls : Half) : Warp :=
  { W.leave b ls with arrived := W.arrived ||| ls, stack := W.stack.map (Entry.unexpect ls) }

theorem exitLanes_eq (s : State) (t w : Nat) (b : Bool) (ls : Half) : s.exitLanes t w b ls = s.modWarp t w (·.exited b ls) := by
  cases b <;> rfl

theorem path_exited (W : Warp) (b : Bool) (ls : Half) : (W.exited b ls).path b = (W.path b).bind (Path.without ls) := by cases b <;> rfl

theorem setPath_exited (W : Warp) (b : Bool) (ls : Half) (p : Option Path) : (W.exited b ls).setPath b p =
    { W.setPath b p with arrived := W.arrived ||| ls, stack := W.stack.map (Entry.unexpect ls) } := by cases b <;> rfl

/-- LEXIT with no lane with effect: the members go on. -/
theorem exitLanes_none {s : State} {t w : Nat} {b : Bool} (h : s.onPath t w b) (hgo : s.goesOn t w b) (hmem : (s.path t w b).mem ≠ 0) :
    (s.exitLanes t w b 0).nextIdx t w b = s.modWarp t w fun W =>
      { W.setPath b (some ((s.path t w b).stepped s.now)) with stack := W.stack.map (Entry.unexpect 0) } := by
  have hpath : ((s.warp t w).exited b 0).path b = (s.warp t w).path b := by
    rw [path_exited, State.path_eq h.2.2.1]
    exact Path.without_zero hmem
  rw [exitLanes_eq, modWarp_nextIdx h hgo _ hpath]
  refine State.modWarp_congr _ _ _ _ _ ?_
  rw [setPath_exited, show (s.warp t w).arrived ||| 0 = (s.warp t w).arrived from BitVec.or_zero]
  cases b <;> rfl

/-- LEXIT of every member: the slot becomes empty. -/
theorem exitLanes_all {s : State} {t w : Nat} {b : Bool} (h : s.onPath t w b) :
    (s.exitLanes t w b (s.path t w b).mem).nextIdx t w b = s.modWarp t w fun W =>
      { W.setPath b none with arrived := W.arrived ||| (s.path t w b).mem, stack := W.stack.map (Entry.unexpect (s.path t w b).mem) } := by
  have hpath : ((s.warp t w).exited b (s.path t w b).mem).path b = none := by
    rw [path_exited, State.path_eq h.2.2.1]
    exact Path.without_mem _
  have hpc : ((s.modWarp t w (·.exited b (s.path t w b).mem)).path t w b).pc = 0 := by
    unfold State.path
    rw [State.warp_modWarp_self _ _ _ _ (State.hasWarp_of_live h.2.1)]
    exact congrArg (fun p => (p.getD {}).pc) hpath
  rw [exitLanes_eq, State.nextIdx, hpc, goto_eq _ _ _ _ (by decide), State.modWarp_modWarp]
  refine State.modWarp_congr _ _ _ _ _ ?_
  rw [hpath]
  exact setPath_exited ..

/-! ### LFRAG (R172) -/

/-- The bitmap that LFRAG reads. -/
def State.laneSet (s : State) (t w : Nat) (b : Bool) (k : Nat) : Half :=
  if k = 0 then s.parked t w else if k = 1 then (s.warp t w).dead else if k = 2 then (((s.warp t w).path (!b)).map (·.mem)).getD 0
  else (s.warp t w).detached

theorem exec_lfrag {s : State} {t w : Nat} {b : Bool} (h : s.onPath t w b) (f : LaneWord) :
    exec (.lfrag f) s = laneWrites f [] (fun _ _ => out1 false f.vd (s.laneSet t w b (f.sub.toNat % 4)).toNat) s := by
  have hother : (((s.warp t w).path (!b)).getD {}).mem = (((s.warp t w).path (!b)).map (·.mem)).getD 0 := by cases (s.warp t w).path (!b) <;> rfl
  have hlt : f.sub.toNat % 4 < 4 := Nat.mod_lt _ (by norm_num)
  change execLfrag f s = _
  unfold execLfrag out1 State.laneSet
  rw [h.1, bits_low]
  simp only [hother, Bool.false_eq_true, if_false, BitVec.ofNat_toNat, BitVec.setWidth_eq]
  change laneWrites f [] (fun _ _ => [(f.vd.toNat, match f.sub.toNat % 4 with | 0 => _ | 1 => _ | 2 => _ | _ => _)]) s = _
  generalize f.sub.toNat % 4 = k at hlt
  interval_cases k <;> rfl

/-- Settles O36: each instruction's equation; LEXIT of no lane and of every member by `exitLanes_none` and `exitLanes_all`. -/
theorem laneJoinsAndBarriers : Obligations.LaneJoinsAndBarriers := by
  intro s t w b h hgo f W P n next counted
  have hpath : W.path b = some P := State.path_eq h.2.2.1
  have hcounted : counted.warp t w = W := warp_modTeam_of_warps fun _ => rfl
  have hcountedPath : counted.path t w b = P := State.path_of (by rw [hcounted]; exact hpath)
  refine ⟨fun hboard => ?_, fun hboard => ⟨fun hjoin => ?_, fun j hj hat => ?_, ?_, fun hbar => ?_, fun hbar => ⟨fun harrive => ?_, fun hsync => ?_⟩⟩,
    fun heff hmem => ?_, fun heff hmem => ?_, ?_⟩
  · obtain ⟨hljoin, hlend, hlbar⟩ := board_stays h f hboard
    exact ⟨.of_eq hljoin rfl, .of_eq hlend rfl, .of_eq hlbar rfl⟩
  · have hrun := exec_ljoin h f hboard
    rw [if_neg hjoin] at hrun
    exact .of_eq hrun (modWarp_nextIdx h hgo _ (by rw [setMask_fields]; cases b <;> rfl))
  · have hrun := exec_ljoin h f hboard
    rw [if_pos (by rw [hj]; exact hat), hj] at hrun
    exact .of_eq hrun rfl
  · exact .of_eq (exec_lend h f hboard) rfl
  · exact .of_eq (exec_lbar_waits h f hbar) rfl
  · have hrun := exec_lbar h f hboard hbar
    rw [if_pos harrive] at hrun
    have hstep := nextIdx_goes (s := counted) (t := t) (w := w) (b := b) (by rw [hcounted]; exact h.2.2.1)
      (by unfold State.goesOn; rw [hcountedPath]; exact hgo)
    rw [hcountedPath] at hstep
    exact .of_eq hrun (congrArg (State.settle · t) hstep)
  · have hrun := exec_lbar h f hboard hbar
    rw [if_neg (by omega)] at hrun
    have hwait : (counted.modPath t w b fun p => { p with bar := some n }) = counted.modWarp t w (·.setPath b (some { P with bar := some n })) :=
      State.modWarp_congr _ _ _ _ _ (by rw [hcounted, hpath]; rfl)
    exact .of_eq hrun (congrArg (State.settle · t) hwait)
  · exact .of_eq ((exec_lexit h f).trans (by rw [heff])) ⟨_, congrArg (State.settle · t) (exitLanes_none h hgo hmem), rfl⟩
  · exact .of_eq ((exec_lexit h f).trans (by rw [heff])) (congrArg (State.settle · t) (exitLanes_all h))
  · exact laneWrites_gives h hgo (exec_lfrag h f) fun l => rfl

end Sys2Proof.Machine
